-- ==== Sys2Proof/Word.lean ====
section
/-! DEFINITION. The word types of the part: bytes, 16-bit and 32-bit fields, and the model's unit of time. -/

namespace Sys2Proof

/-- One byte of the Exchange RAM (R176). -/
abbrev Byte := BitVec 8

/-- A 16-bit field: post sequences, masks, counters of the source records (R190). -/
abbrev Half := BitVec 16

/-- A 32-bit field: frame numbers, tags, registers (R190, R194). -/
abbrev Word := BitVec 32

/-- A time or an interval in units of 0.1 µs, the unit in which the wall timing unit measures (R117). -/
abbrev Time := Nat

end Sys2Proof
end

