-- ==== Sys2Proof/Syntax.lean ====
section
/-! DEFINITION. The commands of the part: one constructor for each row of spec/opcode_table.json, and their operands. -/

namespace Sys2Proof

/-- Scan of a measured format (R78, R193). -/
inductive Scan where
  | progressive
  | interlaced
deriving DecidableEq, Repr

/-- The measurement a frame arrival carries (R78). The period is in µs. -/
structure Measurement where
  width : Half
  height : Half
  scan : Scan
  tag : Option Word
  period : Option Nat
deriving DecidableEq, Repr

/-- The fields of a MODECTL write whose REQUEST names a request (R129). -/
structure RequestWrite where
  serve : Bool
  permit : Bool
  intEnable : Bool
deriving DecidableEq, Repr

/-- The two stored fields of a MODECTL write, OVERRIDE_PERMIT and INT_ENABLE (R129). -/
structure PermitWrite where
  permit : Bool
  intEnable : Bool
deriving DecidableEq, Repr

/-- The four switches of the function's PCIe configuration (R188). -/
structure PcieSwitches where
  memoryDecode : Bool
  requests : Bool
  msi : Bool
  legacyDisable : Bool
deriving DecidableEq, Repr

/-- What made a link reset; the three act alike (R188). -/
inductive LinkResetCause where
  | hotReset
  | linkLoss
  | perst
deriving DecidableEq, Repr

/-- The three rings: journal J, urgent ring U, routine ring N (R148). -/
inductive RingId where
  | journal
  | urgent
  | routine
deriving DecidableEq, Repr

/-- The three mirrors of the live layout, each with a writing marker (R22, R161). -/
inductive Mirror where
  | windowTable
  | tilePlans
  | filterList
deriving DecidableEq, Repr

/-- A part of the slot table section that the status writer copies on its own (R27). -/
inductive SlotTablePart where
  | header
  | record (slot : Fin 16)
deriving DecidableEq, Repr

/-- One command of the block: one constructor for each row of spec/opcode_table.json. -/
inductive Instr where
  | powerOnReset
  | ramClearComplete
  | linkReset (cause : LinkResetCause)
  | pcieConfigChange (switches : PcieSwitches)
  | bar0Write (offset : Nat) (data : List Byte)
  | bar0Read (offset length : Nat)
  | fallbackRecordReadDone
  | softReset (w : PermitWrite)
  | requestRun (w : RequestWrite)
  | requestHold (w : RequestWrite)
  | requestFallback (w : RequestWrite)
  | requestQuiesce (w : RequestWrite)
  | requestConfig (w : RequestWrite)
  | requestInvalid (value : BitVec 3) (w : RequestWrite)
  | serve (w : PermitWrite)
  | overridePermit (w : PermitWrite)
  | intEnable (w : PermitWrite)
  | post (mask : BitVec 16)
  | postChecksComplete
  | cancel (mask : BitVec 16)
  | slotreqNoAction (action : BitVec 2) (mask : BitVec 16)
  | release (selector : BitVec 2) (count : BitVec 11)
  | causeWrite (value : Word)
  | causeenWrite (value : Word)
  | nextcauseRead (offset length : Nat)
  | nextcauseWrite (value : Word)
  | registerWriteDiscarded (offset length : Nat)
  | activationChecksComplete (attempt : Nat)
  | planPoint
  | buildTakeCheck
  | buildComplete (target : Word) (attempt : Nat)
  | boundary
  | mirrorRewriteDone (mirror : Mirror)
  | sourceRecordPublished (source : Fin 44)
  | ringEntryWrite (ring : RingId)
  | activityArrival (lane : Fin 40)
  | activityLoss (lane : Fin 40)
  | frameArrival (lane : Fin 40) (m : Measurement)
  | frameTimeout (lane : Fin 40)
  | lossHoldExpiry (lane : Fin 40)
  | referenceArrival (time : Time)
  | missingPulse
  | holdoverExpiry
  | supervisionExpiry
  | linkReturn
  | slotTableWritten (part : SlotTablePart)
  | ringHeaderRewrite (ring : RingId)
deriving DecidableEq, Repr

end Sys2Proof
end

