-- ==== Sys2Proof/Decode.lean ====
section
/-! DEFINITION. From written words to commands. No row of the command table has bits, so no word spells a command;
a driver's register write, given its BAR2 offset, length and value, is read as the command it makes (R186, R194). -/

namespace Sys2Proof

/-- No row of spec/opcode_table.json gives bits, so no word is a command (log 36). -/
def decodeTableWord (_nbits _w : Nat) : Option Instr := none

/-- The stored fields of a MODECTL value (R194). -/
def permitFields (v : Word) : PermitWrite := ⟨v.getLsbD 8, v.getLsbD 9⟩

/-- The fields of a MODECTL value that makes a request (R194). -/
def requestFields (v : Word) : RequestWrite := ⟨v.getLsbD 5, v.getLsbD 8, v.getLsbD 9⟩

/-- The command a whole MODECTL write makes (R129, R194). With REQUEST NONE and SERVE 0 the write only stores
OVERRIDE_PERMIT and INT_ENABLE; the rows OVERRIDE_PERMIT and INT_ENABLE name the two halves of that one write, and it is
read here as the first. -/
def modectlCommand (v : Word) : Instr :=
  if v.getLsbD 4 then .softReset (permitFields v)
  else match (v.extractLsb' 0 3).toNat with
    | 0 => if v.getLsbD 5 then .serve (permitFields v) else .overridePermit (permitFields v)
    | 1 => .requestRun (requestFields v)
    | 2 => .requestHold (requestFields v)
    | 3 => .requestFallback (requestFields v)
    | 4 => .requestQuiesce (requestFields v)
    | 5 => .requestConfig (requestFields v)
    | _ => .requestInvalid (v.extractLsb' 0 3) (requestFields v)

/-- The command a whole SLOTREQ write makes (R37, R194). -/
def slotreqCommand (v : Word) : Instr :=
  match (v.extractLsb' 16 2).toNat with
  | 1 => .post (v.extractLsb' 0 16)
  | 2 => .cancel (v.extractLsb' 0 16)
  | _ => .slotreqNoAction (v.extractLsb' 16 2) (v.extractLsb' 0 16)

/-- The command made by a driver write of `value` at BAR2 offset `offset` with length `length` (R186): the register's own
command when the write is 4 bytes long, aligned and to a register that takes writes, else a discarded write. -/
def registerWriteCommand (offset length : Nat) (value : Word) : Instr :=
  if length ≠ 4 then .registerWriteDiscarded offset length
  else match offset with
    | 0x04 => modectlCommand value
    | 0x0C => slotreqCommand value
    | 0x10 => .release (value.extractLsb' 16 2) (value.extractLsb' 0 11)
    | 0x14 => .causeWrite value
    | 0x18 => .causeenWrite value
    | 0x1C => .nextcauseWrite value
    | _ => .registerWriteDiscarded offset length

end Sys2Proof
end

