-- ==== Sys2Proof/Config.lean ====
section
/-! DEFINITION. What is fixed in the part, and the values the spec leaves open (free values: constants with no body). -/

namespace Sys2Proof.Config

/-- Length of BAR0 and of the Exchange RAM (R176). -/
def ramSize : Nat := 262144

/-- Number of external sources (R75, R187). -/
def externalSources : Nat := 40

/-- Number of sources, internal ones included (R75). -/
def allSources : Nat := 44

/-- The slate, source 40 (R75). -/
def slate : Nat := 40

/-- The tile identity grid, source 41 (R23, R75). -/
def identityGrid : Nat := 41

/-- Number of windows (R2). -/
def windowCount : Nat := 64

/-- Number of take slots (R26). -/
def slotCount : Nat := 16

/-- Number of tile output ports (R16). -/
def tilePorts : Nat := 32

/-- Number of scaler contexts (R14). -/
def scalerContexts : Nat := 32

/-- Number of filter entries (R159). -/
def filterCount : Nat := 16

/-- DESIGN CHOICE, log 21 (safe): the rate of the format of a source whose third qualifying frame carries a period of 0, or none.
The spec computes the rate from that period (R80), and no lane reports such a frame there (R78). Applied to a counter. -/
opaque unstatedRate : Nat → Nat

/-- DESIGN CHOICE, log 22 (safe): the corner of the source region of a window whose effective crop is empty. The spec gives
the corner of an effective crop only when it is not empty (R9). Applied to the crop and the active area. -/
opaque emptyCropCorner : (x y w h activeWidth activeHeight : Nat) → Nat × Nat

end Sys2Proof.Config
end

