-- ==== Sys2Proof/Machine/State.lean ====
section
/-! DEFINITION. The state of the part as plain data, block by block, the reasons a step can stop, and the state after
power-on reset. -/

namespace Sys2Proof.Machine

/-! Enumerations. Their numeric encodings (R190) stand in Machine/Formats.lean. -/

/-- The eight operating modes (R126). -/
inductive Mode where
  | starting | config | activating | run | hold | fallback | quiescing | quiesced
deriving DecidableEq, Repr

/-- What moved the mode (R126). -/
inductive Trigger where
  | request | redirect | overrunLimit | supervision | checksFailed | activationDone | quiesceDone
deriving DecidableEq, Repr

/-- Substitution state of a window (R11). -/
inductive SubState where
  | none | backup | slate
deriving DecidableEq, Repr

/-- Loss action of a window (R12). -/
inductive LossAction where
  | slate | follow
deriving DecidableEq, Repr

/-- Restore mode of a window (R12). -/
inductive RestoreMode where
  | auto | manual
deriving DecidableEq, Repr

/-- State of a source (R82). -/
inductive SourceState where
  | disabled | absent | acquiring | locked | overclass | lossHold
deriving DecidableEq, Repr

/-- Reference state of the wall timing unit (R117). -/
inductive RefState where
  | freerun | locked | holdover
deriving DecidableEq, Repr

/-- State of a take slot (R27). -/
inductive SlotState where
  | idle | posted | building
deriving DecidableEq, Repr

/-- Result of the last SLOTREQ action on a slot (R27). -/
inductive RefusalReason where
  | none | mode | busy | noRoom | notPosted
deriving DecidableEq, Repr

/-- Outcome of a take (R153). -/
inductive TakeOutcome where
  | applied | rejected | cancelled | expired | abandoned
deriving DecidableEq, Repr

/-- Reason of a rejected take (R190, table of reasons). -/
inductive Reason where
  | none | badCount | badCheck | noCheck | late | badKind | badWindow | badSource | sourceDisabled | outOfWall
  | tooSmall | badCrop | badRank | badFilter | protectedEdit | sourceNotReady | tagMismatch | notSubstituted
  | rankClash | protectedCover | layerBudget | fetchBudget | scalerExhausted
deriving DecidableEq, Repr

/-- Kind of an event entry (R157). -/
inductive EventKind where
  | source | format | substitute | restore | overrun | mode | timing | supervision
deriving DecidableEq, Repr

/-- Action of a filter entry (R159). -/
inductive FilterAction where
  | discard | urgent | routine
deriving DecidableEq, Repr

/-- Activation failure codes (R133). -/
inductive FailCode where
  | none | geometry | rate | planLead | ringParam | sectionRange | sectionAlign | sectionSize | sectionOverlap
  | sourceParam | filterParam | startLayout | fallbackEntry | fallbackLayout
deriving DecidableEq, Repr

/-- The fourteen cause flags in the order of their codes (R168). -/
inductive Cause where
  | fallbackEntered | holdEntered | activationFailed | modeFail | urgentWatermark | journalWatermark
  | routineWatermark | overrun | eventsLost | slotRefused | writeViolation | releaseError | timingChange
  | modeReached
deriving DecidableEq, Repr

/-- Kind of a system edit (R96). -/
inductive EditKind where
  | substitute | restore
deriving DecidableEq, Repr

/-- Cause of a system edit (R96). -/
inductive EditCause where
  | routedLoss | backupLoss | sourceReturn | commitCheck
deriving DecidableEq, Repr

/-- The two sides of the Exchange RAM arbiter (R184). -/
inductive Side where
  | exchangePort | controller
deriving DecidableEq, Repr

/-- The five masters that ask the arbiter for grants (R184). -/
inductive Master where
  | exchangePort | ringWriter | commitWriter | takeReader | statusWriter
deriving DecidableEq, Repr

/-- The three wall rates (R112). -/
inductive WallRate where
  | r50000 | r59940 | r60000
deriving DecidableEq, Repr

/-- Writes of at most one 64-byte block each, in the order in which they are granted (R184): address and bytes. -/
abbrev Blocks := List (Nat × List Byte)

/-- Work of the ring writer that takes several grants: the clearing of a ring's entry area (R163, R164), and the bytes of the
entry that waits first for a ring, before the header write that counts it (R149). -/
inductive RingJob where
  | clear (ring : RingId)
  | entry (ring : RingId)
deriving DecidableEq, Repr

/-- Work of the status writer that takes several grants: the rewrite of a whole section (R189), of a mirror (R22), of a source
record (R93). -/
inductive StatusJob where
  | wholeSection (n : Nat)
  | mirror (m : Mirror)
  | source (i : Nat)
deriving DecidableEq, Repr

/-- A header write of a boundary, which the status writer hands to the commit writer (R185): the current frame into the slot table
header, or the setting of a mirror's writing marker. -/
inductive HeaderWrite where
  | frame (n : Word)
  | marker (m : Mirror)
deriving DecidableEq, Repr

/-! The live layout (R1 to R20). -/

/-- A rectangle: wall pixels (R4), source pixels (R9) or tile pixels (R17), by its place. -/
structure Rect where
  x : Nat
  y : Nat
  w : Nat
  h : Nat
deriving DecidableEq, Repr

/-- One window record (R2). -/
structure WindowRec where
  visible : Bool
  routed : Nat
  shown : Nat
  sub : SubState
  rect : Rect
  rank : Nat
  native : Bool
  prot : Bool
  crop : Option Rect
  expectedTag : Option Word
  loss : LossAction
  restore : RestoreMode
  ctx : Option Nat
  lastCommitFrame : Word
  lastTakeTag : Word
deriving DecidableEq, Repr

/-- The cleared window record (R25). -/
def WindowRec.cleared : WindowRec :=
  { visible := false, routed := 0, shown := 0, sub := .none, rect := ⟨0, 0, 0, 0⟩, rank := 0, native := false,
    prot := false, crop := none, expectedTag := none, loss := .slate, restore := .auto, ctx := none,
    lastCommitFrame := 0, lastTakeTag := 0 }

/-- One fragment of a tile plan (R17). -/
structure Fragment where
  window : Nat
  shown : Nat
  charge : Nat
  ctx : Option Nat
  clip : Rect
  src : Rect
deriving DecidableEq, Repr

/-- One entry of the filter list (R159). Bit k − 1 of the kind set names event kind k (R192). -/
structure FilterEntry where
  enabled : Bool
  kinds : BitVec 8
  low : Nat
  high : Nat
  action : FilterAction
deriving DecidableEq, Repr

/-- The cleared filter entry (R161). -/
def FilterEntry.cleared : FilterEntry :=
  { enabled := false, kinds := 0, low := 0, high := 0, action := .discard }

/-- A layout: the live layout or a draft (R1). The scaler pool is read from the window records: a context is held by the
window whose record names it (R14). -/
structure Layout where
  windows : List WindowRec
  plans : List (List Fragment)
  filters : List FilterEntry
deriving DecidableEq, Repr

/-- The cleared layout (R25, R161). -/
def Layout.cleared : Layout :=
  { windows := List.replicate Config.windowCount WindowRec.cleared, plans := [],
    filters := List.replicate Config.filterCount FilterEntry.cleared }

/-! Takes, edits and builds. -/

/-- The take header as read at post (R28). -/
structure TakeHeader where
  driverTag : Word
  urgent : Bool
  checked : Bool
  overrides : Bool
  dueAt : Bool
  requireLocked : Bool
  dueFrame : Word
  deadline : Nat
  count : Nat
  checkCode : Half
deriving DecidableEq, Repr

/-- The header value held for a slot that has had no take (never read while the slot is IDLE). -/
def TakeHeader.empty : TakeHeader :=
  { driverTag := 0, urgent := false, checked := false, overrides := false, dueAt := false, requireLocked := false,
    dueFrame := 0, deadline := 0, count := 0, checkCode := 0 }

/-- One slot record of the take engine (R27), with the header of the slot's take as read at post (R28). -/
structure SlotRec where
  state : SlotState
  seq : Half
  due : Word
  cancelRequested : Bool
  lastRefusal : RefusalReason
  header : TakeHeader
deriving DecidableEq, Repr

/-- A slot record after power-on or soft reset (R47). -/
def SlotRec.empty : SlotRec :=
  { state := .idle, seq := 0, due := 0, cancelRequested := false, lastRefusal := .none, header := .empty }

/-- A filter entry as its bytes stand, before its limits are checked (R35, R192). -/
structure RawFilter where
  enabled : Bool
  action : Nat
  low : Nat
  high : Nat
  kinds : Half
deriving DecidableEq, Repr

/-- One take entry as its bytes stand (R192). -/
structure Entry where
  kind : Nat
  window : Nat
  source : Nat
  rank : Nat
  native : Bool
  prot : Bool
  cropPresent : Bool
  tagPresent : Bool
  follow : Bool
  manual : Bool
  rect : Rect
  crop : Rect
  tag : Word
  filter : RawFilter
deriving DecidableEq, Repr

/-- One pending system edit (R96). The serial number is the model's own (log 19): it tells an edit from a later one for the
same window. -/
structure Edit where
  serial : Nat
  kind : EditKind
  window : Nat
  routed : Nat
  cause : EditCause
deriving DecidableEq, Repr

/-- What became of an edit of the edit set (R103, R105). -/
inductive EditOutcome where
  | dropped
  | applied (old new : SubState) (shown : Nat)
deriving DecidableEq, Repr

/-- The result of a checked take (R54, R58). -/
structure TakeResult where
  applied : Bool
  reason : Reason
  failedEntry : Option Nat
  failedTile : Option Nat
deriving DecidableEq, Repr

/-- One slot of the build's take list (chapter 03, the build record). -/
structure BuildTake where
  slot : Nat
  result : Option TakeResult
deriving DecidableEq, Repr

/-- Build status while a build exists (chapter 03); NONE is the absence of a build record. -/
inductive BuildStatus where
  | running | ready
deriving DecidableEq, Repr

/-- How far the checks of one take have come (R54): the number of entries that have passed, the draft as they leave it, and the
reason for which the entry after them failed, if it did. -/
structure TakeCheck where
  passed : Nat
  draft : Layout
  failed : Option Reason
deriving DecidableEq, Repr

/-- The build record (chapter 03). `inTake`: the checks of the first take without a result, when they have begun (R54, R56).
`named` lists the windows named by applied takes with the takes' driver tags, in order (R13). `attempt` numbers the restarts of
the build (R73, log 19). -/
structure BuildRecord where
  status : BuildStatus
  target : Word
  attempt : Nat
  draft : Layout
  edits : List (Edit × EditOutcome)
  takes : List BuildTake
  inTake : Option TakeCheck
  named : List (Nat × Word)
deriving DecidableEq, Repr

/-! Sources. -/

/-- The settings of a source (R76). Loss hold is in units of 10 ms. -/
structure SourceSettings where
  enabled : Bool
  declaredClass : Nat
  backup : Option Nat
  lossHold : Nat
deriving DecidableEq, Repr

/-- A qualified format (R80). The rate is in millihertz. -/
structure Format where
  width : Nat
  height : Nat
  scan : Scan
  tag : Option Word
  rate : Nat
deriving DecidableEq, Repr

/-- A complete source frame as the tile output ports receive it from a lane: its number on the lane, which tells it from every
other, and its scan (R23, R24; the number is the model's own, log 42). -/
structure SourceFrame where
  number : Nat
  scan : Scan
deriving DecidableEq, Repr

/-- One source record (R82), with what is noted of the lane: whether activity is present and whether a frame has arrived since
it arrived (R78), the time from which the frame timeout is counted (R88), and the most recent complete frame (R23, R24). The
loss hold timer is held as its end time; none when stopped. -/
structure SourceRec where
  state : SourceState
  settings : SourceSettings
  stable : Nat
  qualified : Option Format
  measuredClass : Option Nat
  holdEnd : Option Time
  lockCount : Nat
  lossCount : Nat
  candidate : Option Measurement
  activity : Bool
  framed : Bool
  watchFrom : Time
  latest : Option SourceFrame
deriving DecidableEq, Repr

/-- An external source after power-on reset (R94). That no lane's activity is noted as present before its first activity arrival
is the model's choice (log 9). -/
def SourceRec.external : SourceRec :=
  { state := .disabled, settings := ⟨false, 0, none, 0⟩, stable := 0, qualified := none, measuredClass := none,
    holdEnd := none, lockCount := 0, lossCount := 0, candidate := none, activity := false,
    framed := false, watchFrom := 0, latest := none }

/-- An internal source at a wall rate of `rate` millihertz (R75). -/
def SourceRec.internal (rate : Nat) : SourceRec :=
  { state := .locked, settings := ⟨true, 1, none, 0⟩, stable := 3,
    qualified := some ⟨1920, 1080, .progressive, none, rate⟩, measuredClass := some 1,
    holdEnd := none, lockCount := 0, lossCount := 0, candidate := none, activity := false,
    framed := false, watchFrom := 0, latest := none }

/-! Configuration and activation. -/

/-- A placed area of the Exchange RAM (R178). -/
structure Section where
  start : Nat
  size : Nat
deriving DecidableEq, Repr

/-- The section map: sections 1 to 10 in order (R133, R178). -/
abbrev SectionMap := List Section

/-- Capacity and watermark of a ring as configured (R133). -/
structure RingParams where
  capacity : Nat
  watermark : Nat
deriving DecidableEq, Repr

/-- One source settings record as its bytes stand (R191). -/
structure RawSettings where
  enabled : Bool
  declaredClass : Nat
  backup : Nat
  lossHold : Nat
deriving DecidableEq, Repr

/-- What an activation reads: the fields of the configuration section and the fallback record as their bytes stand (R132, R191).
-/
structure ConfigImage where
  cols : Nat
  rows : Nat
  lead : Nat
  rate : Nat
  journal : RingParams
  urgent : RingParams
  routine : RingParams
  supervision : Nat
  requireChecked : Bool
  startSelector : Nat
  defaultAction : Nat
  map : SectionMap
  filters : List RawFilter
  settings : List RawSettings
  fallbackCount : Nat
  fallbackEntries : List Entry
deriving DecidableEq, Repr

/-- The captured configuration (R131). The lead is in µs, the supervision interval in 100 ms. -/
structure Captured where
  cols : Nat
  rows : Nat
  lead : Nat
  rate : WallRate
  journal : RingParams
  urgent : RingParams
  routine : RingParams
  supervision : Nat
  requireChecked : Bool
  startFallback : Bool
  defaultAction : FilterAction
  map : SectionMap
  filters : List FilterEntry
  settings : List SourceSettings
deriving DecidableEq, Repr

/-- The activation progress (R131): CHECKING holds what the activation reads, PASSED the capture and the fallback plan that
wait for the boundary. -/
inductive Progress where
  | none
  | checking (image : ConfigImage)
  | passed (capture : Captured) (plan : List WindowRec)
deriving DecidableEq, Repr

/-! Rings, entries and events. -/

/-- One ring of the reporting unit (R148), with the header work the ring writer still has to do (R149, R151, R163). -/
structure Ring where
  capacity : Nat
  fill : Nat
  writeIndex : Nat
  releaseIndex : Nat
  watermark : Nat
  gap : Nat
  reserved : Nat
  headerPending : Bool
  initPending : Bool
deriving DecidableEq, Repr

/-- A ring before the first successful activation (R162). -/
def Ring.none : Ring :=
  { capacity := 0, fill := 0, writeIndex := 0, releaseIndex := 0, watermark := 0, gap := 0, reserved := 0,
    headerPending := false, initPending := false }

/-- A journal entry handed to the reporting unit (R153). `frame` none: the wall frame counter when the entry is written. -/
structure JournalEntry where
  slot : Nat
  outcome : TakeOutcome
  reason : Reason
  failedEntry : Option Nat
  failedTile : Option Nat
  cancelLate : Bool
  driverTag : Word
  seq : Half
  frame : Option Word
deriving DecidableEq, Repr

/-- An event handed to the reporting unit (R157). `frame` none: the wall frame counter when the event is written. -/
structure Event where
  kind : EventKind
  index : Nat
  oldState : Byte
  newState : Byte
  detail : Word
  frame : Option Word
deriving DecidableEq, Repr

/-! The blocks. -/

/-- The exchange port (chapter 10). `completion` holds the bytes returned by the driver read taken last, `line` the legacy
interrupt line, `msiSent` the number of messages sent. Of the access at the head of the queue, when some of its blocks have been
served: `partRead` holds the bytes read so far, `partLost` tells whether a written byte was discarded (R177, R182, R184). -/
structure ExchangePort where
  linkUp : Bool
  pcie : PcieSwitches
  holdArea : Option Section
  waiting : List Instr
  completion : List Byte
  partRead : List Byte
  partLost : Bool
  line : Bool
  msiSent : Nat
deriving DecidableEq, Repr

/-- The take engine (chapter 02). `behindBuild`: the post checks in hand asked the take reader after the build read in hand
(R60). -/
structure TakeEngine where
  slots : List SlotRec
  nextSeq : Half
  checking : Option Nat
  behindBuild : Bool
  toHandle : List Nat
deriving DecidableEq, Repr

/-- The composer (chapters 01, 03, 05). -/
structure Composer where
  live : Layout
  epoch : Word
  pendingEdits : List Edit
  editSerial : Nat
  build : Option BuildRecord
  overruns : Nat
  fallbackOwed : Bool
  fallbackPlan : Option (List WindowRec)
deriving DecidableEq, Repr

/-- What a port shows for a fragment in one output frame (R23). -/
inductive Picture where
  | live | held | slate
deriving DecidableEq, Repr

/-- A fragment of the output frame in progress: what is shown (R23); the complete source frame taken for it, none where the
picture is an internal source's (R23, R24); the tile index drawn into source 41, the tile identity grid (R23); the source
rectangle (R18), and what places the picture: the window's rectangle, its nativeness and the source region (R7, R8, R9). -/
structure ShownFragment where
  frag : Fragment
  picture : Picture
  frame : Option SourceFrame
  tile : Option Nat
  src : Rect
  native : Bool
  rect : Rect
  region : Rect
deriving DecidableEq, Repr

/-- A tile output port: the plan it holds and the output frame in progress (R21, R24). -/
structure TilePort where
  plan : List Fragment
  output : List ShownFragment
deriving DecidableEq, Repr

/-- The wall timing unit (chapter 06). Times in 0.1 µs from the end of power-on reset; the lead in µs. -/
structure Timing where
  rate : WallRate
  lead : Nat
  lastBoundary : Time
  nextBoundary : Time
  nextPlan : Time
  planDone : Bool
  afterNext : Option Time
  frame : Word
  ref : RefState
  goodRun : Nat
  missingRun : Nat
  measured : Option Nat
  intervals : List Nat
  runIntervals : List Nat
  prediction : Option Time
  prevArrival : Option Time
  prevExpected : Option Time
  holdoverStart : Option Time
deriving DecidableEq, Repr

/-- The mode controller (chapter 07). `reading`: the activation in CHECKING still has bytes to read through the take reader (R131,
R132, R181). -/
structure ModeCtl where
  mode : Mode
  progress : Progress
  reading : Bool
  attempt : Nat
  captured : Option Captured
  supervision : Option Time
  failCode : FailCode
  failIndex : Nat
  permit : Bool
  intEnable : Bool
deriving DecidableEq, Repr

/-- The reporting unit (chapters 08, 09). `ringJob`: the work of several grants that the ring writer has begun, with the number
of its blocks that stand (R149, R184). -/
structure Report where
  journal : Ring
  urgent : Ring
  routine : Ring
  journalQueue : List JournalEntry
  urgentQueue : List Event
  routineQueue : List Event
  ringJob : Option (RingJob × Nat)
  causes : BitVec 14
  enables : BitVec 14
  condition : Bool
deriving DecidableEq, Repr

/-- The status writer (R22, R27, R93): which rewrites it still has to finish, and the counts of the source status section.
`toRewrite` lists the sections, 3 to 7, that a soft reset or the end of an activation leaves to be rewritten whole (R135, R189).
`headerWrites` are the header writes handed to the commit writer and not yet granted, in order (R185). `job`: the work of several
grants that the status writer has begun, with the number of its blocks that stand (R22, R93, R184). -/
structure StatusWriter where
  toRewrite : List Nat
  headerWrites : List HeaderWrite
  job : Option (StatusJob × Nat)
  windowsPending : Bool
  plansPending : Bool
  filtersPending : Bool
  slotDirty : BitVec 16
  slotHeaderDirty : Bool
  sourceDirty : BitVec 44
  updateCounts : List Half
  changeCount : Word
deriving DecidableEq, Repr

/-- The whole part. -/
structure State where
  pending : List Instr
  now : Time
  freeIdx : Nat
  ram : List Host.Cell
  lastServed : Side
  port : ExchangePort
  takes : TakeEngine
  composer : Composer
  ports : List TilePort
  sources : List SourceRec
  timing : Timing
  modes : ModeCtl
  report : Report
  status : StatusWriter
deriving DecidableEq, Repr

/-! Why a step can stop. -/

/-- The reasons a step can end in a fault. -/
inductive Fault where
  /-- Raised by BAR0_WRITE and BAR0_READ for an access that names a byte outside the 262,144 of BAR0 (R176), or no byte at
  all. Safe: the model stops (log 30). -/
  | outsideBar0
deriving DecidableEq, Repr

/-- The reasons a step can be refused. -/
inductive Refusal where
  /-- Raised by the dispatcher for a command that has no meaning in the model. Safe. No arm raises it. -/
  | notModelled (mnemonic : String)
deriving DecidableEq, Repr

/-! Reset. -/

/-- The switches after power-on reset and link reset (R188). -/
def pcieReset : PcieSwitches :=
  { memoryDecode := false, requests := false, msi := false, legacyDisable := false }

/-- The exchange port after power-on reset (R188, R189). The link is up (log 6). -/
def ExchangePort.reset : ExchangePort :=
  { linkUp := true, pcie := pcieReset, holdArea := none, waiting := [], completion := [], partRead := [],
    partLost := false, line := false, msiSent := 0 }

/-- The take engine after power-on or soft reset (R47). -/
def TakeEngine.reset : TakeEngine :=
  { slots := List.replicate Config.slotCount SlotRec.empty, nextSeq := 0, checking := none, behindBuild := false,
    toHandle := [] }

/-- The composer after power-on reset (R25, R74, R96, R146). -/
def Composer.reset : Composer :=
  { live := Layout.cleared, epoch := 0, pendingEdits := [], editSerial := 0, build := none, overruns := 0,
    fallbackOwed := false, fallbackPlan := none }

/-- A port with an empty plan, sending black (R16). -/
def TilePort.black : TilePort := { plan := [], output := [] }

/-- The source monitor after power-on reset (R75, R94): the wall rate is 60.000. -/
def sourcesReset : List SourceRec :=
  List.replicate Config.externalSources SourceRec.external ++ List.replicate 4 (SourceRec.internal 60000)

/-- The wall timing unit after power-on reset (R125): the first boundary one nominal period after the end of the reset, its
plan point 2 ms before it. -/
def Timing.reset : Timing :=
  { rate := .r60000, lead := 2000, lastBoundary := 0, nextBoundary := 166667, nextPlan := 146667, planDone := false,
    afterNext := none, frame := 0, ref := .freerun, goodRun := 0, missingRun := 0, measured := none, intervals := [],
    runIntervals := [], prediction := none, prevArrival := none, prevExpected := none, holdoverStart := none }

/-- The mode controller after power-on reset (R127, R146). -/
def ModeCtl.reset : ModeCtl :=
  { mode := .starting, progress := .none, reading := false, attempt := 0, captured := none, supervision := none, failCode := .none,
    failIndex := 0, permit := false, intEnable := false }

/-- The reporting unit after power-on reset (R162, R175). -/
def Report.reset : Report :=
  { journal := Ring.none, urgent := Ring.none, routine := Ring.none, journalQueue := [], urgentQueue := [],
    routineQueue := [], ringJob := none, causes := 0, enables := 0, condition := false }

/-- The status writer with nothing to do and all counts 0 (R93, R94). -/
def StatusWriter.reset : StatusWriter :=
  { toRewrite := [], headerWrites := [], job := none, windowsPending := false, plansPending := false,
    filtersPending := false, slotDirty := 0, slotHeaderDirty := false, sourceDirty := 0,
    updateCounts := List.replicate Config.allSources 0, changeCount := 0 }

/-- The part right after power-on reset: STARTING, the Exchange RAM being cleared (R127, R183). -/
def State.reset : State :=
  { pending := [], now := 0, freeIdx := 0, ram := [], lastServed := .controller, port := ExchangePort.reset,
    takes := TakeEngine.reset, composer := Composer.reset, ports := List.replicate Config.tilePorts TilePort.black,
    sources := sourcesReset, timing := Timing.reset, modes := ModeCtl.reset, report := Report.reset,
    status := StatusWriter.reset }

end Sys2Proof.Machine
end

