-- ==== Sys2Proof/Machine/Ops.lean ====
section
/-! DEFINITION. Named operations over the Exchange RAM and the blocks' records: the only ones that read or write them. -/

namespace Sys2Proof.Machine

/-! The Exchange RAM as a list of cells, addresses strictly rising, no zero byte listed; an unlisted byte reads 0 (R183). -/

/-- The contents of the Exchange RAM. -/
abbrev Memory := List Host.Cell

/-- What a byte that is not listed reads as: what the power-on clear leaves (R183). -/
def Memory.unlisted : Byte := 0

/-- Read one byte. -/
def Memory.read : Memory → Nat → Byte
  | [], _ => Memory.unlisted
  | c :: m, a => if c.1 = a then c.2 else Memory.read m a

/-- The cells of consecutive bytes from address `a`, less those that read as an unlisted byte does. -/
def Memory.cells : Nat → List Byte → Memory
  | _, [] => []
  | a, b :: bs => if b = Memory.unlisted then Memory.cells (a + 1) bs else (a, b) :: Memory.cells (a + 1) bs

/-- Write consecutive bytes from address `a`. -/
def Memory.write (m : Memory) (a : Nat) (bs : List Byte) : Memory :=
  m.filter (fun c => decide (c.1 < a)) ++ Memory.cells a bs ++ m.filter (fun c => decide (a + bs.length ≤ c.1))

/-- The canonical form: addresses strictly rising, no entry equal to an unlisted byte. -/
abbrev Memory.wf (m : Memory) : Prop :=
  m.Pairwise (fun c d => c.1 < d.1) ∧ ∀ c ∈ m, c.2 ≠ Memory.unlisted

/-- `n` consecutive bytes from address `a`. -/
def Memory.bytes (m : Memory) (a n : Nat) : List Byte := (List.range n).map (fun i => m.read (a + i))

/-- A little-endian field of 2 bytes (R190). -/
def Memory.half (m : Memory) (a : Nat) : Half := m.read (a + 1) ++ m.read a

/-- A little-endian field of 4 bytes (R190). -/
def Memory.word (m : Memory) (a : Nat) : Word := m.half (a + 2) ++ m.half a

/-! One update for each part of the state. -/

def State.setPending (s : State) (v : List Instr) : State := { s with pending := v }
def State.setNow (s : State) (v : Time) : State := { s with now := v }
def State.setFreeIdx (s : State) (v : Nat) : State := { s with freeIdx := v }
def State.setRam (s : State) (v : List Host.Cell) : State := { s with ram := v }
def State.setLastServed (s : State) (v : Side) : State := { s with lastServed := v }
def State.setPort (s : State) (v : ExchangePort) : State := { s with port := v }
def State.setTakes (s : State) (v : TakeEngine) : State := { s with takes := v }
def State.setComposer (s : State) (v : Composer) : State := { s with composer := v }
def State.setPorts (s : State) (v : List TilePort) : State := { s with ports := v }
def State.setSources (s : State) (v : List SourceRec) : State := { s with sources := v }
def State.setTiming (s : State) (v : Timing) : State := { s with timing := v }
def State.setModes (s : State) (v : ModeCtl) : State := { s with modes := v }
def State.setReport (s : State) (v : Report) : State := { s with report := v }
def State.setStatus (s : State) (v : StatusWriter) : State := { s with status := v }

/-! A change of one part, and one operation after another. -/

def State.modPort (s : State) (f : ExchangePort → ExchangePort) : State := s.setPort (f s.port)
def State.modTakes (s : State) (f : TakeEngine → TakeEngine) : State := s.setTakes (f s.takes)
def State.modComposer (s : State) (f : Composer → Composer) : State := s.setComposer (f s.composer)
def State.modTiming (s : State) (f : Timing → Timing) : State := s.setTiming (f s.timing)
def State.modModes (s : State) (f : ModeCtl → ModeCtl) : State := s.setModes (f s.modes)
def State.modReport (s : State) (f : Report → Report) : State := s.setReport (f s.report)
def State.modStatus (s : State) (f : StatusWriter → StatusWriter) : State := s.setStatus (f s.status)

/-- Go on from a state. -/
def State.andThen {α : Type} (s : State) (f : State → α) : α := f s

/-! Reading the records. -/

/-- The record of source `i`. -/
def State.source (s : State) (i : Nat) : SourceRec := s.sources.getD i SourceRec.external

/-- The record of window `i` in a table. -/
def windowAt (ws : List WindowRec) (i : Nat) : WindowRec := ws.getD i WindowRec.cleared

/-- The record of slot `i`. -/
def State.slot (s : State) (i : Nat) : SlotRec := s.takes.slots.getD i SlotRec.empty

/-- The captured section map, none before the first successful activation (R178). -/
def State.map (s : State) : Option SectionMap := s.modes.captured.map (·.map)

/-- Section `n` (1 to 10) of a section map (R133). -/
def sectionOf (m : SectionMap) (n : Nat) : Section := m.getD (n - 1) ⟨0, 0⟩

/-- Address of the record of source `i` in the source status section; its first byte is the record's writing marker (R93,
R193). -/
def sourceRecordAddress (m : SectionMap) (i : Nat) : Nat := (sectionOf m 6).start + 64 + 32 * i

/-- Whether address `a` lies in a section. -/
def Section.holds (c : Section) (a : Nat) : Bool := decide (c.start ≤ a ∧ a < c.start + c.size)

/-- Whether two areas share a byte. -/
def Section.meets (c d : Section) : Bool :=
  decide (max c.start d.start < min (c.start + c.size) (d.start + d.size))

/-! Serial comparison (R116). -/

/-- Frame `f` is passed at counter value `c`. -/
def passed (f c : Word) : Bool := decide ((c - f).toNat < 2 ^ 31)

/-- Frame `f` is earlier than frame `g`. -/
def earlier (f g : Word) : Bool := f != g && passed f g

/-- Post sequence `a` is lower than post sequence `b`. -/
def seqLower (a b : Half) : Bool :=
  let d := (b - a).toNat
  decide ((1 ≤ d ∧ d ≤ 32767) ∨ (d = 32768 ∧ a.toNat < b.toNat))

/-! The clock. -/

/-- An event whose due time is `t` is taken no earlier than `t` (log 3). -/
def State.reach (s : State) (t : Time) : State := s.setNow (max s.now t)

/-- 10 ms, 100 ms and 1,000 ms in units of 0.1 µs. -/
def tenMs : Time := 100000
def hundredMs : Time := 1000000
def oneSecond : Time := 10000000

/-! The Exchange RAM in blocks (R184). -/

/-- One grant to a controller master: a block of bytes is written. -/
def State.putBlock (s : State) (a : Nat) (bs : List Byte) : State :=
  (s.setRam (Memory.write s.ram a bs)).setLastServed .controller

/-- Split consecutive bytes from address `a` at the 64-byte boundaries; `fuel` bounds the number of blocks (R184). -/
def splitBlocks : (fuel a : Nat) → List Byte → Blocks
  | 0, _, _ => []
  | fuel + 1, a, bs =>
    if bs.isEmpty then [] else (a, bs.take (64 - a % 64)) :: splitBlocks fuel (a + (64 - a % 64)) (bs.drop (64 - a % 64))

/-- The blocks of a write of several blocks, ascending (R184). -/
def blocksOf (a : Nat) (bs : List Byte) : Blocks := splitBlocks bs.length a bs

/-- The Exchange RAM after blocks written in order. -/
def Memory.writes (m : Memory) (l : Blocks) : Memory := l.foldl (fun m b => Memory.write m b.1 b.2) m

/-! Updates of one record. -/

/-- The work a writer has begun is set aside, to be begun anew, where `p` says so of it. -/
def StatusWriter.setAside (w : StatusWriter) (p : StatusJob → Bool) : StatusWriter :=
  { w with job := w.job.filter (fun j => !p j.1) }

/-- A copy of the record of slot `i` is asked for (R27); a rewrite of the whole table in hand begins anew (log 15). -/
def StatusWriter.askSlot (w : StatusWriter) (i : Nat) : StatusWriter :=
  { w with slotDirty := w.slotDirty ||| (1#16 <<< i) }.setAside (fun j => decide (j = StatusJob.wholeSection 3))

/-- Replace the record of slot `i`; a change asks for its copy while a section map is captured (R27). -/
def State.setSlot (s : State) (i : Nat) (r : SlotRec) : State :=
  let changed := decide (r ≠ s.slot i)
  (s.modTakes (fun te => { te with slots := te.slots.set i r })).andThen fun s =>
  if s.map.isSome && changed then s.modStatus (fun st => st.askSlot i) else s

/-- The slot table header is to be copied (R27), while a section map is captured. -/
def State.markSlotHeader (s : State) : State :=
  if s.map.isSome then s.modStatus (fun st => { st with slotHeaderDirty := true }) else s

/-- What the source status section shows of a record, the timer apart (R93). -/
def SourceRec.published (r : SourceRec) :
    SourceState × SourceSettings × Nat × Option Format × Option Nat × Nat × Nat :=
  (r.state, r.settings, r.stable, r.qualified, r.measuredClass, r.lockCount, r.lossCount)

/-- A rewrite of the published record of source `i` is asked for; one in hand begins anew with the latest values (R93). -/
def StatusWriter.askSource (w : StatusWriter) (i : Nat) : StatusWriter :=
  { w with sourceDirty := w.sourceDirty ||| (1#44 <<< i) }.setAside
    (fun j => decide (j = StatusJob.source i ∨ j = StatusJob.wholeSection 6))

/-- Replace the record of source `i`; a change of a published field asks for a rewrite while a section map is captured (R93). -/
def State.setSource (s : State) (i : Nat) (r : SourceRec) : State :=
  let changed := decide (r.published ≠ (s.source i).published)
  (s.setSources (s.sources.set i r)).andThen fun s =>
  if s.map.isSome && changed then s.modStatus (fun st => st.askSource i) else s

/-! The rings by name. -/

/-- The ring named (R148). -/
def Report.ring (r : Report) : RingId → Ring
  | .journal => r.journal
  | .urgent => r.urgent
  | .routine => r.routine

/-- Replace the ring named. -/
def Report.setRing (r : Report) (i : RingId) (v : Ring) : Report :=
  match i with
  | .journal => { r with journal := v }
  | .urgent => { r with urgent := v }
  | .routine => { r with routine := v }

/-- Section number of a ring (R133). -/
def ringSection : RingId → Nat
  | .journal => 8
  | .urgent => 9
  | .routine => 10

/-- Entry size of a ring (R148). -/
def ringEntrySize : RingId → Nat
  | .journal => 32
  | .urgent => 16
  | .routine => 16

/-- Section number of a mirror (R133). -/
def mirrorSection : Mirror → Nat
  | .windowTable => 4
  | .tilePlans => 5
  | .filterList => 7

end Sys2Proof.Machine
end

