-- ==== Sys2Proof/Machine/Layout.lean ====
section
/-! DEFINITION. Geometry, tile plans, budgets, whole-layout checks and scaler contexts of a layout (chapter 01, R57). -/

namespace Sys2Proof.Machine

/-- The wall geometry (R16). -/
structure Geometry where
  cols : Nat
  rows : Nat
deriving DecidableEq, Repr

/-- Number of configured tiles. -/
def Geometry.tiles (g : Geometry) : Nat := g.cols * g.rows

/-- The wall rectangle of tile `t` (R16). -/
def Geometry.tileRect (g : Geometry) (t : Nat) : Rect := ⟨t % g.cols * 1920, t / g.cols * 1080, 1920, 1080⟩

/-- The geometry captured at activation; an empty wall before the first (R16). -/
def State.geometry (s : State) : Geometry :=
  match s.modes.captured with
  | none => ⟨0, 0⟩
  | some c => ⟨c.cols, c.rows⟩

/-- Two rectangles share at least one pixel (R5). -/
def Rect.overlaps (a b : Rect) : Bool :=
  decide (max a.x b.x < min (a.x + a.w) (b.x + b.w) ∧ max a.y b.y < min (a.y + a.h) (b.y + b.h))

/-- A rectangle inside the wall (R4). -/
def Rect.insideWall (r : Rect) (g : Geometry) : Bool :=
  decide (r.x + r.w ≤ g.cols * 1920 ∧ r.y + r.h ≤ g.rows * 1080)

/-- A rectangle at least 64 × 36 (R4). -/
def Rect.largeEnough (r : Rect) : Bool := decide (64 ≤ r.w ∧ 36 ≤ r.h)

/-- A crop within its limits (R9). -/
def Rect.cropOk (r : Rect) : Bool := decide (16 ≤ r.w ∧ 16 ≤ r.h ∧ r.x + r.w ≤ 4096 ∧ r.y + r.h ≤ 2160)

/-- A visible window that is scaled (R8). -/
def WindowRec.scaled (w : WindowRec) : Bool := w.visible && !w.native

/-! Source regions and source rectangles (R9, R18). -/

/-- The part of `r` that lies on tile rectangle `t`, in tile coordinates (R17). -/
def Rect.clipTo (r t : Rect) : Rect :=
  let x0 := max r.x t.x
  let y0 := max r.y t.y
  ⟨x0 - t.x, y0 - t.y, min (r.x + r.w) (t.x + t.w) - x0, min (r.y + r.h) (t.y + t.h) - y0⟩

/-- The effective crop against an active area (R9). When it is empty its corner is open (log 22). -/
def effectiveCrop (c : Rect) (aw ah : Nat) : Rect :=
  if c.x < aw ∧ c.y < ah then ⟨c.x, c.y, min c.w (aw - c.x), min c.h (ah - c.y)⟩
  else
    let k := Config.emptyCropCorner c.x c.y c.w c.h aw ah
    ⟨k.1, k.2, 0, 0⟩

/-- The active area used for a source: that of its qualified format, or 1920 × 1080 (R18, R80). -/
def SourceRec.activeArea (r : SourceRec) : Nat × Nat :=
  match r.qualified with
  | some f => (f.width, f.height)
  | none => (1920, 1080)

/-- The source region of a window over an active area (R9, R18). Over the slate the crop is set aside (R23, log 23). -/
def WindowRec.region (w : WindowRec) (area : Nat × Nat) (slate : Bool) : Rect :=
  match w.crop with
  | some c => if slate then ⟨0, 0, area.1, area.2⟩ else effectiveCrop c area.1 area.2
  | none => ⟨0, 0, area.1, area.2⟩

/-- One direction of the scaled rule: start and length for offset `d`, clip length `c`, region start `r` and length `n`, and
window length `len` (R18). -/
def scaledSpan (d c r n len : Nat) : Nat × Nat :=
  let lo := r + d * n / len
  let hi := r + ((d + c) * n + (len - 1)) / len
  (lo, hi - lo)

/-- The source rectangle of a fragment: window rectangle `rect`, nativeness, clip offsets and size, source region (R18). -/
def sourceRect (rect : Rect) (native : Bool) (dx dy cw ch : Nat) (g : Rect) : Rect :=
  if native then
    if g.w ≤ dx ∨ g.h ≤ dy then ⟨g.x + dx, g.y + dy, 0, 0⟩
    else ⟨g.x + dx, g.y + dy, min cw (g.w - dx), min ch (g.h - dy)⟩
  else if g.w = 0 ∨ g.h = 0 then ⟨g.x, g.y, 0, 0⟩
  else
    let h := scaledSpan dx cw g.x g.w rect.w
    let v := scaledSpan dy ch g.y g.h rect.h
    ⟨h.1, v.1, h.2, v.2⟩

/-! Tile plans (R17 to R20). -/

/-- The charge of a window's fragments (R19). -/
def WindowRec.charge (w : WindowRec) (cls : Nat → Nat) : Nat := max (cls w.routed) (cls w.shown)

/-- The windows of a table with their indices. -/
def indexed (ws : List WindowRec) : List (WindowRec × Nat) := ws.zipIdx

/-- The visible windows with their indices. -/
def visibleOf (ws : List WindowRec) : List (WindowRec × Nat) := (indexed ws).filter (fun p => p.1.visible)

/-- Insert a window into a list that stands in descending rank (R17). -/
def insertByRank (p : WindowRec × Nat) : List (WindowRec × Nat) → List (WindowRec × Nat)
  | [] => [p]
  | q :: l => if q.1.rank < p.1.rank then p :: q :: l else q :: insertByRank p l

/-- The visible windows that touch a rectangle, in descending rank (R17). -/
def windowsOn (ws : List WindowRec) (t : Rect) : List (WindowRec × Nat) :=
  ((visibleOf ws).filter (fun p => p.1.rect.overlaps t)).foldr insertByRank []

/-- The fragment of one window on one tile (R17, R18); `area` gives the active area of a source. -/
def fragmentOf (cls : Nat → Nat) (area : Nat → Nat × Nat) (t : Rect) (p : WindowRec × Nat) : Fragment :=
  let w := p.1
  let clip := w.rect.clipTo t
  let dx := clip.x + t.x - w.rect.x
  let dy := clip.y + t.y - w.rect.y
  { window := p.2, shown := w.shown, charge := w.charge cls, ctx := if w.native then none else w.ctx, clip := clip,
    src := sourceRect w.rect w.native dx dy clip.w clip.h (w.region (area w.shown) (w.shown == Config.slate)) }

/-- The plan of one tile (R17). -/
def planOf (g : Geometry) (cls : Nat → Nat) (area : Nat → Nat × Nat) (ws : List WindowRec) (t : Nat) : List Fragment :=
  (windowsOn ws (g.tileRect t)).map (fragmentOf cls area (g.tileRect t))

/-- The plans of every configured tile (R17). -/
def plansOf (g : Geometry) (cls : Nat → Nat) (area : Nat → Nat × Nat) (ws : List WindowRec) : List (List Fragment) :=
  (List.range g.tiles).map (planOf g cls area ws)

/-- Fragments tile `t` would hold (R20). -/
def tileLayers (g : Geometry) (ws : List WindowRec) (t : Nat) : Nat := (windowsOn ws (g.tileRect t)).length

/-- Fetch units tile `t` would be charged (R20). -/
def tileCharge (g : Geometry) (cls : Nat → Nat) (ws : List WindowRec) (t : Nat) : Nat :=
  ((windowsOn ws (g.tileRect t)).map (fun p => p.1.charge cls)).sum

/-! Whole-layout checks (R57, R58). -/

/-- Two visible windows hold the same rank. -/
def rankClash (ws : List WindowRec) : Bool :=
  (visibleOf ws).any (fun p => (visibleOf ws).any (fun q => decide (p.2 < q.2) && p.1.rank == q.1.rank))

/-- A visible window overlaps a visible protected window and holds the higher rank. -/
def protectedCover (ws : List WindowRec) : Bool :=
  (visibleOf ws).any (fun p => p.1.prot &&
    (visibleOf ws).any (fun q => p.2 != q.2 && p.1.rect.overlaps q.1.rect && decide (p.1.rank < q.1.rank)))

/-- The lowest-numbered configured tile that satisfies `p`. -/
def lowestTile (g : Geometry) (p : Nat → Bool) : Option Nat := (List.range g.tiles).find? p

/-- The visible scaled windows need more contexts than the pool gives (R14). -/
def scalersExhausted (ws : List WindowRec) : Bool :=
  decide (32 < (ws.filter (fun w => w.scaled)).length) ||
    decide (28 < (ws.filter (fun w => w.scaled && !w.prot)).length)

/-- The whole-layout checks in their order; the reason and the failed tile of the first that fails (R57, R58). -/
def wholeLayoutCheck (g : Geometry) (cls : Nat → Nat) (ws : List WindowRec) : Option (Reason × Option Nat) :=
  if rankClash ws then some (.rankClash, none)
  else if protectedCover ws then some (.protectedCover, none)
  else match lowestTile g (fun t => decide (8 < tileLayers g ws t)) with
    | some t => some (.layerBudget, some t)
    | none => match lowestTile g (fun t => decide (16 < tileCharge g cls ws t)) with
      | some t => some (.fetchBudget, some t)
      | none => if scalersExhausted ws then some (.scalerExhausted, none) else none

/-! Scaler contexts (R14, R15). -/

/-- The window that holds context `c`, if any (R14). -/
def contextHolder (ws : List WindowRec) (c : Nat) : Option Nat :=
  ((indexed ws).find? (fun p => p.1.ctx == some c)).map (·.2)

/-- The scaler pool as the window records give it: for each context its holder (R14). -/
def scalerPool (ws : List WindowRec) : List (Option Nat) := (List.range Config.scalerContexts).map (contextHolder ws)

/-- The lowest-numbered context that no window of the table holds. -/
def lowestFree (ws : List WindowRec) : Option Nat :=
  (List.range Config.scalerContexts).find? (fun c => (contextHolder ws c).isNone)

/-- Keep the contexts of windows scaled before and after, free all others (R15). -/
def keepContexts (live draft : List WindowRec) : List WindowRec :=
  (indexed draft).map (fun p => { p.1 with ctx := if p.1.scaled && (windowAt live p.2).scaled then (windowAt live p.2).ctx else none })

/-- Give window `i` the lowest free context when it is visible and scaled and holds none (R15). -/
def giveContext (ws : List WindowRec) (i : Nat) : List WindowRec :=
  let w := windowAt ws i
  if w.scaled && w.ctx.isNone then ws.set i { w with ctx := lowestFree ws } else ws

/-- The assignment of R15: free, then give in ascending window index. -/
def assignContexts (live draft : List WindowRec) : List WindowRec :=
  (List.range draft.length).foldl giveContext (keepContexts live draft)

/-! What the composer reads of the sources. -/

/-- The declared class of a source as captured; internal sources count as class 1 (R19, R75). -/
def State.classOf (s : State) (i : Nat) : Nat := (s.source i).settings.declaredClass

/-- The active area of a source as it stands (R18). -/
def State.areaOf (s : State) (i : Nat) : Nat × Nat := (s.source i).activeArea

/-- The tile plans of a window table as the sources stand (R17, R59). -/
def State.plansNow (s : State) (ws : List WindowRec) : List (List Fragment) := plansOf s.geometry s.classOf s.areaOf ws

end Sys2Proof.Machine
end

