-- ==== Sys2Proof/Machine/Substitution.lean ====
section
/-! DEFINITION. System edits: what adds them, and how a build resolves them (chapter 05). -/

namespace Sys2Proof.Machine

/-! Adding edits (R96, R97). -/

/-- Add an edit for a window: an older edit for it is removed, the new one stands last (R97). -/
def Composer.addEdit (c : Composer) (kind : EditKind) (window routed : Nat) (cause : EditCause) : Composer :=
  { c with
    pendingEdits := c.pendingEdits.filter (fun e => e.window != window) ++ [⟨c.editSerial, kind, window, routed, cause⟩]
    editSerial := c.editSerial + 1 }

/-- The edit that source `i` entering ABSENT or OVERCLASS calls for on a window (R98, R99). -/
def lossEdit (i : Nat) (w : WindowRec) : Option EditCause :=
  if w.visible && w.routed == i && decide (w.sub = .none) then some .routedLoss
  else if w.visible && w.shown == i && decide (w.sub = .backup) then some .backupLoss
  else none

/-- Whether source `i` entering LOCKED calls for a RESTORE edit on a window (R100). -/
def returnEdit (i : Nat) (w : WindowRec) : Bool :=
  w.visible && w.routed == i && decide (w.sub ≠ .none) && decide (w.restore = .auto)

/-- The edits a source's state change calls for, in ascending window index, against the live layout (R97 to R100, R110). -/
def Composer.sourceChanged (c : Composer) (i : Nat) (new : SourceState) : Composer :=
  (indexed c.live.windows).foldl (fun c p =>
    match new with
    | .absent | .overclass =>
      match lossEdit i p.1 with
      | some cause => c.addEdit .substitute p.2 p.1.routed cause
      | none => c
    | .locked => if returnEdit i p.1 then c.addEdit .restore p.2 p.1.routed .sourceReturn else c
    | .disabled | .acquiring | .lossHold => c) c

/-- A source that the check after a commit counts as lost (R101). -/
def SourceState.lost : SourceState → Bool
  | .absent | .overclass | .disabled => true
  | .acquiring | .locked | .lossHold => false

/-- The edit the check after a commit calls for on a window (R101). -/
def checkEdit (st : Nat → SourceState) (w : WindowRec) : Option EditKind :=
  if w.visible && decide (w.sub ≠ .none) && decide (w.restore = .auto) && decide (st w.routed = .locked) then some .restore
  else if w.visible && decide (w.sub = .none) && (st w.routed).lost then some .substitute
  else if w.visible && decide (w.sub = .backup) && (st w.shown).lost then some .substitute
  else none

/-- The check that follows every commit (R101): edits in ascending window index, none where the list already holds an edit of
the same kind for the window. -/
def Composer.commitCheck (c : Composer) (st : Nat → SourceState) : Composer :=
  (indexed c.live.windows).foldl (fun c p =>
    match checkEdit st p.1 with
    | none => c
    | some k =>
      if c.pendingEdits.any (fun e => e.window == p.2 && decide (e.kind = k)) then c
      else c.addEdit k p.2 p.1.routed .commitCheck) c

/-- The check after a commit, against the sources as they stand (R101). -/
def State.commitCheck (s : State) : State :=
  s.setComposer (s.composer.commitCheck (fun i => (s.source i).state))

/-! Resolving edits in a build (R102 to R106). -/

/-- A state in which a source's picture is back or held (R103). -/
def SourceState.present : SourceState → Bool
  | .locked | .lossHold => true
  | .disabled | .absent | .acquiring | .overclass => false

/-- An edit is stale in a draft (R102). -/
def Edit.stale (e : Edit) (ws : List WindowRec) : Bool :=
  !(windowAt ws e.window).visible || (windowAt ws e.window).routed != e.routed

/-- The window as a system edit leaves it: its shown source and substitution state change (R103, R105). -/
def WindowRec.substituted (w : WindowRec) (sub : SubState) (shown : Nat) : WindowRec := { w with sub := sub, shown := shown }

/-- The fetch budget holds on every tile window `i` covers (R104, test 5). -/
def fetchFits (g : Geometry) (cls : Nat → Nat) (ws : List WindowRec) (i : Nat) : Bool :=
  (List.range g.tiles).all (fun t =>
    !(windowAt ws i).rect.overlaps (g.tileRect t) || decide (tileCharge g cls ws t ≤ 16))

/-- The backup a window may follow, when it is fit (R104). -/
def State.fitBackup (s : State) (ws : List WindowRec) (i : Nat) : Option Nat :=
  let w := windowAt ws i
  match (s.source w.routed).settings.backup with
  | none => none
  | some b =>
    let r := s.source b
    let tagOk := match w.expectedTag with
      | none => true
      | some t => decide ((r.qualified.bind (·.tag)) = some t)
    if decide (w.loss = .follow) && decide (r.state = .locked) && tagOk &&
        fetchFits s.geometry s.classOf (ws.set i (w.substituted .backup b)) i
    then some b else none

/-- The result of a SUBSTITUTE edit that is not stale: the new substitution state and shown source, none when dropped (R103). -/
def State.resolveSubstitute (s : State) (ws : List WindowRec) (i : Nat) : Option (SubState × Nat) :=
  let w := windowAt ws i
  match w.sub with
  | .none =>
    if (s.source w.routed).state.present then none
    else match s.fitBackup ws i with
      | some b => some (.backup, b)
      | none => some (.slate, Config.slate)
  | .backup =>
    if (s.source w.routed).state = .locked then some (.none, w.routed)
    else if (s.source w.shown).state.present then none
    else some (.slate, Config.slate)
  | .slate => none

/-- The result of a RESTORE edit that is not stale (R105). -/
def State.resolveRestore (s : State) (ws : List WindowRec) (i : Nat) : Option (SubState × Nat) :=
  let w := windowAt ws i
  if w.sub ≠ .none ∧ w.restore = .auto ∧ (s.source w.routed).state = .locked then some (.none, w.routed) else none

/-- Apply one edit to a window table, or drop it (R102 to R105). -/
def State.resolveEdit (s : State) (ws : List WindowRec) (e : Edit) : List WindowRec × EditOutcome :=
  if e.stale ws then (ws, .dropped)
  else
    let result := match e.kind with
      | .substitute => s.resolveSubstitute ws e.window
      | .restore => s.resolveRestore ws e.window
    match result with
    | none => (ws, .dropped)
    | some (sub, shown) =>
      (ws.set e.window ((windowAt ws e.window).substituted sub shown), .applied (windowAt ws e.window).sub sub shown)

/-- Apply an edit set in order (R53, R106): the window table and each edit's outcome. -/
def State.resolveEdits (s : State) : List WindowRec → List Edit → List WindowRec × List (Edit × EditOutcome)
  | ws, [] => (ws, [])
  | ws, e :: es =>
    let (ws1, o) := s.resolveEdit ws e
    let (ws2, os) := s.resolveEdits ws1 es
    (ws2, (e, o) :: os)

end Sys2Proof.Machine
end

