-- ==== Sys2Proof/Machine/Flags.lean ====
section
/-! DEFINITION. Cause flags, the interrupt condition, the summary bits, and the values the registers read (R166 to R175, R187,
R194). -/

namespace Sys2Proof.Machine

/-- The code of a cause flag, which is its priority (R168). -/
def Cause.code : Cause → Nat
  | .fallbackEntered => 1
  | .holdEntered => 2
  | .activationFailed => 3
  | .modeFail => 4
  | .urgentWatermark => 5
  | .journalWatermark => 6
  | .routineWatermark => 7
  | .overrun => 8
  | .eventsLost => 9
  | .slotRefused => 10
  | .writeViolation => 11
  | .releaseError => 12
  | .timingChange => 13
  | .modeReached => 14

/-- The flag with code c stands at bit c − 1 (R194). -/
def Cause.bit (c : Cause) : BitVec 14 := 1#14 <<< (c.code - 1)

/-- The watermark cause of a ring (R150). -/
def ringWatermarkCause : RingId → Cause
  | .journal => .journalWatermark
  | .urgent => .urgentWatermark
  | .routine => .routineWatermark

/-- Whether a cause flag is set. -/
def State.causeSet (s : State) (c : Cause) : Bool := (s.report.causes &&& c.bit) != 0

/-! The interrupt (R171, R172). -/

/-- The interrupt condition: the master enable is 1 and some flag is set and enabled (R171). -/
def interruptCondition (master : Bool) (r : Report) : Bool := master && (r.causes &&& r.enables) != 0

/-- The reporting unit evaluates the interrupt condition, and the exchange port delivers it: with MSI one message for each
change from false to true while the function may issue requests and the link is up, else the legacy line follows the
condition unless it is disabled (R171, R172). -/
def State.evaluate (s : State) : State :=
  let cond := interruptCondition s.modes.intEnable s.report
  let sends := cond && !s.report.condition && s.port.pcie.msi && s.port.pcie.requests && s.port.linkUp
  (s.modReport (fun re => { re with condition := cond })).modPort (fun pt => { pt with
    line := cond && !pt.pcie.msi && !pt.pcie.legacyDisable
    msiSent := if sends then pt.msiSent + 1 else pt.msiSent })

/-- Replace the cause flags, and evaluate the condition again (R171). -/
def State.setCauses (s : State) (v : BitVec 14) : State :=
  (s.modReport (fun re => { re with causes := v })).evaluate

/-- Set one cause flag (R169). -/
def State.raise (s : State) (c : Cause) : State := s.setCauses (s.report.causes ||| c.bit)

/-- Set one cause flag when a condition holds. -/
def State.raiseIf (s : State) (b : Bool) (c : Cause) : State := if b then s.raise c else s

/-- The code of the highest-priority flag of a set, 0 when it is empty (R173): codes from `k` on, with `n` left to try. -/
def firstCodeFrom (v : BitVec 14) : (n k : Nat) → Nat
  | 0, _ => 0
  | n + 1, k => if v.getLsbD (k - 1) then k else firstCodeFrom v n (k + 1)

/-- The code NEXTCAUSE returns: the highest-priority flag both set and enabled, or 0 (R173). -/
def State.nextCode (s : State) : Nat := firstCodeFrom (s.report.causes &&& s.report.enables) 14 1

/-- The causes, the enables and the interrupt after each reset (R175): all 0, deasserted, no message. -/
def State.clearInterrupt (s : State) : State :=
  (s.modReport (fun re => { re with causes := 0, enables := 0, condition := false })).modPort
    (fun pt => { pt with line := false })

/-! The summary (R166). -/

/-- The nine summary bits (R166). -/
structure Summary where
  journalPending : Bool
  urgentPending : Bool
  routinePending : Bool
  slotsBusy : Bool
  sourceTrouble : Bool
  substituting : Bool
  timingUnlocked : Bool
  notRun : Bool
  causePending : Bool
deriving DecidableEq, Repr

/-- Some slot whose index satisfies `p` is POSTED or BUILDING. -/
def State.slotsBusy (s : State) (p : Nat → Bool) : Bool :=
  s.takes.slots.zipIdx.any (fun r => p r.2 && decide (r.1.state ≠ .idle))

/-- Some visible window of the live layout has a shown source that is not LOCKED (R166). -/
def State.sourceTrouble (s : State) : Bool :=
  s.composer.live.windows.any (fun w => w.visible && decide ((s.source w.shown).state ≠ .locked))

/-- Some visible window of the live layout is in BACKUP or SLATE (R166). -/
def State.substituting (s : State) : Bool :=
  s.composer.live.windows.any (fun w => w.visible && decide (w.sub ≠ .none))

/-- The summary as the groups stand (R166). -/
def State.summary (s : State) : Summary :=
  { journalPending := decide (0 < s.report.journal.fill)
    urgentPending := decide (0 < s.report.urgent.fill)
    routinePending := decide (0 < s.report.routine.fill)
    slotsBusy := s.slotsBusy (fun _ => true)
    sourceTrouble := s.sourceTrouble
    substituting := s.substituting
    timingUnlocked := decide (s.timing.ref ≠ .locked)
    notRun := decide (s.modes.mode ≠ .run)
    causePending := s.report.causes != 0 }

/-- The summary copy of a journal entry of `slot` (R154): JOURNAL_PENDING set, the take's own slot counted as IDLE. -/
def State.summaryCopy (s : State) (slot : Nat) : Summary :=
  { s.summary with journalPending := true, slotsBusy := s.slotsBusy (fun i => i != slot) }

/-- The summary bits at their STATUS positions (R194). -/
def Summary.bits (b : Summary) : BitVec 9 :=
  BitVec.ofBool b.causePending ++ BitVec.ofBool b.notRun ++ BitVec.ofBool b.timingUnlocked ++
    BitVec.ofBool b.substituting ++ BitVec.ofBool b.sourceTrouble ++ BitVec.ofBool b.slotsBusy ++
    BitVec.ofBool b.routinePending ++ BitVec.ofBool b.urgentPending ++ BitVec.ofBool b.journalPending

/-! Encodings of the modes, reference states and failure codes (R190). -/

def Mode.code : Mode → Nat
  | .starting => 0
  | .config => 1
  | .activating => 2
  | .run => 3
  | .hold => 4
  | .fallback => 5
  | .quiescing => 6
  | .quiesced => 7

def RefState.code : RefState → Nat
  | .freerun => 0
  | .locked => 1
  | .holdover => 2

def FailCode.code : FailCode → Nat
  | .none => 0
  | .geometry => 1
  | .rate => 2
  | .planLead => 3
  | .ringParam => 4
  | .sectionRange => 5
  | .sectionAlign => 6
  | .sectionSize => 7
  | .sectionOverlap => 8
  | .sourceParam => 9
  | .filterParam => 10
  | .startLayout => 11
  | .fallbackEntry => 12
  | .fallbackLayout => 13

/-! The registers (R187, R194). -/

/-- IDENT.READY: 0 from power-on reset until the clear completes, that is, while the mode is STARTING (R187, R194). -/
def State.ready (s : State) : Bool := decide (s.modes.mode ≠ .starting)

/-- IDENT (R187, R194): family 0x9, revision 1, READY, 40 external and 4 internal sources, 32 tiles, 8 × 8 windows, 16 slots. -/
def State.identValue (s : State) : Word :=
  16#5 ++ 8#4 ++ 32#6 ++ 4#3 ++ 40#6 ++ BitVec.ofBool s.ready ++ 1#3 ++ 9#4

/-- MODECTL as it reads back (R129, R194). -/
def State.modectlValue (s : State) : Word :=
  0#22 ++ BitVec.ofBool s.modes.intEnable ++ BitVec.ofBool s.modes.permit ++ 0#8

/-- STATUS (R167, R194). -/
def State.statusValue (s : State) : Word :=
  BitVec.ofNat 8 s.composer.overruns ++ BitVec.ofNat 6 s.modes.failIndex ++ BitVec.ofNat 4 s.modes.failCode.code ++
    BitVec.ofNat 2 s.timing.ref.code ++ BitVec.ofNat 3 s.modes.mode.code ++ s.summary.bits

/-- The value of the register at BAR2 offset `offset`, a multiple of 4; 0 from 0x20 on (R186). The pop of NEXTCAUSE is the
effect of its read (R173). -/
def State.registerValue (s : State) (offset : Nat) : Word :=
  match offset with
  | 0x00 => s.identValue
  | 0x04 => s.modectlValue
  | 0x08 => s.statusValue
  | 0x14 => s.report.causes.setWidth 32
  | 0x18 => s.report.enables.setWidth 32
  | 0x1C => BitVec.ofNat 32 s.nextCode
  | _ => 0

/-- The bytes a read of BAR2 returns: the addressed bytes of the registers' values (R186). -/
def State.bar2Bytes (s : State) (offset length : Nat) : List Byte :=
  (List.range length).map (fun i =>
    let a := offset + i
    (s.registerValue (a - a % 4)).extractLsb' (8 * (a % 4)) 8)

end Sys2Proof.Machine
end

