-- ==== Sys2Proof/Machine/Operands.lean ====
section
/-! DEFINITION. What the part reads from driver-written records: take headers, entries, the configuration section, the
fallback record (R190 to R192), and the check code of a take (R40). -/

namespace Sys2Proof.Machine

/-! Field readers. -/

/-- A one-byte number. -/
def Memory.num1 (m : Memory) (a : Nat) : Nat := (m.read a).toNat

/-- A two-byte number. -/
def Memory.num2 (m : Memory) (a : Nat) : Nat := (m.half a).toNat

/-- A four-byte number. -/
def Memory.num4 (m : Memory) (a : Nat) : Nat := (m.word a).toNat

/-- Bit `k` of a byte. -/
def Memory.bit (m : Memory) (a k : Nat) : Bool := (m.read a).getLsbD k

/-- Four two-byte fields x, y, width, height (R192). -/
def Memory.rect (m : Memory) (a : Nat) : Rect := ⟨m.num2 a, m.num2 (a + 2), m.num2 (a + 4), m.num2 (a + 6)⟩

/-! Filter entries. -/

/-- A filter entry as its bytes stand (R192). -/
def Memory.rawFilter (m : Memory) (a : Nat) : RawFilter :=
  { enabled := m.bit a 0, action := m.num1 (a + 1), low := m.num1 (a + 2), high := m.num1 (a + 3), kinds := m.half (a + 4) }

/-- The filter action of an encoding, none above 2 (R190). -/
def filterAction : Nat → Option FilterAction
  | 0 => some .discard
  | 1 => some .urgent
  | 2 => some .routine
  | _ => none

/-- The limits of R35: low and high at most 63, low at most high, no kind beyond the eight, one of the three actions. -/
def RawFilter.entry (f : RawFilter) : Option FilterEntry :=
  match filterAction f.action with
  | none => none
  | some a =>
    if f.low ≤ 63 ∧ f.high ≤ 63 ∧ f.low ≤ f.high ∧ f.kinds.toNat < 256 then
      some { enabled := f.enabled, kinds := f.kinds.setWidth 8, low := f.low, high := f.high, action := a }
    else none

/-! Takes. -/

/-- Length of a slot (R26). -/
def slotSize : Nat := 800

/-- Start of slot `i` under a section map (R26). -/
def slotBase (m : SectionMap) (i : Nat) : Nat := (sectionOf m 2).start + slotSize * i

/-- The take header at `a` (R28, R192). -/
def Memory.takeHeader (m : Memory) (a : Nat) : TakeHeader :=
  { driverTag := m.word a, urgent := m.num1 (a + 4) == 1, checked := m.bit (a + 5) 0, overrides := m.bit (a + 5) 1,
    dueAt := m.bit (a + 5) 2, requireLocked := m.bit (a + 5) 3, deadline := m.num1 (a + 6), count := m.num1 (a + 7),
    dueFrame := m.word (a + 8), checkCode := m.half (a + 12) }

/-- The entry at `a` (R192). -/
def Memory.entry (m : Memory) (a : Nat) : Entry :=
  { kind := m.num1 a, window := m.num1 (a + 1), source := m.num1 (a + 2), rank := m.num1 (a + 3),
    native := m.bit (a + 4) 0, prot := m.bit (a + 4) 1, cropPresent := m.bit (a + 4) 2, tagPresent := m.bit (a + 4) 3,
    follow := m.bit (a + 4) 4, manual := m.bit (a + 4) 5, rect := m.rect (a + 8), crop := m.rect (a + 16),
    tag := m.word (a + 24), filter := m.rawFilter (a + 8) }

/-- `n` entries behind a 32-byte header at `a` (R26, R191). -/
def Memory.entries (m : Memory) (a n : Nat) : List Entry :=
  (List.range n).map (fun k => m.entry (a + 32 + 32 * k))

/-! The check code (R40). -/

/-- One of the eight steps for a byte. -/
def crcStep (r : Half) : Half := if r.msb then (r <<< 1) ^^^ 0x1021#16 else r <<< 1

/-- Take one byte into the register. -/
def crcByte (r : Half) (b : Byte) : Half :=
  crcStep (crcStep (crcStep (crcStep (crcStep (crcStep (crcStep (crcStep (r ^^^ (b ++ 0#8)))))))))

/-- The check code of a sequence of bytes. -/
def crc (bs : List Byte) : Half := bs.foldl crcByte 0xFFFF#16

/-- The check code of the take of `count` entries at `a`: the header with its check code field read as zero, then the counted
entries (R40). -/
def Memory.checkCode (m : Memory) (a count : Nat) : Half :=
  crc (m.bytes a 12 ++ [0, 0] ++ m.bytes (a + 14) (18 + 32 * count))

/-! The configuration section and the fallback record (R191). -/

/-- Capacity and watermark at `a`. -/
def Memory.ringParams (m : Memory) (a : Nat) : RingParams := ⟨m.num2 a, m.num2 (a + 2)⟩

/-- A source settings record at `a`. -/
def Memory.rawSettings (m : Memory) (a : Nat) : RawSettings :=
  { enabled := m.bit a 0, declaredClass := m.num1 (a + 1), backup := m.num1 (a + 2), lossHold := m.num2 (a + 4) }

/-- The section map in the configuration section. -/
def Memory.sectionMap (m : Memory) : SectionMap :=
  (List.range 10).map (fun n => ⟨m.num4 (0x040 + 8 * n), m.num4 (0x044 + 8 * n)⟩)

/-- Everything an activation reads (R132). The entries of the fallback record are read only for a count in range (R181). -/
def Memory.configImage (m : Memory) : ConfigImage :=
  let map := m.sectionMap
  let fb := (sectionOf map 1).start
  let count := m.num2 fb
  { cols := m.num1 0x000, rows := m.num1 0x001, lead := m.num2 0x002, rate := m.num4 0x004,
    journal := m.ringParams 0x008, urgent := m.ringParams 0x00C, routine := m.ringParams 0x010,
    supervision := m.num2 0x014, requireChecked := m.bit 0x016 0, startSelector := m.num1 0x017,
    defaultAction := m.num1 0x018, map := map,
    filters := (List.range 16).map (fun i => m.rawFilter (0x100 + 16 * i)),
    settings := (List.range 40).map (fun i => m.rawSettings (0x200 + 16 * i)),
    fallbackCount := count,
    fallbackEntries := if 1 ≤ count ∧ count ≤ 64 then m.entries fb count else [] }

end Sys2Proof.Machine
end

