-- ==== Sys2Proof/WellFormed.lean ====
section
/-! DEFINITION. Which commands are well formed: the operand ranges the rules give and the types do not already give. -/

namespace Sys2Proof

/-- A frame's measurement: width and height 1 to 65,535, and a period, when present, above 0 (R78). -/
def Measurement.wf (m : Measurement) : Bool :=
  m.width != 0 && m.height != 0 && m.period != some 0

/-- An access that lies inside BAR0 and is at least one byte long (R176). -/
def bar0Range (offset length : Nat) : Bool :=
  0 < length && offset + length ≤ Config.ramSize

/-- A register write that the exchange port discards (R186): wrong length, not aligned, to IDENT or STATUS, or from 0x20 on. -/
def discardedShape (offset length : Nat) : Bool :=
  length != 4 || offset % 4 != 0 || offset == 0x00 || offset == 0x08 || 0x20 ≤ offset

/-- The checks on one command's operands. -/
def Instr.wf : Instr → Bool
  | .bar0Write offset data => bar0Range offset data.length
  | .bar0Read offset length => bar0Range offset length
  | .requestInvalid value _ => 6 ≤ value.toNat
  | .slotreqNoAction action _ => action == 0 || action == 3
  | .nextcauseRead offset length => 0 < length && offset < 0x20 && 0x1C < offset + length
  | .registerWriteDiscarded offset length =>
      0 < length && offset + length ≤ 4096 && discardedShape offset length
  | .frameArrival _ m => m.wf
  | .powerOnReset | .ramClearComplete | .linkReset _ | .pcieConfigChange _ | .fallbackRecordReadDone
  | .softReset _ | .requestRun _ | .requestHold _ | .requestFallback _ | .requestQuiesce _ | .requestConfig _
  | .serve _ | .overridePermit _ | .intEnable _ | .post _ | .postChecksComplete | .cancel _ | .release _ _
  | .causeWrite _ | .causeenWrite _ | .nextcauseWrite _ | .activationChecksComplete _ | .planPoint
  | .buildTakeCheck | .buildComplete _ _ | .boundary | .mirrorRewriteDone _ | .sourceRecordPublished _
  | .ringEntryWrite _ | .activityArrival _ | .activityLoss _ | .frameTimeout _ | .lossHoldExpiry _
  | .referenceArrival _ | .missingPulse | .holdoverExpiry | .supervisionExpiry | .linkReturn
  | .slotTableWritten _ | .ringHeaderRewrite _ => true

end Sys2Proof
end

