-- ==== Sys2Proof/Machine/Arbiter.lean ====
section
/-! DEFINITION. The two sides of the arbiter: who may write where, the blocks of the driver's accesses to the Exchange RAM, and
the grants of a controller master, between which an access that waits has its own (R177, R180 to R184). -/

namespace Sys2Proof.Machine

/-! Write ownership (R180, R181). -/

/-- The configuration section: the first 4,096 bytes of the RAM (R178). -/
def configSection : Section := ⟨0, 4096⟩

/-- Whether the fallback record named by the configuration being checked holds address `a`: in ACTIVATING, once a map has been
captured, its bytes are discarded (R180). -/
def State.checkedFallbackHolds (s : State) (a : Nat) : Bool :=
  match s.modes.progress with
  | .none => false
  | .checking image => (sectionOf image.map 1).holds a
  | .passed capture _ => (sectionOf capture.map 1).holds a

/-- Some controller-owned section, 3 to 10, of a map holds address `a` (R180). -/
def controllerHolds (m : SectionMap) (a : Nat) : Bool := (m.drop 2).any (fun c => c.holds a)

/-- The take slot area: the first 12,800 bytes of section 2 (R26, R179). -/
def slotArea (m : SectionMap) : Section := ⟨(sectionOf m 2).start, slotSize * Config.slotCount⟩

/-- Slot `i` is IDLE and not locked for its post checks (R45, R180). -/
def State.slotUnlocked (s : State) (i : Nat) : Bool :=
  decide ((s.slot i).state = .idle) && decide (s.takes.checking ≠ some i)

/-- The modes in which every slot is the driver's to write (R180; log 39). -/
def Mode.slotsOpen : Mode → Bool
  | .config | .activating => true
  | .starting | .run | .hold | .fallback | .quiescing | .quiesced => false

/-- The driver is the writer of address `a` under a captured map, the configuration section apart (R180). -/
def State.mappedWriter (s : State) (m : SectionMap) (a : Nat) : Bool :=
  if (sectionOf m 1).holds a then decide (s.modes.mode = .config)
  else if s.checkedFallbackHolds a then false
  else if controllerHolds m a then false
  else if (slotArea m).holds a then s.modes.mode.slotsOpen || s.slotUnlocked ((a - (slotArea m).start) / slotSize)
  else true

/-- The driver is the writer of address `a` (R180). -/
def State.driverMayWrite (s : State) (a : Nat) : Bool :=
  if s.modes.mode = .starting then false
  else if configSection.holds a then decide (s.modes.mode = .config)
  else match s.map with
    | none => true
    | some m => s.mappedWriter m a

/-! Accesses to BAR0, block by block (R176, R177, R182, R184). -/

/-- Byte `a` lies in a controller-owned section, 3 to 10, of the captured map and is not the driver's to write (R180, R182). -/
def State.controllerOwns (s : State) (a : Nat) : Bool := s.map.any (fun m => controllerHolds m a) && !s.driverMayWrite a

/-- The bytes of one 64-byte block from `offset` on, of an access with `n` bytes left there (R184). -/
def blockLength (offset n : Nat) : Nat := min (64 - offset % 64) n

/-- Bytes of a driver write that all lie in the controller-owned sections are discarded without a grant, so that they delay no
controller master (R182). -/
def State.grantless (s : State) (offset n : Nat) : Bool := (List.range n).all (fun i => s.controllerOwns (offset + i))

/-- The length of the leading blocks of a driver write that take no grant; `fuel` is at least the number of its blocks (R182). -/
def State.grantlessLength (s : State) : (fuel offset n : Nat) → Nat
  | 0, _, _ => 0
  | fuel + 1, offset, n =>
    let k := blockLength offset n
    if n ≠ 0 ∧ s.grantless offset k = true then k + s.grantlessLength fuel (offset + k) (n - k) else 0

/-- The length of what a driver write has done by its next grant: one block that takes a grant, with the blocks around it that take
none (R182, R184). -/
def State.grantSpan (s : State) (offset n : Nat) : Nat :=
  let before := s.grantlessLength n offset n
  let served := before + blockLength (offset + before) (n - before)
  served + s.grantlessLength (n - served) (offset + served) (n - served)

/-- An access to BAR0 that asks the arbiter for grants (R184): every read, and a write with a byte outside the controller-owned
sections (R182). That such a block takes a grant although all of it is discarded is the model's choice (log 48). -/
def State.asksGrant (s : State) : Instr → Bool
  | .bar0Write offset data => !s.grantless offset data.length
  | .bar0Read _ _ => true
  | _ => false

/-- What an access to BAR0 has done by its next grant and the rest, where it needs more than one (R184). -/
def State.firstGrant (s : State) : Instr → Option (Instr × Instr)
  | .bar0Write offset data =>
    let k := s.grantSpan offset data.length
    if k < data.length then some (.bar0Write offset (data.take k), .bar0Write (offset + k) (data.drop k)) else none
  | .bar0Read offset length =>
    let k := 64 - offset % 64
    if k < length then some (.bar0Read offset k, .bar0Read (offset + k) (length - k)) else none
  | _ => none

/-- The bytes that stand after a driver write: the driver's where it is the writer, the old ones elsewhere (R182). -/
def State.storedBytes (s : State) (offset : Nat) (data : List Byte) : List Byte :=
  data.zipIdx.map (fun p => if s.driverMayWrite (offset + p.2) then p.1 else Memory.read s.ram (offset + p.2))

/-- A driver write loses at least one byte (R182). -/
def State.losesBytes (s : State) (offset n : Nat) : Bool := (List.range n).any (fun i => !s.driverMayWrite (offset + i))

/-- Bytes of a driver write are stored or discarded (R182): at a grant to the exchange port (R184), but without one where they all
lie in the controller-owned sections. -/
def State.storePart (s : State) (offset : Nat) (data : List Byte) : State :=
  ((s.setRam (Memory.write s.ram offset (s.storedBytes offset data))).setLastServed
    (if s.grantless offset data.length then s.lastServed else .exchangePort)).modPort
    (fun pt => { pt with partLost := pt.partLost || s.losesBytes offset data.length })

/-- A driver write to BAR0 is taken with its last bytes, and flagged once when it has lost a byte (R182, R183). In STARTING it is
discarded whole and the arbiter does not serve the port. -/
def State.takeBar0Write (s : State) (offset : Nat) (data : List Byte) : State :=
  if s.modes.mode = .starting then s.raise .writeViolation
  else
    (s.storePart offset data).andThen fun s1 =>
    (s1.modPort (fun pt => { pt with partLost := false })).raiseIf s1.port.partLost .writeViolation

/-- Bytes of a driver read are read at a grant to the exchange port (R176, R184). -/
def State.readPart (s : State) (offset length : Nat) : State :=
  (s.setLastServed .exchangePort).modPort (fun pt => { pt with partRead := pt.partRead ++ Memory.bytes s.ram offset length })

/-- The bytes a driver read is completed with. -/
def State.complete (s : State) (bs : List Byte) : State := s.modPort (fun pt => { pt with completion := bs })

/-- A driver read of BAR0 is taken with its last bytes; in STARTING it returns 0 (R127, R176, R182). -/
def State.takeBar0Read (s : State) (offset length : Nat) : State :=
  if s.modes.mode = .starting then s.complete (List.replicate length 0)
  else
    (s.readPart offset length).andThen fun s1 =>
    (s1.modPort (fun pt => { pt with partRead := [] })).complete s1.port.partRead

/-- What an access has done by its next grant is served by itself. -/
def servePart (i : Instr) (s : State) : State :=
  match i with
  | .bar0Write offset data => s.storePart offset data
  | .bar0Read offset length => s.readPart offset length
  | _ => s

/-- A driver access to BAR0 is taken with its last bytes. -/
def takeRamAccess (i : Instr) (s : State) : State :=
  match i with
  | .bar0Write offset data => s.takeBar0Write offset data
  | .bar0Read offset length => s.takeBar0Read offset length
  | _ => s

/-! The exchange port's queue, and its turn (R37, R177, R181, R184). -/

/-- A write to SLOTREQ. -/
def isSlotreq : Instr → Bool
  | .post _ | .cancel _ | .slotreqNoAction _ _ => true
  | _ => false

/-- A BAR0 write that falls in the held area (R181). -/
def State.isHeld (s : State) (i : Instr) : Bool :=
  match i, s.port.holdArea with
  | .bar0Write offset data, some c => c.meets ⟨offset, data.length⟩
  | _, _ => false

/-- The access at the head of the queue has to wait: the refusal checks of a POST are not finished (R177), it is a SLOTREQ write
and the take engine is still handling an earlier one (R37), or it is held (R181). -/
def State.blocked (s : State) (i : Instr) : Bool :=
  !s.takes.toHandle.isEmpty || (isSlotreq i && s.takes.checking.isSome) || s.isHeld i

/-- Replace the queue of driver accesses. -/
def State.setWaiting (s : State) (q : List Instr) : State := s.modPort (fun pt => { pt with waiting := q })

/-- The port asks the arbiter for a grant: the access at the head of its queue asks for one and need not wait for another
reason. -/
def State.portAsks (s : State) : Bool :=
  s.port.waiting.head?.any (fun i => s.asksGrant i && !s.blocked i) && decide (s.modes.mode ≠ .starting)

/-- A grant to the exchange port: one block of access `i`, which stands at the head of its queue before those of `behind`, is
served, with the blocks around it that take no grant (R182). With its last block the access is taken (R184). -/
def State.serveBlock (s : State) (i : Instr) (behind : List Instr) : State :=
  match s.firstGrant i with
  | some (first, rest) => (servePart first s).setWaiting (rest :: behind)
  | none => takeRamAccess i (s.setWaiting behind)

/-- The exchange port has its grant before the next one of a controller master, where it asks and a controller master was served
last (R184). -/
def State.portTurn (s : State) : State :=
  if s.portAsks && decide (s.lastServed = .controller) then
    match s.port.waiting with
    | [] => s
    | i :: r => s.serveBlock i r
  else s

/-! The grants of a controller master within one command (R184; log 44). -/

/-- A controller master reads, at its turn (R184). What it reads shows nothing. -/
def State.ctlRead (s : State) : State := s.portTurn.setLastServed .controller

/-- A controller master writes a block, at its turn (R184). -/
def State.ctlWrite (s : State) (a : Nat) (bs : List Byte) : State := s.portTurn.putBlock a bs

/-- A controller master writes blocks in order, each at its turn: an access that waits at the exchange port waits for no more than
one of them (R184). -/
def State.ctlWrites (s : State) (l : Blocks) : State := l.foldl (fun s b => s.ctlWrite b.1 b.2) s

end Sys2Proof.Machine
end

