-- ==== Sys2Proof/Machine/Formats.lean ====
section
/-! DEFINITION. The bytes of controller-written records and the encodings of the enumerations (R190, R193). -/

namespace Sys2Proof.Machine

/-! Little-endian fields (R190). -/

def bytes1 (n : Nat) : List Byte := [BitVec.ofNat 8 n]

def bytesHalf (v : Half) : List Byte := [v.extractLsb' 0 8, v.extractLsb' 8 8]

def bytes2 (n : Nat) : List Byte := bytesHalf (BitVec.ofNat 16 n)

def bytesWord (v : Word) : List Byte :=
  [v.extractLsb' 0 8, v.extractLsb' 8 8, v.extractLsb' 16 8, v.extractLsb' 24 8]

def bytesBool (b : Bool) : List Byte := [if b then 1 else 0]

/-- `n` unused bytes, written as 0. -/
def unused (n : Nat) : List Byte := List.replicate n 0

/-- A one-byte index, 0xFF when absent. -/
def bytesIndex : Option Nat → List Byte
  | none => [0xFF]
  | some n => bytes1 n

def bytesRect (r : Rect) : List Byte := bytes2 r.x ++ bytes2 r.y ++ bytes2 r.w ++ bytes2 r.h

/-! Encodings (R190). -/

def SubState.code : SubState → Nat
  | .none => 0
  | .backup => 1
  | .slate => 2

def SourceState.code : SourceState → Nat
  | .disabled => 0
  | .absent => 1
  | .acquiring => 2
  | .locked => 3
  | .overclass => 4
  | .lossHold => 5

def SlotState.code : SlotState → Nat
  | .idle => 0
  | .posted => 1
  | .building => 2

def RefusalReason.code : RefusalReason → Nat
  | .none => 0
  | .mode => 1
  | .busy => 2
  | .noRoom => 3
  | .notPosted => 4

def TakeOutcome.code : TakeOutcome → Nat
  | .applied => 1
  | .rejected => 2
  | .cancelled => 3
  | .expired => 4
  | .abandoned => 5

def Reason.code : Reason → Nat
  | .none => 0
  | .badCount => 1
  | .badCheck => 2
  | .noCheck => 3
  | .late => 4
  | .badKind => 5
  | .badWindow => 6
  | .badSource => 7
  | .sourceDisabled => 8
  | .outOfWall => 9
  | .tooSmall => 10
  | .badCrop => 11
  | .badRank => 12
  | .badFilter => 13
  | .protectedEdit => 14
  | .sourceNotReady => 15
  | .tagMismatch => 16
  | .notSubstituted => 17
  | .rankClash => 18
  | .protectedCover => 19
  | .layerBudget => 20
  | .fetchBudget => 21
  | .scalerExhausted => 22

def EventKind.code : EventKind → Nat
  | .source => 1
  | .format => 2
  | .substitute => 3
  | .restore => 4
  | .overrun => 5
  | .mode => 6
  | .timing => 7
  | .supervision => 8

def FilterAction.code : FilterAction → Nat
  | .discard => 0
  | .urgent => 1
  | .routine => 2

def Trigger.code : Trigger → Nat
  | .request => 1
  | .redirect => 2
  | .overrunLimit => 3
  | .supervision => 4
  | .checksFailed => 5
  | .activationDone => 6
  | .quiesceDone => 7

def EditCause.code : EditCause → Nat
  | .routedLoss => 1
  | .backupLoss => 2
  | .sourceReturn => 3
  | .commitCheck => 4

def scanCode : Scan → Nat
  | .progressive => 0
  | .interlaced => 1

def LossAction.code : LossAction → Nat
  | .slate => 0
  | .follow => 1

def RestoreMode.code : RestoreMode → Nat
  | .auto => 0
  | .manual => 1

/-! Records (R193). Each is written with all its bytes. -/

/-- A ring header, 64 bytes. -/
def ringHeaderBytes (r : Ring) : List Byte :=
  bytes2 r.capacity ++ bytes2 r.fill ++ bytes2 r.writeIndex ++ bytes2 r.releaseIndex ++ bytes2 r.watermark ++
    bytes1 r.gap ++ bytes1 r.reserved ++ unused 52

/-- A journal entry, 32 bytes. -/
def journalEntryBytes (e : JournalEntry) (frame : Word) (summary : Summary) : List Byte :=
  bytes1 e.slot ++ bytes1 e.outcome.code ++ bytes1 e.reason.code ++ bytesIndex e.failedEntry ++
    bytesIndex e.failedTile ++ bytesBool e.cancelLate ++ bytesHalf e.seq ++ bytesWord e.driverTag ++ bytesWord frame ++
    bytesHalf (summary.bits.setWidth 16) ++ unused 14

/-- An event entry, 16 bytes. -/
def eventBytes (e : Event) (gap : Nat) (frame : Word) : List Byte :=
  bytes1 e.kind.code ++ bytes1 e.index ++ [e.oldState] ++ [e.newState] ++ bytes1 gap ++ unused 3 ++
    bytesWord e.detail ++ bytesWord frame

/-- The slot table header, 64 bytes. -/
def slotHeaderBytes (frame : Word) (nextSeq : Half) : List Byte :=
  bytesWord frame ++ bytesHalf nextSeq ++ unused 58

/-- A slot record, 16 bytes. -/
def slotRecordBytes (r : SlotRec) : List Byte :=
  bytes1 r.state.code ++ bytes1 r.lastRefusal.code ++ bytesBool r.cancelRequested ++ unused 1 ++ bytesHalf r.seq ++
    unused 2 ++ bytesWord r.due ++ unused 4

/-- A window record, 64 bytes. -/
def windowRecordBytes (w : WindowRec) : List Byte :=
  bytesBool w.visible ++ bytes1 w.routed ++ bytes1 w.shown ++ bytes1 w.sub.code ++ bytes1 w.rank ++
    bytesBool w.native ++ bytesBool w.prot ++ bytesIndex w.ctx ++ bytes1 w.loss.code ++ bytes1 w.restore.code ++
    bytesBool w.crop.isSome ++ bytesBool w.expectedTag.isSome ++ bytesRect w.rect ++
    bytesRect (w.crop.getD ⟨0, 0, 0, 0⟩) ++ bytesWord (w.expectedTag.getD 0) ++ bytesWord w.lastCommitFrame ++
    bytesWord w.lastTakeTag ++ unused 24

/-- A fragment, 32 bytes. -/
def fragmentBytes (f : Fragment) : List Byte :=
  bytes1 f.window ++ bytes1 f.shown ++ bytes1 f.charge ++ bytesIndex f.ctx ++ bytesRect f.clip ++ bytesRect f.src ++
    unused 12

/-- Total charge of a plan. -/
def planCharge (p : List Fragment) : Nat := (p.map (·.charge)).sum

/-- A tile block, 272 bytes for a plan of at most 8 fragments. -/
def tileBlockBytes (p : List Fragment) : List Byte :=
  bytes1 p.length ++ bytes1 (planCharge p) ++ unused 14 ++ p.flatMap fragmentBytes ++ unused (32 * (8 - p.length))

/-- A filter entry, 16 bytes. -/
def filterEntryBytes (f : FilterEntry) : List Byte :=
  bytesBool f.enabled ++ bytes1 f.action.code ++ bytes1 f.low ++ bytes1 f.high ++ bytes2 f.kinds.toNat ++ unused 10

/-- Header of a mirror, 64 bytes: plan epoch and writing marker. -/
def mirrorHeaderBytes (epoch : Word) (writing : Bool) : List Byte := bytesWord epoch ++ bytesBool writing ++ unused 59

/-- Time remaining on a loss hold timer, which counts down from the setting in 10 ms steps (R86), 0 when it is stopped. -/
def SourceRec.holdSteps (r : SourceRec) (now : Time) : Nat :=
  match r.holdEnd with
  | none => 0
  | some t => (t - now + (tenMs - 1)) / tenMs

/-- A source record of the source status section, 32 bytes. -/
def sourceRecordBytes (writing : Bool) (r : SourceRec) (update : Half) (now : Time) : List Byte :=
  let f := r.qualified.getD ⟨0, 0, .progressive, none, 0⟩
  bytesBool writing ++ bytes1 r.state.code ++ bytesHalf update ++ bytesBool r.settings.enabled ++
    bytes1 r.settings.declaredClass ++ bytesIndex r.settings.backup ++ bytes1 r.stable ++ bytes2 r.settings.lossHold ++
    bytes2 (r.holdSteps now) ++ bytesBool r.qualified.isSome ++ bytes1 (scanCode f.scan) ++ bytes1 (r.measuredClass.getD 0) ++
    bytesBool f.tag.isSome ++ bytes2 f.width ++ bytes2 f.height ++ bytesWord (BitVec.ofNat 32 f.rate) ++
    bytesWord (f.tag.getD 0) ++ bytes2 r.lockCount ++ bytes2 r.lossCount

/-- Header of the source status section, 64 bytes. -/
def sourceHeaderBytes (change : Word) : List Byte := bytesWord change ++ unused 60

/-! The records that fill a section, for the status writer. -/

/-- The records of a mirror of layout `l` on a wall of `tiles` tiles (R21, R161). -/
def mirrorRecords (l : Layout) (tiles : Nat) : Mirror → List Byte
  | .windowTable => l.windows.flatMap windowRecordBytes
  | .tilePlans => (List.range tiles).flatMap (fun t => tileBlockBytes (l.plans.getD t []))
  | .filterList => l.filters.flatMap filterEntryBytes

end Sys2Proof.Machine
end

