-- ==== Sys2Proof/Machine/Reporting.lean ====
section
/-! DEFINITION. The reporting unit: handing on events and journal entries, the filter, the rings and their headers (chapter 08).
-/

namespace Sys2Proof.Machine

/-! The filter (R159). -/

/-- A filter entry matches an event of kind `k` and index `i` (R159). -/
def FilterEntry.matchesEvent (f : FilterEntry) (k : EventKind) (i : Nat) : Bool :=
  f.enabled && f.kinds.getLsbD (k.code - 1) && decide (f.low ≤ i ∧ i ≤ f.high)

/-- The action for an event: that of the first matching entry, else the default (R159). -/
def filterEvent (fs : List FilterEntry) (dflt : FilterAction) (k : EventKind) (i : Nat) : FilterAction :=
  match fs.find? (fun f => f.matchesEvent k i) with
  | some f => f.action
  | none => dflt

/-! Losing and queueing an event. -/

/-- The pending gap rises by `n`, to at most 255 (R155). -/
def Ring.gapRise (r : Ring) (n : Nat) : Ring := { r with gap := min 255 (r.gap + n), headerPending := true }

/-- Events waiting for an event ring. -/
def Report.queue (r : Report) : RingId → List Event
  | .journal => []
  | .urgent => r.urgentQueue
  | .routine => r.routineQueue

/-- Replace the events waiting for an event ring. -/
def Report.setQueue (r : Report) (i : RingId) (q : List Event) : Report :=
  match i with
  | .journal => r
  | .urgent => { r with urgentQueue := q }
  | .routine => { r with routineQueue := q }

/-- `n` events for a ring are lost (R155). -/
def State.loseEvents (s : State) (i : RingId) (n : Nat) : State :=
  if n = 0 then s
  else (s.setReport (s.report.setRing i ((s.report.ring i).gapRise n))).raise .eventsLost

/-- Send an event to an event ring: lost when nothing waits ahead of it and the ring is full, else it waits its turn
(R149, R155; log 11). -/
def State.sendEvent (s : State) (i : RingId) (e : Event) : State :=
  if s.report.queue i = [] ∧ (s.report.ring i).capacity ≤ (s.report.ring i).fill then s.loseEvents i 1
  else s.setReport (s.report.setQueue i (s.report.queue i ++ [e]))

/-- The reporting unit takes an event: it is filtered with the live filter list as it stands (R160); before the first
successful activation it is dropped (R162). -/
def State.handEvent (s : State) (e : Event) : State :=
  match s.modes.captured with
  | none => s
  | some c =>
    match filterEvent s.composer.live.filters c.defaultAction e.kind e.index with
    | .discard => s
    | .urgent => s.sendEvent .urgent e
    | .routine => s.sendEvent .routine e

/-- Take several events in order (R158). -/
def State.handEvents (s : State) (es : List Event) : State := es.foldl State.handEvent s

/-- The reporting unit takes a journal entry that finishes a take: it waits for the ring writer, which converts the take's
reservation when it counts the entry (R149, R152, R153). -/
def State.handEntry (s : State) (e : JournalEntry) : State :=
  s.modReport (fun re => { re with journalQueue := re.journalQueue ++ [e] })

/-! Events of each kind (R157). -/

/-- A one-byte state code. -/
def stateByte (n : Nat) : Byte := BitVec.ofNat 8 n

/-- A MODE event (R126). -/
def modeEvent (old new : Mode) (t : Trigger) : Event :=
  { kind := .mode, index := 0, oldState := stateByte old.code, newState := stateByte new.code,
    detail := BitVec.ofNat 32 t.code, frame := none }

/-- A SUPERVISION event (R145). -/
def supervisionEvent (old : Mode) (interval : Nat) : Event :=
  { kind := .supervision, index := 0, oldState := stateByte old.code, newState := stateByte Mode.fallback.code,
    detail := BitVec.ofNat 32 interval, frame := none }

/-- An OVERRUN event (R65). -/
def overrunEvent (target : Word) (count : Nat) : Event :=
  { kind := .overrun, index := 0, oldState := 0, newState := 0, detail := BitVec.ofNat 32 count, frame := some target }

/-- A SUBSTITUTE or RESTORE event of an applied edit (R107). -/
def editEvent (e : Edit) (old new : SubState) (shown : Nat) (frame : Word) : Event :=
  { kind := if new = .none then .restore else .substitute, index := e.window, oldState := stateByte old.code,
    newState := stateByte new.code, detail := BitVec.ofNat 32 (shown + 256 * e.cause.code), frame := some frame }

/-- A TIMING event (R124); `amount` in whole µs. -/
def timingEvent (old new : RefState) (amount : Nat) (realigned shortened activation : Bool) : Event :=
  { kind := .timing, index := 0, oldState := stateByte old.code, newState := stateByte new.code,
    detail := 0#13 ++ BitVec.ofBool activation ++ BitVec.ofBool shortened ++ BitVec.ofBool realigned ++ BitVec.ofNat 16 amount,
    frame := none }

/-- A SOURCE event (R91). -/
def sourceEvent (i : Nat) (old new : SourceState) (cls : Option Nat) (glitch activation : Bool) : Event :=
  { kind := .source, index := i, oldState := stateByte old.code, newState := stateByte new.code,
    detail := 0#22 ++ BitVec.ofBool activation ++ BitVec.ofBool glitch ++ 0#4 ++ BitVec.ofNat 4 (cls.getD 0), frame := none }

/-- A FORMAT event (R92). -/
def formatEvent (i : Nat) (size rate scan tag : Bool) : Event :=
  { kind := .format, index := i, oldState := stateByte SourceState.locked.code, newState := stateByte SourceState.acquiring.code,
    detail := 0#28 ++ BitVec.ofBool tag ++ BitVec.ofBool scan ++ BitVec.ofBool rate ++ BitVec.ofBool size, frame := none }

/-! Ring state at activation and reset. -/

/-- A ring as initialised with captured parameters (R163). -/
def Ring.initial (p : RingParams) : Ring :=
  { capacity := p.capacity, fill := 0, writeIndex := 0, releaseIndex := 0, watermark := p.watermark, gap := 0,
    reserved := 0, headerPending := false, initPending := true }

/-- A ring emptied by soft reset; its header and entry area are rewritten when a section map is captured (R164). -/
def Ring.emptied (r : Ring) (mapped : Bool) : Ring :=
  { r with fill := 0, writeIndex := 0, releaseIndex := 0, gap := 0, reserved := 0, headerPending := false,
           initPending := mapped }

/-- A release of `n` entries, at most the fill count (R151). -/
def Ring.released (r : Ring) (n : Nat) : Ring :=
  let k := min n r.fill
  { r with fill := r.fill - k, releaseIndex := (r.releaseIndex + k) % r.capacity, headerPending := true }

/-- The ring a selector names (R190). -/
def ringOfSelector : Nat → Option RingId
  | 0 => some .journal
  | 1 => some .urgent
  | 2 => some .routine
  | _ => none

end Sys2Proof.Machine
end

