-- ==== Sys2Proof/Machine/Takes.lean ====
section
/-! DEFINITION. The take engine: finishing takes, post checks and posting (chapter 02). -/

namespace Sys2Proof.Machine

/-! Finishing a take (R43, R153). -/

/-- The journal entry of the take in slot `i` (R153). -/
def State.entryOf (s : State) (i : Nat) (res : TakeOutcome × Reason × Option Nat × Option Nat) (cancelLate : Bool)
    (frame : Option Word) : JournalEntry :=
  let r := s.slot i
  { slot := i, outcome := res.1, reason := res.2.1, failedEntry := res.2.2.1, failedTile := res.2.2.2,
    cancelLate := cancelLate, driverTag := r.header.driverTag, seq := r.seq, frame := frame }

/-- The take of slot `i` finishes: its entry is handed on. The slot becomes IDLE, and the reservation is converted, with the
header write that counts the entry (R43, R149, R152, R154). Where that write comes within the same command, and where it waits
for the ring writer's own, is the model's choice (log 10). -/
def State.finishTake (s : State) (i : Nat) (res : TakeOutcome × Reason × Option Nat × Option Nat) (cancelLate : Bool)
    (frame : Option Word) : State :=
  s.handEntry (s.entryOf i res cancelLate frame)

/-- The take of slot `i` has finished: its entry waits to be written (log 10). -/
def State.finished (s : State) (i : Nat) : Bool := s.report.journalQueue.any (fun e => e.slot == i)

/-- An outcome without a reason, failed entry or failed tile. -/
def plainOutcome (o : TakeOutcome) : TakeOutcome × Reason × Option Nat × Option Nat := (o, .none, none, none)

/-- The takes of the slots listed finish CANCELLED in order (R44, R65, R142). -/
def State.cancelTakes (s : State) (l : List Nat) (frame : Option Word) : State :=
  l.foldl (fun s i => s.finishTake i (plainOutcome .cancelled) false frame) s

/-- The takes of the slots listed finish ABANDONED in order, with CANCEL_LATE where cancel-requested is yes (R46, R71). -/
def State.abandonTakes (s : State) (l : List Nat) : State :=
  l.foldl (fun s i => s.finishTake i (plainOutcome .abandoned) (s.slot i).cancelRequested none) s

/-- A take of a build that ends without a commit returns to POSTED, or finishes CANCELLED when a cancel was requested
(R65, R70). -/
def State.returnTake (s : State) (frame : Option Word) (i : Nat) : State :=
  if (s.slot i).cancelRequested then s.finishTake i (plainOutcome .cancelled) false frame
  else s.setSlot i { s.slot i with state := .posted }

/-- The slots that satisfy `p` and hold a take that has not finished, ascending. -/
def State.slotsOf (s : State) (p : SlotRec → Bool) : List Nat :=
  (s.takes.slots.zipIdx.filter (fun r => p r.1 && !s.finished r.2)).map (·.2)

/-- The slots with a POSTED take, ascending. -/
def State.postedSlots (s : State) : List Nat := s.slotsOf (fun r => decide (r.state = .posted))

/-- The slots with a POSTED or BUILDING take, ascending. -/
def State.busySlots (s : State) : List Nat := s.slotsOf (fun r => decide (r.state ≠ .idle))

/-! Posting (R37 to R42). -/

/-- Posts are taken in RUN and HOLD (R38, R126). -/
def Mode.takesPosts : Mode → Bool
  | .run | .hold => true
  | .starting | .config | .activating | .fallback | .quiescing | .quiesced => false

/-- The journal has no place left (R38, R152). -/
def Report.journalFull (r : Report) : Bool := decide (r.journal.capacity ≤ r.journal.fill + r.journal.reserved)

/-- The refusal of a post of slot `i`, if any (R38). -/
def State.postRefusal (s : State) (i : Nat) : Option RefusalReason :=
  if !s.modes.mode.takesPosts then some .mode
  else if decide ((s.slot i).state ≠ .idle) then some .busy
  else if s.report.journalFull then some .noRoom
  else none

/-- Record the result of a SLOTREQ action on a slot (R27). -/
def State.recordRefusal (s : State) (i : Nat) (r : RefusalReason) : State :=
  s.setSlot i { s.slot i with lastRefusal := r }

/-- A SLOTREQ action on slot `i` is refused (R38, R44). -/
def State.refuse (s : State) (i : Nat) (r : RefusalReason) : State := (s.recordRefusal i r).raise .slotRefused

/-- Reserve one journal place (R39, R152). -/
def State.reserve (s : State) : State :=
  s.modReport (fun re => { re with
    journal := { re.journal with reserved := re.journal.reserved + 1, headerPending := true } })

/-- The take reader has a build read in hand: the build is RUNNING and has a take without a result (R60). -/
def State.buildReading (s : State) : Bool :=
  match s.composer.build with
  | none => false
  | some b => decide (b.status = .running) && b.takes.any (fun t => t.result.isNone)

/-- A post of slot `i` passes the refusal checks: a place is reserved, the slot is locked and its checks start (R39). The take
reader serves them behind a build read that it has in hand (R60). -/
def State.acceptPost (s : State) (i : Nat) : State :=
  ((s.recordRefusal i .none).reserve).andThen fun s =>
  s.modTakes (fun te => { te with checking := some i, behindBuild := s.buildReading })

/-- Handle the slots a POST names, each completely before the next, as far as the first whose post checks must wait for the
take reader (R37). -/
def State.handlePosts (s : State) : List Nat → State
  | [] => s.modTakes (fun te => { te with toHandle := [] })
  | i :: l =>
    match s.postRefusal i with
    | some r => (s.refuse i r).handlePosts l
    | none => (s.acceptPost i).modTakes (fun te => { te with toHandle := l })

/-- Start of slot `i` in the captured map; 0 when there is none (no post is accepted then). -/
def State.slotStart (s : State) (i : Nat) : Nat :=
  match s.map with
  | none => 0
  | some m => slotBase m i

/-- The post checks on a header read from slot `i` (R39 to R41). -/
def State.postCheck (s : State) (i : Nat) (h : TakeHeader) : Option Reason :=
  if h.count = 0 ∨ 24 < h.count then some .badCount
  else if h.checked && Memory.checkCode s.ram (s.slotStart i) h.count != h.checkCode then some .badCheck
  else if !h.checked && (s.modes.captured.map (·.requireChecked)).getD false then some .noCheck
  else if h.dueAt && passed h.dueFrame s.timing.frame then some .late
  else none

/-- The recorded due frame of a take that passes its post checks (R41). -/
def State.recordedDue (s : State) (h : TakeHeader) : Word :=
  if h.dueAt then h.dueFrame else if s.timing.planDone then s.timing.frame + 2 else s.timing.frame + 1

/-- A take that fails a post check finishes REJECTED; its entry carries the counter's value, which is not consumed (R39, R153). -/
def State.rejectPost (s : State) (i : Nat) (h : TakeHeader) (r : Reason) : State :=
  s.handEntry { slot := i, outcome := .rejected, reason := r, failedEntry := none, failedTile := none, cancelLate := false,
                driverTag := h.driverTag, seq := s.takes.nextSeq, frame := none }

/-- A post is handled once its take is POSTED in RUN and HOLD (R39, R43, R152). -/
def Mode.keepsPosts : Mode → Bool
  | .run | .hold => true
  | .starting | .config | .activating | .fallback | .quiescing | .quiesced => false

/-- A take that passes its post checks receives its post sequence and due frame, and the counter advances (R39, R42). In RUN and
HOLD the slot is POSTED; in every other mode it stays IDLE (R43). -/
def State.recordPost (s : State) (i : Nat) (h : TakeHeader) : State :=
  (s.setSlot i { s.slot i with
    state := if s.modes.mode.keepsPosts then .posted else (s.slot i).state
    seq := s.takes.nextSeq, due := s.recordedDue h, header := h }).andThen fun s1 =>
  (s1.modTakes (fun te => { te with nextSeq := te.nextSeq + 1 })).markSlotHeader

/-- The post checks of slot `i` are done (R39). A take that fails one finishes REJECTED; one that passes them in a mode that keeps
no posts finishes at once, ABANDONED in FALLBACK and CANCELLED elsewhere (R43). -/
def State.finishChecks (s : State) (i : Nat) : State :=
  s.ctlRead.andThen fun s =>
  let h := Memory.takeHeader s.ram (s.slotStart i)
  match s.postCheck i h with
  | some r => s.rejectPost i h r
  | none =>
    (s.recordPost i h).andThen fun s =>
    if s.modes.mode.keepsPosts then s
    else s.finishTake i (plainOutcome (if s.modes.mode = .fallback then .abandoned else .cancelled)) false none

/-- The checks of the slot in hand are done. A slot that is POSTED is handled, and the take engine goes on with those that the
POST still names; one whose take finished is in hand until its reservation is converted (R37, R152). -/
def State.continuePosts (s : State) : State :=
  match s.takes.checking with
  | none => s
  | some i =>
    (s.finishChecks i).andThen fun s1 =>
    if s1.finished i then s1 else (s1.modTakes (fun te => { te with checking := none })).handlePosts s.takes.toHandle

/-- Post checks are in hand: the take reader still reads the take (R39). -/
def State.checksInHand (s : State) : Bool := s.takes.checking.any (fun i => !s.finished i)

/-- The slots a mask names, ascending (R37). -/
def maskSlots (mask : BitVec 16) : List Nat := (List.range 16).filter (fun i => mask.getLsbD i)

/-! Supervision (R144). -/

/-- Start or restart the supervision timer at the full interval; an interval of 0 keeps it stopped (R144). -/
def State.startSupervision (s : State) : State :=
  let interval := (s.modes.captured.map (·.supervision)).getD 0
  s.modModes (fun mo => { mo with supervision := if interval = 0 then none else some s.now })

/-- Stop the supervision timer (R144). -/
def State.stopSupervision (s : State) : State := s.modModes (fun mo => { mo with supervision := none })

/-- A serve restarts a running timer and changes nothing else (R144). -/
def State.serve (s : State) : State := if s.modes.supervision.isSome then s.startSupervision else s

end Sys2Proof.Machine
end

