-- ==== Sys2Proof/Machine/Building.lean ====
section
/-! DEFINITION. Gathering at the plan point, the build of a draft, the checks on takes, and build complete (chapter 03). -/

namespace Sys2Proof.Machine

/-! Gathering (R49, R50). -/

/-- A slot is considered at the plan point for boundary `n` (R49). -/
def SlotRec.considered (r : SlotRec) (n : Word) : Bool := decide (r.state = .posted) && passed r.due n

/-- A considered take is past its deadline (R28, R49). -/
def SlotRec.pastDeadline (r : SlotRec) (n : Word) : Bool :=
  r.header.deadline != 0 && decide (r.header.deadline < (n - r.due).toNat)

/-- The takes past their deadlines finish EXPIRED in ascending slot order (R49). -/
def State.expireTakes (s : State) (n : Word) : State :=
  (s.slotsOf (fun r => r.considered n && r.pastDeadline n)).foldl
    (fun s i => s.finishTake i (plainOutcome .expired) false none) s

/-- Slot `i` stands before slot `j` in gathered order (R50). -/
def gatheredBefore (a : SlotRec) (i : Nat) (b : SlotRec) (j : Nat) : Bool :=
  if a.header.urgent != b.header.urgent then a.header.urgent
  else if a.due != b.due then earlier a.due b.due
  else if a.seq != b.seq then seqLower a.seq b.seq
  else decide (i < j)

/-- Insert a slot into a list in gathered order: before the first that it stands before. -/
def State.insertGathered (s : State) (i : Nat) : List Nat → List Nat
  | [] => [i]
  | j :: l => if gatheredBefore (s.slot i) i (s.slot j) j then i :: j :: l else j :: s.insertGathered i l

/-- The slots considered at the plan point for `n`, in gathered order (R50), inserted one by one from the highest slot down. Where
three or more post sequences of one class and due frame compare in a cycle, R116 gives no order: the one this leaves is the
model's choice (log 45). -/
def State.gatheredOrder (s : State) (n : Word) : List Nat :=
  (s.slotsOf (fun r => r.considered n)).foldr s.insertGathered []

/-- The slots gathered: at most six (R50). -/
def State.gathered (s : State) (n : Word) : List Nat := (s.gatheredOrder n).take 6

/-- The slots listed move from POSTED to BUILDING (R50). -/
def State.startTakes (s : State) (l : List Nat) : State :=
  l.foldl (fun s i => s.setSlot i { s.slot i with state := .building }) s

/-! The build (R51 to R53). -/

/-- The build record of a build that starts from the live layout with an edit set and a take list: the edit set is applied to
the draft first (R52, R53). -/
def State.newBuild (s : State) (target : Word) (attempt : Nat) (edits : List Edit) (takes : List Nat) : BuildRecord :=
  let r := s.resolveEdits s.composer.live.windows edits
  { status := .running, target := target, attempt := attempt, draft := { s.composer.live with windows := r.1 },
    edits := r.2, takes := takes.map (fun i => ⟨i, none⟩), inTake := none, named := [] }

/-- Replace the build record. -/
def State.setBuild (s : State) (b : Option BuildRecord) : State := s.modComposer (fun co => { co with build := b })

/-- Gathering, and the start of a build when there is work for one (R49 to R52). Its reads come behind post checks in hand
(R60). -/
def State.gatherAndBuild (s : State) (n : Word) : State :=
  (s.expireTakes n).andThen fun s1 =>
  let l := s1.gathered n
  if l.isEmpty && s1.composer.pendingEdits.isEmpty then s1
  else
    ((s1.startTakes l).modTakes (fun te => { te with behindBuild := false })).andThen fun s2 =>
    s2.setBuild (some (s2.newBuild n 0 s2.composer.pendingEdits l))

/-- Plan points gather and build in RUN and FALLBACK (R48). -/
def Mode.builds : Mode → Bool
  | .run | .fallback => true
  | .starting | .config | .activating | .hold | .quiescing | .quiesced => false

/-- The plan point for the next boundary (R48, R113): it occurs once in a frame. While a fallback commit is owed it starts no
build and gathers nothing (R139, R141; log 20). -/
def State.planPoint (s : State) : State :=
  (s.modTiming (fun ti => { ti with planDone := true })).andThen fun s1 =>
  if s.modes.mode.builds && !s.composer.fallbackOwed then s1.gatherAndBuild (s.timing.frame + 1) else s1

/-- PLAN_POINT (R48, R113). A second plan point in a frame does not occur (log 4). -/
def execPlanPoint (s : State) : Host.Outcome State Fault Refusal :=
  if s.timing.planDone then .next s else .next (s.reach s.timing.nextPlan).planPoint

/-! Checks on one entry (R29 to R36, R55). -/

/-- The nine entry kinds (R190). -/
inductive EntryKind where
  | show | route | place | rerank | crop | hide | restore | protect | filter
deriving DecidableEq, Repr

/-- The kind of an encoding (R190). -/
def entryKind : Nat → Option EntryKind
  | 1 => some .show
  | 2 => some .route
  | 3 => some .place
  | 4 => some .rerank
  | 5 => some .crop
  | 6 => some .hide
  | 7 => some .restore
  | 8 => some .protect
  | 9 => some .filter
  | _ => none

/-- The reason of the first failing check of a list that stands in the order of R55. -/
def firstFailure : List (Bool × Reason) → Option Reason
  | [] => none
  | (fails, r) :: l => if fails then some r else firstFailure l

/-- What the entry checks read: the wall, which sources are enabled, whether authority is honoured (R34), REQUIRE_LOCKED, and
the state and tag of each source (R56). -/
structure EntryContext where
  geometry : Geometry
  authority : Bool
  requireLocked : Bool
  sources : List SourceRec
deriving DecidableEq, Repr

/-- The record of source `i`. -/
def EntryContext.source (c : EntryContext) (i : Nat) : SourceRec := c.sources.getD i SourceRec.external

/-- An entry needs protection authority (R34). -/
def Entry.needsAuthority (e : Entry) (k : EntryKind) (w : WindowRec) : Bool :=
  decide (k = .protect) || (decide (k = .show) && e.prot) || (w.visible && w.prot)

/-- Checks 1 to 9 of R55: they read only the entry and the configuration. -/
def Entry.staticChecks (e : Entry) (k : EntryKind) (g : Geometry) (enabled : Nat → Bool) : List (Bool × Reason) :=
  let isShow := decide (k = .show)
  let sourced := isShow || decide (k = .route)
  let placed := isShow || decide (k = .place)
  [(decide (k ≠ .filter) && decide (63 < e.window), .badWindow),
   (decide (k = .filter) && (decide (15 < e.window) || e.filter.entry.isNone), .badFilter),
   (sourced && decide (43 < e.source), .badSource),
   (sourced && !enabled e.source, .sourceDisabled),
   (placed && !e.rect.largeEnough, .tooSmall),
   (placed && !e.rect.insideWall g, .outOfWall),
   ((isShow || decide (k = .crop)) && e.cropPresent && !e.crop.cropOk, .badCrop),
   ((isShow || decide (k = .rerank)) && e.rank == 0, .badRank)]

/-- Checks 10 to 13 of R55: they read the draft, the permit and the sources as they stand. -/
def Entry.dynamicChecks (e : Entry) (k : EntryKind) (c : EntryContext) (w : WindowRec) : List (Bool × Reason) :=
  let sourced := decide (k = .show) || decide (k = .route)
  let r := c.source e.source
  [(decide (k ≠ .filter) && e.needsAuthority k w && !c.authority, .protectedEdit),
   (decide (k = .restore) && decide (w.sub = .none), .notSubstituted),
   ((sourced && c.requireLocked && decide (r.state ≠ .locked)) ||
      (decide (k = .restore) && decide ((c.source w.routed).state ≠ .locked)), .sourceNotReady),
   (sourced && e.tagPresent && decide (r.state = .locked) && decide ((r.qualified.bind (·.tag)) ≠ some e.tag), .tagMismatch)]

/-- The checks on one entry against a draft, in the order of R55. -/
def Entry.check (e : Entry) (c : EntryContext) (ws : List WindowRec) : Option Reason :=
  match entryKind e.kind with
  | none => some .badKind
  | some k =>
    firstFailure (e.staticChecks k c.geometry (fun i => (c.source i).settings.enabled) ++
      e.dynamicChecks k c (windowAt ws e.window))

/-! Applying one entry (R30 to R35). -/

/-- The tag an entry carries, or none. -/
def Entry.tagValue (e : Entry) : Option Word := if e.tagPresent then some e.tag else none

/-- The crop an entry carries, or none. -/
def Entry.cropValue (e : Entry) : Option Rect := if e.cropPresent then some e.crop else none

/-- The window as a SHOW entry writes it (R30). -/
def Entry.shownWindow (e : Entry) (w : WindowRec) : WindowRec :=
  { w with visible := true, routed := e.source, shown := e.source, sub := .none, rect := e.rect, rank := e.rank,
           native := e.native, prot := e.prot, crop := e.cropValue, expectedTag := e.tagValue,
           loss := if e.follow then .follow else .slate, restore := if e.manual then .manual else .auto }

/-- A window hidden (R3, R33). -/
def WindowRec.hidden (w : WindowRec) : WindowRec := { w with visible := false, sub := .none, shown := w.routed }

/-- The window as an entry of kind `k` leaves it (R30 to R34). -/
def Entry.applyTo (e : Entry) (k : EntryKind) (w : WindowRec) : WindowRec :=
  match k with
  | .show => e.shownWindow w
  | .route => { w with routed := e.source, shown := e.source, sub := .none, expectedTag := e.tagValue }
  | .place => { w with rect := e.rect }
  | .rerank => { w with rank := e.rank }
  | .crop => { w with crop := e.cropValue }
  | .hide => w.hidden
  | .restore => { w with shown := w.routed, sub := .none }
  | .protect => { w with prot := e.prot }
  | .filter => w

/-- Apply an entry that passed its checks to a draft (R29, R35). -/
def Entry.apply (e : Entry) (d : Layout) : Layout :=
  match entryKind e.kind with
  | none => d
  | some .filter =>
    match e.filter.entry with
    | some f => { d with filters := d.filters.set e.window f }
    | none => d
  | some k => { d with windows := d.windows.set e.window (e.applyTo k (windowAt d.windows e.window)) }

/-! Checking one take (R54, R56, R57, R58). -/

/-- Check the next entry of a take against the draft that those before it leave, and apply it where it passes. After a failure no
further entry is checked (R54). -/
def TakeCheck.next (p : TakeCheck) (c : EntryContext) (e : Entry) : TakeCheck :=
  match p.failed with
  | some _ => p
  | none =>
    match e.check c p.draft.windows with
    | some r => { p with failed := some r }
    | none => { p with passed := p.passed + 1, draft := e.apply p.draft }

/-- Check the entries of a take that are left to check, in list order (R54). -/
def TakeCheck.toEnd (p : TakeCheck) (c : EntryContext) (es : List Entry) : TakeCheck :=
  (es.drop p.passed).foldl (fun p e => p.next c e) p

/-- The result of a take whose entries have been checked, and the draft after it (R54, R57, R58). A REJECTED take leaves the draft
`d` that it found. -/
def TakeCheck.result (p : TakeCheck) (g : Geometry) (cls : Nat → Nat) (d : Layout) : TakeResult × Layout :=
  match p.failed with
  | some r => (⟨false, r, some p.passed, none⟩, d)
  | none =>
    match wholeLayoutCheck g cls p.draft.windows with
    | some (r, t) => (⟨false, r, none, t⟩, d)
    | none => (⟨true, .none, none, none⟩, p.draft)

/-- The windows an entry list names (R13); FILTER entries name none (R35). -/
def namedWindows (es : List Entry) : List Nat :=
  (es.filter (fun e => decide (entryKind e.kind ≠ some .filter))).map (·.window)

/-- What the check of an entry of the take in slot `i` reads at this moment (R34, R56). -/
def State.entryContext (s : State) (i : Nat) : EntryContext :=
  { geometry := s.geometry, authority := (s.slot i).header.overrides && s.modes.permit,
    requireLocked := (s.slot i).header.requireLocked, sources := s.sources }

/-- The entries of the take in slot `i` as they stand in the RAM (R26). -/
def State.takeEntries (s : State) (i : Nat) : List Entry := Memory.entries s.ram (s.slotStart i) (s.slot i).header.count

/-- The checks of the build's first take without a result, as far as they have come (R54). -/
def BuildRecord.takeBegun (b : BuildRecord) : TakeCheck := b.inTake.getD ⟨0, b.draft, none⟩

/-- Check to its end the first take of a take list that has no result: the list, the draft and the named windows after (R54). -/
def State.checkNext (s : State) (b : BuildRecord) : List BuildTake → Option (List BuildTake × Layout × List (Nat × Word))
  | [] => none
  | t :: ts =>
    match t.result with
    | some _ => (s.checkNext b ts).map (fun r => (t :: r.1, r.2))
    | none =>
      let es := s.takeEntries t.slot
      let r := (b.takeBegun.toEnd (s.entryContext t.slot) es).result s.geometry s.classOf b.draft
      let named := if r.1.applied then (namedWindows es).map (fun w => (w, (s.slot t.slot).header.driverTag)) else []
      some ({ t with result := some r.1 } :: ts, r.2, b.named ++ named)

/-- The next take of the build has been fetched through the take reader to its end; the composer checks the entries left of it,
and the whole layout (R54). The read after it stands behind post checks in hand (R60). -/
def State.checkBuildTake (s : State) (b : BuildRecord) : State :=
  s.ctlRead.andThen fun s =>
  match s.checkNext b b.takes with
  | none => s
  | some r =>
    (s.setBuild (some { b with takes := r.1, draft := r.2.1, inTake := none, named := r.2.2 })).modTakes
      (fun te => { te with behindBuild := false })

/-- The build's read stands first at the take reader: it has one in hand, and no post checks were asked for before it (R60). -/
def State.readsBuild (s : State) : Bool := s.buildReading && (!s.checksInHand || s.takes.behindBuild)

/-- The next entry of the take being fetched for the build is checked, with the permit and the sources as they stand (R54, R56).
-/
def State.checkEntry (s : State) (b : BuildRecord) : State :=
  match b.takes.find? (fun t => t.result.isNone) with
  | none => s
  | some t =>
    match (s.takeEntries t.slot)[b.takeBegun.passed]? with
    | none => s
    | some e => s.setBuild (some { b with inTake := some (b.takeBegun.next (s.entryContext t.slot) e) })

/-- One grant to the take reader for which no command stands: where the build's read stands first, one more entry of its take is
fetched and checked. That an entry is checked at a grant is the model's choice (log 19). Every other read shows nothing (log 44).
-/
def State.readerGrant (s : State) : State :=
  ((match s.composer.build with
    | some b => if s.readsBuild then s.checkEntry b else s
    | none => s) : State).setLastServed .controller

/-! Build complete (R59). -/

/-- The last tag given to window `i` by the applied takes, in order (R13). -/
def lastTag (named : List (Nat × Word)) (i : Nat) : Option Word :=
  ((named.filter (fun p => p.1 == i)).getLast?).map (·.2)

/-- An applied edit changed window `i` (R13). -/
def editTouched (edits : List (Edit × EditOutcome)) (i : Nat) : Bool :=
  edits.any (fun p => p.1.window == i && decide (p.2 ≠ .dropped))

/-- Record the last commit frame and the last take tag of one window of the draft (R13). -/
def BuildRecord.stamp (b : BuildRecord) (live : List WindowRec) (p : WindowRec × Nat) : WindowRec :=
  let touched := (lastTag b.named p.2).isSome || editTouched b.edits p.2 || p.1.ctx != (windowAt live p.2).ctx
  { p.1 with lastCommitFrame := if touched then b.target else p.1.lastCommitFrame
             lastTakeTag := (lastTag b.named p.2).getD p.1.lastTakeTag }

/-- Complete a draft: contexts, stamps and plans (R15, R17, R18, R59). -/
def State.completeDraft (s : State) (b : BuildRecord) : Layout :=
  let ws := assignContexts s.composer.live.windows b.draft.windows
  let ws := (indexed ws).map (b.stamp s.composer.live.windows)
  { b.draft with windows := ws, plans := s.plansNow ws }

/-- Every take of the build has its result. -/
def BuildRecord.allChecked (b : BuildRecord) : Bool := b.takes.all (fun t => t.result.isSome)

/-- BUILD_COMPLETE of the attempt `attempt` of the build for boundary `target` (R59). It is ignored when no such build is
RUNNING (R67, R73, R74). -/
def execBuildComplete (target : Word) (attempt : Nat) (s : State) : Host.Outcome State Fault Refusal :=
  match s.composer.build with
  | none => .next s
  | some b =>
    if b.status = .running ∧ b.target = target ∧ b.attempt = attempt ∧ b.allChecked = true then
      .next (s.setBuild (some { b with status := .ready, draft := s.completeDraft b }))
    else .next s

/-! Ends of a build without a commit. -/

/-- The slots of the build's take list, in gathered order. -/
def State.buildSlots (s : State) : List Nat :=
  match s.composer.build with
  | none => []
  | some b => b.takes.map (·.slot)

/-- The build is dropped and its takes return to POSTED or finish CANCELLED, in gathered order (R65, R70). -/
def State.discardBuild (s : State) (frame : Option Word) : State :=
  (s.buildSlots.foldl (fun s i => s.returnTake frame i) s).setBuild none

/-- A link reset restarts the build with the same edit set and no takes (R73). -/
def State.restartBuild (s : State) : State :=
  match s.composer.build with
  | none => s
  | some b => s.setBuild (some (s.newBuild b.target (b.attempt + 1) (b.edits.map (·.1)) []))

end Sys2Proof.Machine
end

