-- ==== Sys2Proof/Machine/RingWriter.lean ====
section
/-! DEFINITION. The ring writer: entries and headers written into the rings' sections, block by block; the end of a take when its
journal entry is counted, and what ends takes at once: a cancel, a link reset (R37, R43, R44, R46, R148 to R156, R163, R164,
R184). -/

namespace Sys2Proof.Machine

/-! Places (R148). -/

/-- The section of a ring in the captured map, an empty area when there is none. -/
def State.ringArea (s : State) (i : RingId) : Section :=
  match s.map with
  | none => ⟨0, 0⟩
  | some m => sectionOf m (ringSection i)

/-- Address of the place the write index names (R148, R149). -/
def State.ringPlace (s : State) (i : RingId) : Nat :=
  (s.ringArea i).start + 64 + (s.report.ring i).writeIndex * ringEntrySize i

/-- The frame number of an entry: fixed by its event, or the counter when it is written (R114, R153, R157). -/
def State.entryFrame (s : State) (f : Option Word) : Word := f.getD s.timing.frame

/-! The blocks of the ring writer's work. -/

/-- The bytes of the entry that waits first for a ring, as they are written now (R153, R154, R156, R157). -/
def State.entryBytes (s : State) : RingId → List Byte
  | .journal => (s.report.journalQueue.head?.map
      (fun e => journalEntryBytes e (s.entryFrame e.frame) (s.summaryCopy e.slot))).getD []
  | i => ((s.report.queue i).head?.map (fun e => eventBytes e (s.report.ring i).gap (s.entryFrame e.frame))).getD []

/-- The blocks of a work before the header write that ends it (R149, R163, R164). -/
def State.ringBlocks (s : State) : RingJob → Blocks
  | .clear i => blocksOf ((s.ringArea i).start + 64) (List.replicate ((s.ringArea i).size - 64) 0)
  | .entry i => [(s.ringPlace i, s.entryBytes i)]

/-- How many blocks of a work stand already. -/
def Report.written (r : Report) (j : RingJob) : Nat :=
  match r.ringJob with
  | some (k, n) => if k = j then n else 0
  | none => 0

/-- The blocks still to be written of a work, with what each holds now. -/
def State.ringLeft (s : State) (j : RingJob) : Blocks := (s.ringBlocks j).drop (s.report.written j)

/-- Replace the work in hand. -/
def State.setRingJob (s : State) (j : Option (RingJob × Nat)) : State := s.modReport (fun re => { re with ringJob := j })

/-- Every block of a work stands; it is no longer in hand. An access that waits at the exchange port has its turn first (R184), so
that an entry's bytes show what it leaves (R154). -/
def State.doRingJob (s : State) (j : RingJob) : State :=
  s.portTurn.andThen fun s =>
  (s.ctlWrites (s.ringLeft j)).setRingJob (s.report.ringJob.filter (fun k => decide (k.1 ≠ j)))

/-! Headers (R148, R151, R163, R164). -/

/-- The ring writer writes a ring's header (R148). -/
def State.writeRingHeader (s : State) (i : RingId) : State :=
  if s.map.isSome then s.ctlWrite (s.ringArea i).start (ringHeaderBytes (s.report.ring i)) else s

/-- The ring writer finishes the header work it has for a ring: after an initialisation the entry area is cleared and the header
written, after a release or another change of a header field the header is written (R148, R151, R163, R164). -/
def State.flushRing (s : State) (i : RingId) : State :=
  let r := s.report.ring i
  (if r.initPending then s.doRingJob (.clear i) else s).andThen fun s1 =>
  if r.initPending || r.headerPending then
    (s1.setReport (s1.report.setRing i { r with initPending := false, headerPending := false })).writeRingHeader i
  else s

/-! Entries (R149 to R156). -/

/-- A ring after the header write that counts one entry; a journal entry converts one reservation (R149, R152, R156). -/
def Ring.counted (r : Ring) (i : RingId) : Ring :=
  match i with
  | .journal => { r with writeIndex := (r.writeIndex + 1) % r.capacity, fill := r.fill + 1, reserved := r.reserved - 1 }
  | _ => { r with writeIndex := (r.writeIndex + 1) % r.capacity, fill := r.fill + 1, gap := 0 }

/-- The header write that counts one entry, and the watermark cause (R149, R150). -/
def State.countEntry (s : State) (i : RingId) : State :=
  let r := (s.report.ring i).counted i
  ((s.setReport (s.report.setRing i r)).writeRingHeader i).raiseIf (r.fill == r.watermark) (ringWatermarkCause i)

/-- The take of slot `i` ends with the header write that counts its entry (R43, R149, R154): a post in hand is handled, and the
take engine goes on with the slots that the POST still names; every other slot becomes IDLE. -/
def State.endTake (s : State) (i : Nat) : State :=
  if s.takes.checking = some i then (s.modTakes (fun te => { te with checking := none })).handlePosts s.takes.toHandle
  else s.setSlot i { s.slot i with state := .idle, cancelRequested := false }

/-- Write the first waiting journal entry (R149, R152 to R154). -/
def State.writeJournalEntry (s : State) : State :=
  match s.report.journalQueue with
  | [] => s
  | e :: q =>
    ((s.flushRing .journal).doRingJob (.entry .journal)).andThen fun s =>
    ((s.modReport (fun re => { re with journalQueue := q })).countEntry .journal).endTake e.slot

/-- The events still waiting for a ring that is now full are lost in turn (R155, R158; log 11). -/
def State.loseWaiting (s : State) (i : RingId) : State :=
  if (s.report.ring i).capacity ≤ (s.report.ring i).fill then
    (s.setReport (s.report.setQueue i [])).loseEvents i (s.report.queue i).length
  else s

/-- Write the first event waiting for an event ring (R149, R155, R156). -/
def State.writeEvent (s : State) (i : RingId) : State :=
  match s.report.queue i with
  | [] => s
  | _ :: q =>
    ((s.flushRing i).doRingJob (.entry i)).andThen fun s =>
    ((s.setReport (s.report.setQueue i q)).countEntry i).loseWaiting i

/-- The ring writer writes the first entry waiting for a ring, if any (R149). -/
def State.writeEntry (s : State) : RingId → State
  | .journal => s.writeJournalEntry
  | .urgent => s.writeEvent .urgent
  | .routine => s.writeEvent .routine

/-! The ring writer's work. -/

/-- How many entries wait for a ring. -/
def Report.waitingFor (r : Report) : RingId → Nat
  | .journal => r.journalQueue.length
  | .urgent => r.urgentQueue.length
  | .routine => r.routineQueue.length

/-- The ring writer has work for a ring: header work, or an entry that waits (R149, R151, R163, R164). -/
def Report.ringWork (r : Report) (i : RingId) : Bool :=
  (r.ring i).initPending || (r.ring i).headerPending || decide (r.waitingFor i ≠ 0)

/-- The work of several grants that the ring writer begins next: of the first ring with work, its clearing or its first entry. A
header write alone is none. -/
def Report.nextRingJob (r : Report) : Option RingJob :=
  ([RingId.journal, .urgent, .routine].find? (fun i => r.ringWork i)).bind (fun i =>
    if (r.ring i).initPending then some (.clear i) else if (r.ring i).headerPending then none else some (.entry i))

/-- The work the ring writer goes on with: that in hand, else the next one. -/
def Report.ringWorkNext (r : Report) : Option RingJob := (r.ringJob.map (·.1)).or r.nextRingJob

/-- One grant to the ring writer for which no command stands: the next block of the work in hand, or the first of the next work.
The header write that ends a work comes with its command (R149, R184; log 44). -/
def State.ringGrant (s : State) : State :=
  match s.report.ringWorkNext with
  | none => s.setLastServed .controller
  | some j =>
    match s.ringLeft j with
    | [] => s.setLastServed .controller
    | b :: _ => (s.putBlock b.1 b.2).setRingJob (some (j, s.report.written j + 1))

/-! Work done to its end within one command. -/

/-- The ring writer writes the first `n` entries that wait for a ring, in order. -/
def State.writeEntries (s : State) (i : RingId) : (n : Nat) → State
  | 0 => s
  | n + 1 => (s.writeEntry i).writeEntries i n

/-- The ring writer writes every journal entry that waits, and the takes they are of end (R43, R154). -/
def State.journalDone (s : State) : State := s.writeEntries .journal s.report.journalQueue.length

/-- The ring writer does all it has to do for a ring: the entries that wait, then the header (R149, R151, R163). -/
def State.ringDone (s : State) (i : RingId) : State := (s.writeEntries i (s.report.waitingFor i)).flushRing i

/-- The ring writer does all it has to do for the three rings (R149). -/
def State.ringsDone (s : State) : State := ((s.ringDone .journal).ringDone .urgent).ringDone .routine

/-- The take engine completes the POST it is handling, slot by slot; an entry that ends one is written, for no ring write is
abandoned (R37, R46, R149). `fuel` bounds the slots. -/
def State.completePosts : (fuel : Nat) → State → State
  | 0, s => s
  | fuel + 1, s =>
    match s.takes.checking with
    | none => s
    | some i => (if s.finished i then s.journalDone else s.continuePosts).completePosts fuel

/-! Cancelling (R37, R44). -/

/-- A cancel of slot `i` (R44). A POSTED take finishes and its slot is IDLE with the cancel, its entry written then, after those
that wait before it (R37, R43, R154). A take that has finished is no longer there to cancel, as in a slot that is IDLE (log 10).
-/
def State.cancelSlot (s : State) (i : Nat) : State :=
  match if s.finished i then .idle else (s.slot i).state with
  | .posted => ((s.recordRefusal i .none).finishTake i (plainOutcome .cancelled) false none).journalDone
  | .building => s.setSlot i { s.slot i with cancelRequested := true, lastRefusal := .none }
  | .idle => s.refuse i .notPosted

/-- Cancel the slots listed in order (R37, R44). -/
def State.cancelSlots (s : State) (l : List Nat) : State := l.foldl State.cancelSlot s

end Sys2Proof.Machine
end

