-- ==== Sys2Proof/Machine/Modes.lean ====
section
/-! DEFINITION. The mode controller: moves of the mode, the entries to HOLD, FALLBACK, QUIESCING and CONFIG, supervision
expiry (chapter 07). -/

namespace Sys2Proof.Machine

/-- Replace the mode. -/
def State.setMode (s : State) (m : Mode) : State := s.modModes (fun mo => { mo with mode := m })

/-- Move the mode and hand on the MODE event (R126). -/
def State.moveMode (s : State) (m : Mode) (t : Trigger) : State :=
  (s.setMode m).handEvent (modeEvent s.modes.mode m t)

/-- A refused mode request (R130). -/
def State.failRequest (s : State) : State := s.raise .modeFail

/-! HOLD (R138). -/

/-- Entry to HOLD: mode, cause, MODE event, supervision restarted (R138). -/
def State.enterHold (s : State) (t : Trigger) : State :=
  ((s.moveMode .hold t).raise .holdEntered).startSupervision

/-! FALLBACK (R71, R139). -/

/-- Entry to FALLBACK (R139): the build is discarded, the takes finish ABANDONED, with every slot IDLE as their entries are
written (R43), supervision stops, FALLBACK_ENTERED is set, the MODE event is handed on and the fallback commit is owed. That the
entries are written within the entry to the mode is the model's choice, and so is the mode that a POST in hand then meets: where
its rejected entry is among them, the slots it still names are handled before the mode moves, under RUN or HOLD, and one of them
may be accepted for checking instead of refused MODE (R37; log 10). -/
def State.enterFallback (s : State) (t : Trigger) : State :=
  ((s.abandonTakes s.buildSlots).setBuild none).andThen fun s =>
  (s.abandonTakes s.postedSlots).journalDone.andThen fun s =>
  ((s.stopSupervision.raise .fallbackEntered).moveMode .fallback t).andThen fun s =>
  s.modComposer (fun co => { co with fallbackOwed := true })

/-! QUIESCING and QUIESCED (R142). -/

/-- The move from QUIESCING to QUIESCED (R142). The entries of the takes that have finished are written first, so that every slot
is IDLE (R43): that they are written within the move is the model's choice (log 10). -/
def State.quiesceDone (s : State) : State := (s.journalDone.raise .modeReached).moveMode .quiesced .quiesceDone

/-- Entry to QUIESCING (R72, R142): POSTED takes finish CANCELLED, supervision stops; with no build and no fallback commit in
flight the mode goes on to QUIESCED at once. -/
def State.enterQuiescing (s : State) (t : Trigger) : State :=
  (((s.cancelTakes s.postedSlots none).stopSupervision).moveMode .quiescing t).andThen fun s =>
  if s.composer.build.isNone && !s.composer.fallbackOwed then s.quiesceDone else s

/-! Clearing the layout (R25, R143). -/

/-- The live layout cleared, and the pending edits with it (R25, R96, R161). -/
def Composer.clearedLayout (c : Composer) : Composer := { c with live := Layout.cleared, pendingEdits := [] }

/-- The ports drop their plans (R25). -/
def State.dropPlans (s : State) : State := s.setPorts (s.ports.map (fun p => { p with plan := [] }))

/-- The section of a mirror in the captured map, an empty area when there is none. -/
def State.mirrorArea (s : State) (m : Mirror) : Section :=
  match s.map with
  | none => ⟨0, 0⟩
  | some t => sectionOf t (mirrorSection m)

/-- Address of a mirror's writing marker (R22, R193). -/
def State.markerPlace (s : State) (m : Mirror) : Nat := (s.mirrorArea m).start + 4

/-- The work rewrites a mirror, as such or with its whole section. -/
def StatusJob.ofMirror : StatusJob → Bool
  | .mirror _ | .wholeSection 4 | .wholeSection 5 | .wholeSection 7 => true
  | .wholeSection _ | .source _ => false

/-- The three mirrors are to be rewritten from the layout as it stands, and a rewrite of one in hand is abandoned (R22). -/
def StatusWriter.askMirrors (w : StatusWriter) : StatusWriter :=
  { w with windowsPending := true, plansPending := true, filtersPending := true }.setAside StatusJob.ofMirror

/-- A rewrite of the three mirrors is asked for, while a section map is captured (R22). -/
def State.beginRewrites (s : State) : State :=
  if s.map.isSome then s.modStatus StatusWriter.askMirrors else s

/-- The entry to CONFIG from QUIESCED clears the live layout, advances the plan epoch and rewrites the mirrors (R25, R143). -/
def State.clearLayoutForConfig (s : State) : State :=
  let c := s.composer.clearedLayout
  ((s.setComposer { c with epoch := c.epoch + 1 }).dropPlans).beginRewrites

/-! Activation start and end without capture (R132, R137). -/

/-- The end of an activation without capture: back to CONFIG, nothing brought into force, the hold of R181 ended (R135, R137). -/
def State.endActivation (s : State) (t : Trigger) : State :=
  (s.modModes (fun mo => { mo with progress := .none, reading := false })).andThen fun s =>
  (s.modPort (fun pt => { pt with holdArea := none })).andThen fun s =>
  s.moveMode .config t

/-- A RUN request in CONFIG starts an activation (R132): what it reads is fixed here, because the areas it reads are locked or
held until it has read them (R181; log 29). Before the first success the fallback record's area is marked for holding. -/
def State.startActivation (s : State) : State :=
  let image := Memory.configImage s.ram
  (s.modModes (fun mo => { mo with
    progress := .checking image, reading := true, attempt := mo.attempt + 1, failCode := .none, failIndex := 0 })).andThen fun s1 =>
  (if s.modes.captured.isNone then s1.modPort (fun pt => { pt with holdArea := some (sectionOf image.map 1) })
   else s1).andThen fun s2 =>
  s2.moveMode .activating .request

/-! What each request does in each mode (R130). -/

/-- A RUN request (R130, R132, R138, R141, R143). -/
def State.runRequest (s : State) : State :=
  match s.modes.mode with
  | .starting => s
  | .config => s.startActivation
  | .activating => s.failRequest
  | .run => s
  | .hold => ((s.modComposer (fun co => { co with overruns := 0 })).moveMode .run .request).startSupervision
  | .fallback => (s.moveMode .run .request).startSupervision
  | .quiescing => s.failRequest
  | .quiesced => (s.moveMode .run .request).startSupervision

/-- A HOLD request (R70, R130, R138). -/
def State.holdRequest (s : State) : State :=
  match s.modes.mode with
  | .starting => s
  | .run => (s.discardBuild none).enterHold .request
  | .hold => s
  | .config | .activating | .fallback | .quiescing | .quiesced => s.failRequest

/-- A FALLBACK request (R130, R139). -/
def State.fallbackRequest (s : State) : State :=
  match s.modes.mode with
  | .starting => s
  | .run | .hold | .quiesced => s.enterFallback .request
  | .fallback => s
  | .config | .activating | .quiescing => s.failRequest

/-- A QUIESCE request (R130, R142). -/
def State.quiesceRequest (s : State) : State :=
  match s.modes.mode with
  | .starting => s
  | .run | .hold | .fallback => s.enterQuiescing .request
  | .quiescing | .quiesced => s
  | .config | .activating => s.failRequest

/-- A CONFIG request (R130, R137, R142, R143). From QUIESCED the MODE event is handed on before the filter list is cleared, so the
old list filters it: the order is the model's choice (log 18). -/
def State.configRequest (s : State) : State :=
  match s.modes.mode with
  | .starting => s
  | .config => s
  | .activating => s.endActivation .request
  | .run | .hold | .fallback => s.failRequest.enterQuiescing .redirect
  | .quiescing => s.failRequest
  | .quiesced => (s.moveMode .config .request).clearLayoutForConfig

/-- What every MODECTL write that is not a soft reset does first: the two stored fields take the written values, the interrupt
condition is evaluated, and outside STARTING a SERVE of 1 serves supervision (R127, R129, R171). -/
def State.modectl (s : State) (serve permit intEnable : Bool) : State :=
  ((s.modModes (fun mo => { mo with permit := permit, intEnable := intEnable })).evaluate).andThen fun s =>
  if serve && decide (s.modes.mode ≠ .starting) then s.serve else s

/-! Supervision expiry (R145). -/

/-- SUPERVISION_EXPIRY: the supervision timer reaches its interval (R145). With the timer stopped there is no expiry (log 4). -/
def execSupervisionExpiry (s : State) : Host.Outcome State Fault Refusal :=
  match s.modes.supervision with
  | none => .next s
  | some start =>
    let interval := (s.modes.captured.map (·.supervision)).getD 0
    (s.reach (start + interval * hundredMs)).andThen fun s =>
    .next ((s.handEvent (supervisionEvent s.modes.mode interval)).enterFallback .supervision)

end Sys2Proof.Machine
end

