-- ==== Sys2Proof/Machine/Activation.lean ====
section
/-! DEFINITION. The activation checks, and the fallback plan they compute (R131 to R137). -/

namespace Sys2Proof.Machine

/-! The checks before the sections (R133, rows 1 to 4). -/

/-- The wall rate of a value in millihertz (R112, R191). -/
def wallRate : Nat → Option WallRate
  | 50000 => some .r50000
  | 59940 => some .r59940
  | 60000 => some .r60000
  | _ => none

/-- The wall rate in millihertz. -/
def WallRate.millihertz : WallRate → Nat
  | .r50000 => 50000
  | .r59940 => 59940
  | .r60000 => 60000

/-- Columns and rows are each 1 to 8 and their product at most 32 (R16). -/
def ConfigImage.geometryOk (c : ConfigImage) : Bool :=
  decide (1 ≤ c.cols ∧ c.cols ≤ 8 ∧ 1 ≤ c.rows ∧ c.rows ≤ 8 ∧ c.cols * c.rows ≤ 32)

/-- The lead is a whole number of milliseconds from 2 to 12 (R113, R191). -/
def ConfigImage.leadOk (c : ConfigImage) : Bool := decide (2000 ≤ c.lead ∧ c.lead ≤ 12000 ∧ c.lead % 1000 = 0)

/-- Ring parameters in range, with capacity at most `top` (R133). -/
def RingParams.ok (p : RingParams) (top : Nat) : Bool :=
  decide (16 ≤ p.capacity ∧ p.capacity ≤ top ∧ 1 ≤ p.watermark ∧ p.watermark ≤ p.capacity)

/-- The lowest ring whose parameters fail: 0 journal, 1 urgent, 2 routine (R133; order among rings: log 24). -/
def ConfigImage.badRing (c : ConfigImage) : Option Nat :=
  if !c.journal.ok 256 then some 0 else if !c.urgent.ok 1024 then some 1 else if !c.routine.ok 1024 then some 2 else none

/-! The section checks (R133, rows 5 to 8). -/

/-- Minimum size of section `n` (R133, R193). -/
def ConfigImage.minimum (c : ConfigImage) : Nat → Nat
  | 1 => 2080
  | 2 => 12800
  | 3 => 320
  | 4 => 4160
  | 5 => 64 + 272 * (c.cols * c.rows)
  | 6 => 1472
  | 7 => 320
  | 8 => 64 + 32 * c.journal.capacity
  | 9 => 64 + 16 * c.urgent.capacity
  | 10 => 64 + 16 * c.routine.capacity
  | _ => 0

/-- Section `n`, 0 the configuration section (R133). -/
def areaOf (m : SectionMap) (n : Nat) : Section := if n = 0 then configSection else sectionOf m n

/-- The lowest section, 1 to 10, that satisfies `p`. -/
def lowestSection (p : Nat → Bool) : Option Nat := ((List.range 10).map (· + 1)).find? p

/-- Section `n` shares a byte with a lower-numbered section, or, for the fallback record, with a controller-owned section of
the captured map (R133). -/
def sectionOverlap (m : SectionMap) (old : Option SectionMap) (n : Nat) : Bool :=
  (List.range n).any (fun k => (areaOf m n).meets (areaOf m k)) ||
    (n == 1 && match old with
      | none => false
      | some o => ((List.range 8).map (· + 3)).any (fun k => (areaOf m 1).meets (areaOf o k)))

/-! Settings and filters (R133, rows 9 and 10). -/

/-- The settings of a record of source `i`, none where it breaks R76. -/
def RawSettings.settings (r : RawSettings) (i : Nat) : Option SourceSettings :=
  if (r.declaredClass = 1 ∨ r.declaredClass = 2 ∨ r.declaredClass = 4) ∧ (r.backup ≤ 43 ∨ r.backup = 255) ∧
      r.backup ≠ i ∧ r.lossHold ≤ 500 then
    some ⟨r.enabled, r.declaredClass, if r.backup = 255 then none else some r.backup, r.lossHold⟩
  else none

/-- The lowest source whose settings record breaks R76. -/
def ConfigImage.badSource (c : ConfigImage) : Option Nat :=
  (c.settings.zipIdx.find? (fun p => (p.1.settings p.2).isNone)).map (·.2)

/-- The lowest initial filter entry that breaks R35, or 16 for the default action. -/
def ConfigImage.badFilter (c : ConfigImage) : Option Nat :=
  match c.filters.zipIdx.find? (fun p => p.1.entry.isNone) with
  | some p => some p.2
  | none => if (filterAction c.defaultAction).isNone then some 16 else none

/-- The settings of all external sources. -/
def ConfigImage.allSettings (c : ConfigImage) : List SourceSettings :=
  c.settings.zipIdx.map (fun p => (p.1.settings p.2).getD ⟨false, 1, none, 0⟩)

/-! The fallback record (R134). -/

/-- A source is enabled in the settings being checked; internal sources always are (R75, R134). -/
def ConfigImage.enabled (c : ConfigImage) (i : Nat) : Bool :=
  if i < Config.externalSources then (c.allSettings.getD i ⟨false, 1, none, 0⟩).enabled else true

/-- The declared class of a source in the settings being checked (R134). -/
def ConfigImage.classOf (c : ConfigImage) (i : Nat) : Nat :=
  if i < Config.externalSources then (c.allSettings.getD i ⟨false, 1, none, 0⟩).declaredClass else 1

/-- The geometry being checked. -/
def ConfigImage.geometry (c : ConfigImage) : Geometry := ⟨c.cols, c.rows⟩

/-- A fallback entry fails: its kind must be SHOW, and checks 2 to 9 of R55 apply (R134). -/
def ConfigImage.badEntry (c : ConfigImage) (e : Entry) : Bool :=
  decide (entryKind e.kind ≠ some .show) || (firstFailure (e.staticChecks .show c.geometry c.enabled)).isSome

/-- The index of the failure in the fallback record's count or entries (R134). -/
def ConfigImage.badFallback (c : ConfigImage) : Option Nat :=
  if c.fallbackCount = 0 ∨ 64 < c.fallbackCount then some 0
  else (c.fallbackEntries.zipIdx.find? (fun p => c.badEntry p.1)).map (·.2)

/-- The window table of the fallback record: its entries applied in order to an empty layout (R134). -/
def ConfigImage.fallbackWindows (c : ConfigImage) : List WindowRec :=
  (c.fallbackEntries.foldl (fun d e => e.apply d) Layout.cleared).windows

/-- Number of a whole-layout check (R134). -/
def layoutCheckNumber : Reason → Nat
  | .rankClash => 1
  | .protectedCover => 2
  | .layerBudget => 3
  | .fetchBudget => 4
  | .scalerExhausted => 5
  | .none | .badCount | .badCheck | .noCheck | .late | .badKind | .badWindow | .badSource | .sourceDisabled | .outOfWall
  | .tooSmall | .badCrop | .badRank | .badFilter | .protectedEdit | .sourceNotReady | .tagMismatch | .notSubstituted => 0

/-- The fallback plan: the window table with contexts in ascending window index from context 0 (R15, R134). -/
def ConfigImage.fallbackPlan (c : ConfigImage) : List WindowRec := assignContexts Layout.cleared.windows c.fallbackWindows

/-! The checks in order (R133), and the capture (R131). -/

/-- A failure with an index, when there is one. -/
def failAt (code : FailCode) (i : Option Nat) : Option (FailCode × Nat) := i.map (fun n => (code, n))

/-- A failure with index 0. -/
def failIf (code : FailCode) (b : Bool) : Option (FailCode × Nat) := if b then some (code, 0) else none

/-- The failure code and index of the first check that fails; `old` is the captured map (R133, R134). -/
def ConfigImage.failure (c : ConfigImage) (old : Option SectionMap) : Option (FailCode × Nat) :=
  let area := fun n => sectionOf c.map n
  (failIf .geometry (!c.geometryOk)).or <|
  (failIf .rate (wallRate c.rate).isNone).or <|
  (failIf .planLead (!c.leadOk)).or <|
  (failAt .ringParam c.badRing).or <|
  (failAt .sectionRange (lowestSection (fun n => decide (Config.ramSize < (area n).start + (area n).size)))).or <|
  (failAt .sectionAlign (lowestSection (fun n => (area n).start % 64 != 0))).or <|
  (failAt .sectionSize (lowestSection (fun n => decide ((area n).size < c.minimum n)))).or <|
  (failAt .sectionOverlap (lowestSection (sectionOverlap c.map old))).or <|
  (failAt .sourceParam c.badSource).or <|
  (failAt .filterParam c.badFilter).or <|
  (failIf .startLayout (decide (1 < c.startSelector))).or <|
  (failAt .fallbackEntry c.badFallback).or <|
  failAt .fallbackLayout ((wholeLayoutCheck c.geometry c.classOf c.fallbackWindows).map (fun r => layoutCheckNumber r.1))

/-- The capture of a configuration that passes the checks (R131, R133). -/
def ConfigImage.capture (c : ConfigImage) : Captured :=
  { cols := c.cols, rows := c.rows, lead := c.lead, rate := (wallRate c.rate).getD .r60000,
    journal := c.journal, urgent := c.urgent, routine := c.routine, supervision := min 600 c.supervision,
    requireChecked := c.requireChecked, startFallback := c.startSelector == 1,
    defaultAction := (filterAction c.defaultAction).getD .discard, map := c.map,
    filters := c.filters.map (fun f => f.entry.getD FilterEntry.cleared), settings := c.allSettings }

/-- The activation checks complete (R135): back to CONFIG with the failure code and index, or PASSED. -/
def State.checksComplete (s : State) (image : ConfigImage) : State :=
  match image.failure s.map with
  | some (code, index) =>
    (s.modModes (fun mo => { mo with failCode := code, failIndex := index })).andThen fun s1 =>
    (s1.raise .activationFailed).endActivation .checksFailed
  | none =>
    (s.modModes (fun mo => { mo with progress := .passed image.capture image.fallbackPlan, reading := false })).andThen fun s1 =>
    s1.modPort (fun pt => { pt with holdArea := none })

end Sys2Proof.Machine
end

