-- ==== Sys2Proof/Machine/Sources.lean ====
section
/-! DEFINITION. The source monitor: qualification, the state machine, state changes, settings (chapter 04). -/

namespace Sys2Proof.Machine

/-! Matching, rate and measured class (R79 to R81). -/

/-- Two periods differ by no more than 1 % of the earlier one, where both are present (R79). -/
def periodsMatch (earlier later : Option Nat) : Bool :=
  match earlier, later with
  | some p, some q => decide (100 * (max p q - min p q) ≤ p)
  | _, _ => true

/-- A frame matches the candidate (R79). -/
def candidateMatches (c m : Measurement) : Bool :=
  c.width == m.width && c.height == m.height && decide (c.scan = m.scan) && decide (c.tag = m.tag) &&
    periodsMatch c.period m.period

/-- A period in µs lies within 1 % of the qualified period, the reciprocal of the qualified rate (R79): with rate r in
millihertz the qualified period is 10^9 / r µs. An absent period is not compared. -/
def Format.rateMatches (f : Format) (period : Option Nat) : Bool :=
  match period with
  | none => true
  | some p => decide (100 * (max (p * f.rate) 1000000000 - min (p * f.rate) 1000000000) ≤ 1000000000)

/-- Size of a frame equals that of the qualified format. -/
def Format.sizeMatches (f : Format) (m : Measurement) : Bool := f.width == m.width.toNat && f.height == m.height.toNat

/-- A frame matches the qualified format (R79). -/
def Format.matchesFrame (f : Format) (m : Measurement) : Bool :=
  f.sizeMatches m && decide (f.scan = m.scan) && decide (f.tag = m.tag) && f.rateMatches m.period

/-- The rate in millihertz of a period of `p` µs, rounded to the nearest, a half up (R80; its worked value for 16,683 µs: log
41). -/
def rateOfPeriod (p : Nat) : Nat := (2000000000 + p) / (2 * p)

/-- The measured class of a format (R81). -/
def measuredClassOf (width height rate : Nat) : Nat :=
  if width < 64 ∨ 4096 < width ∨ height < 36 ∨ 2160 < height then 8
  else
    let p := width * height * rate
    if p ≤ 75000000000 then 1 else if p ≤ 150000000000 then 2 else if p ≤ 600000000000 then 4 else 8

/-! State changes (R90, R91). -/

/-- A state change of external source `i` to record `r`: the record changes, the composer adds its edits, a SOURCE event is
handed on, and the record is to be published (R90). -/
def State.changeSource (s : State) (i : Nat) (r : SourceRec) (glitch activation : Bool) : State :=
  let old := (s.source i).state
  (s.setSource i r).andThen fun s =>
  (s.setComposer (s.composer.sourceChanged i r.state)).andThen fun s =>
  s.handEvent (sourceEvent i old r.state r.measuredClass glitch activation)

/-- A record that enters ACQUIRING, ABSENT or DISABLED: no qualified format, no measured class, timer stopped (R80, R81). -/
def SourceRec.cleared (r : SourceRec) (state : SourceState) (stable : Nat) (candidate : Option Measurement) : SourceRec :=
  { r with state := state, stable := stable, candidate := candidate, qualified := none, measuredClass := none,
           holdEnd := none }

/-- A counter of 16 bits that saturates. -/
def saturate16 (n : Nat) : Nat := min 65535 n

/-- Entry to ABSENT that raises the loss count (R82). -/
def SourceRec.lostRec (r : SourceRec) : SourceRec :=
  { r.cleared .absent 0 none with lossCount := saturate16 (r.lossCount + 1) }

/-! Activity (R83 to R89). -/

/-- A LOCKED source loses its signal (R85). -/
def State.loseLocked (s : State) (i : Nat) : State :=
  let r := s.source i
  if r.settings.lossHold = 0 then s.changeSource i r.lostRec false false
  else s.changeSource i { r with state := .lossHold, holdEnd := some (s.now + r.settings.lossHold * tenMs) } false false

/-- What an activity loss does in each state (R83 to R89). -/
def State.sourceLoss (s : State) (i : Nat) : State :=
  let r := s.source i
  match r.state with
  | .acquiring | .overclass => s.changeSource i (r.cleared .absent 0 none) false false
  | .locked => s.loseLocked i
  | .disabled | .absent | .lossHold => s

/-- Note a change of a lane's activity, after which no frame has arrived yet, and the time from which its frame timeout is counted
(R78, R88). -/
def State.noteLane (s : State) (i : Nat) (activity : Bool) (watchFrom : Time) : State :=
  s.setSource i { s.source i with activity := activity, framed := false, watchFrom := watchFrom }

/-- The frame that follows the most recent one of a lane (R24, log 42). -/
def SourceRec.nextFrame (r : SourceRec) (scan : Scan) : SourceFrame := ⟨(r.latest.map (·.number)).getD 0 + 1, scan⟩

/-- Note a complete frame on a lane: it is the most recent one, and the frame timeout is counted from now (R24, R78, R88). -/
def State.noteFrame (s : State) (i : Nat) (m : Measurement) : State :=
  let r := s.source i
  s.setSource i { r with framed := true, watchFrom := s.now, latest := some (r.nextFrame m.scan) }

/-- ACTIVITY_ARRIVAL: activity becomes present on a lane (R78, R83, R86, R89). Taken only when it was not present (log 4). -/
def execActivityArrival (lane : Fin 40) (s : State) : Host.Outcome State Fault Refusal :=
  let i := lane.val
  if (s.source i).activity then .next s
  else
    (s.noteLane i true s.now).andThen fun s =>
    .next (match (s.source i).state with
      | .absent => s.changeSource i ((s.source i).cleared .acquiring 0 none) false false
      | .disabled | .acquiring | .locked | .overclass | .lossHold => s)

/-- ACTIVITY_LOSS: activity ceases on a lane (R78, R83 to R87, R89). Taken only when it was present (log 4). -/
def execActivityLoss (lane : Fin 40) (s : State) : Host.Outcome State Fault Refusal :=
  let i := lane.val
  if (s.source i).activity then .next ((s.noteLane i false (s.source i).watchFrom).sourceLoss i) else .next s

/-! Frames (R83 to R87). -/

/-- The rate of the frame that completes qualification (R80); a free value where its period is 0 or absent, which no lane reports
there (R78, log 21). -/
def State.qualifyingRate (s : State) (m : Measurement) : Nat :=
  match m.period with
  | some (p + 1) => rateOfPeriod (p + 1)
  | _ => Config.unstatedRate s.freeIdx

/-- A free value, once used, is not used again (log 21). -/
def State.useRate (s : State) (m : Measurement) : State :=
  match m.period with
  | some (_ + 1) => s
  | _ => s.setFreeIdx (s.freeIdx + 1)

/-- Qualification completes with frame `m` (R80, R81, R84). -/
def State.qualify (s : State) (i : Nat) (m : Measurement) : State :=
  let rate := s.qualifyingRate m
  (s.useRate m).andThen fun s =>
  let r := s.source i
  let cls := measuredClassOf m.width.toNat m.height.toNat rate
  let r := { r with stable := 3, candidate := none, measuredClass := some cls,
                    qualified := some ⟨m.width.toNat, m.height.toNat, m.scan, m.tag, rate⟩ }
  if cls ≤ r.settings.declaredClass then
    s.changeSource i { r with state := .locked, lockCount := saturate16 (r.lockCount + 1) } false false
  else s.changeSource i { r with state := .overclass } false false

/-- A frame in ACQUIRING (R84). -/
def State.acquireFrame (s : State) (i : Nat) (m : Measurement) : State :=
  let r := s.source i
  let stable := match r.candidate with
    | none => 1
    | some c => if candidateMatches c m then r.stable + 1 else 1
  if 3 ≤ stable then s.qualify i m else s.setSource i { r with stable := stable, candidate := some m }

/-- The source starts qualification again with frame `m` as candidate (R83, R85 to R87). -/
def State.requalify (s : State) (i : Nat) (m : Measurement) : State :=
  s.changeSource i ((s.source i).cleared .acquiring 1 (some m)) false false

/-- The FORMAT event of a frame that differs from the qualified format (R92). -/
def formatEventOf (i : Nat) (f : Format) (m : Measurement) : Event :=
  formatEvent i (!f.sizeMatches m) (!f.rateMatches m.period) (decide (f.scan ≠ m.scan)) (decide (f.tag ≠ m.tag))

/-- A frame compared with the qualified format (R79). -/
def SourceRec.frameMatches (r : SourceRec) (m : Measurement) : Bool :=
  match r.qualified with
  | none => false
  | some f => f.matchesFrame m

/-- What a frame does in each state (R83 to R87, R89). -/
def State.sourceFrame (s : State) (i : Nat) (m : Measurement) : State :=
  let r := s.source i
  match r.state with
  | .disabled => s
  | .absent => s.requalify i m
  | .acquiring => s.acquireFrame i m
  | .locked =>
    if r.frameMatches m then s
    else match r.qualified with
      | none => s.requalify i m
      | some f => (s.handEvent (formatEventOf i f m)).requalify i m
  | .overclass => if r.frameMatches m then s else s.requalify i m
  | .lossHold =>
    if r.frameMatches m then s.changeSource i { r with state := .locked, holdEnd := none } true false
    else s.requalify i m

/-- A lane reports a frame with this measurement: activity is present, and the period is there except in the first frame after an
activity arrival (R78). -/
def SourceRec.reports (r : SourceRec) (m : Measurement) : Bool := r.activity && (!r.framed || m.period.isSome)

/-- The measurement as the lane makes it: the first frame after an activity arrival has no period (R78, log 47). -/
def SourceRec.measures (r : SourceRec) (m : Measurement) : Measurement := if r.framed then m else { m with period := none }

/-- FRAME_ARRIVAL: a complete source frame (R78, R83 to R87). A frame that the lane cannot report changes nothing (R78, log 4). -/
def execFrameArrival (lane : Fin 40) (m : Measurement) (s : State) : Host.Outcome State Fault Refusal :=
  let i := lane.val
  let r := s.source i
  if r.reports m then .next ((s.noteFrame i m).sourceFrame i (r.measures m)) else .next s

/-! Timeouts (R86, R88). -/

/-- FRAME_TIMEOUT: 1,000 ms with activity and no frame, in ACQUIRING, LOCKED or OVERCLASS (R88). -/
def execFrameTimeout (lane : Fin 40) (s : State) : Host.Outcome State Fault Refusal :=
  let i := lane.val
  let r := s.source i
  if r.activity then
    (s.reach (r.watchFrom + oneSecond)).andThen fun s1 =>
    .next (match r.state with
      | .acquiring => s1.setSource i { r with stable := 0, candidate := none, watchFrom := r.watchFrom + oneSecond }
      | .locked | .overclass => s1.sourceLoss i
      | .disabled | .absent | .lossHold => s)
  else .next s

/-- LOSS_HOLD_EXPIRY: the loss hold timer of a source expires (R86). -/
def execLossHoldExpiry (lane : Fin 40) (s : State) : Host.Outcome State Fault Refusal :=
  let i := lane.val
  let r := s.source i
  match r.state, r.holdEnd with
  | .lossHold, some t => .next ((s.reach t).changeSource i r.lostRec false false)
  | _, _ => .next s

/-! Settings at activation (R77). -/

/-- Apply new settings to one external source (R77). -/
def State.applySettings (s : State) (i : Nat) (new : SourceSettings) : State :=
  let r := s.source i
  let r1 := { r with settings := new }
  if !r.settings.enabled && new.enabled then
    (s.changeSource i (r1.cleared .absent 0 none) false true).andThen fun s =>
    if r.activity then s.changeSource i ((s.source i).cleared .acquiring 0 none) false true else s
  else if r.settings.enabled && !new.enabled then s.changeSource i (r1.cleared .disabled 0 none) false true
  else if !new.enabled then s.setSource i r1
  else match r.state, r.measuredClass with
    | .locked, some c =>
      if new.declaredClass < c then s.changeSource i { r1 with state := .overclass } false true else s.setSource i r1
    | .overclass, some c =>
      if c ≤ new.declaredClass then s.changeSource i { r1 with state := .locked } false true else s.setSource i r1
    | _, _ => s.setSource i r1

/-- Apply new settings to the external sources in ascending index from `i` (R77). -/
def State.applyAllSettings (s : State) : (i : Nat) → List SourceSettings → State
  | _, [] => s
  | i, n :: ns => (s.applySettings i n).applyAllSettings (i + 1) ns

/-- The internal sources at a wall rate in millihertz (R75). -/
def State.setInternalRate (s : State) (rate : Nat) : State :=
  s.setSources (s.sources.take Config.externalSources ++ List.replicate 4 (SourceRec.internal rate))

end Sys2Proof.Machine
end

