-- ==== Sys2Proof/Machine/Boundary.lean ====
section
/-! DEFINITION. The wall frame boundary: commit, overrun, fallback commit, activation capture, output frames, and the schedule
(R61 to R66, R112 to R114, R135, R136, R140). -/

namespace Sys2Proof.Machine

/-! Tile output ports (R21, R23, R24). -/

/-- What a port shows for a fragment, from the state of its shown source (R23). -/
def pictureOf : SourceState → Picture
  | .locked => .live
  | .lossHold => .held
  | .disabled | .absent | .acquiring | .overclass => .slate

/-- The complete source frame a port takes for a fragment: the most recent one of the shown source while its picture is live, the
last one before the loss while it is held; an internal source's picture, the slate among them, has none (R23, R24). -/
def State.frameShown (s : State) (f : Fragment) (pic : Picture) : Option SourceFrame :=
  if pic = .slate ∨ Config.externalSources ≤ f.shown then none else (s.source f.shown).latest

/-- A fragment as the port of index `port` on tile rectangle `t` shows it: the source frame is taken now, the source rectangle is
recomputed for the active area of the moment, or for the slate without crop, and source 41 is drawn with the port's own tile
index (R18, R23, R24). -/
def State.showFragment (s : State) (port : Nat) (t : Rect) (f : Fragment) : ShownFragment :=
  let w := windowAt s.composer.live.windows f.window
  let pic := pictureOf (s.source f.shown).state
  let area := if pic = .slate then (1920, 1080) else s.areaOf f.shown
  let g := w.region area (decide (pic = .slate) || f.shown == Config.slate)
  { frag := f, picture := pic, frame := s.frameShown f pic,
    tile := if pic ≠ .slate ∧ f.shown = Config.identityGrid then some port else none,
    native := w.native, rect := w.rect, region := g,
    src := sourceRect w.rect w.native (f.clip.x + t.x - w.rect.x) (f.clip.y + t.y - w.rect.y) f.clip.w f.clip.h g }

/-- Every port begins its next output frame from the plan it holds (R24, R114). -/
def State.beginOutputFrames (s : State) : State :=
  s.setPorts (s.ports.zipIdx.map (fun p =>
    { p.1 with output := p.1.plan.map (s.showFragment p.2 (s.geometry.tileRect p.2)) }))

/-- Every port takes its plan from the live layout; a port beyond the configured tiles holds an empty plan (R16, R21). -/
def State.takePlans (s : State) : State :=
  s.setPorts (s.ports.zipIdx.map (fun p => { p.1 with plan := s.composer.live.plans.getD p.2 [] }))

/-- Header writes are handed to the commit writer, while a section map is captured (R185). R185 gives the header writes of one
boundary as a set: the order in which they are handed on is the model's choice (log 44). -/
def State.handHeaders (s : State) (l : List HeaderWrite) : State :=
  if s.map.isSome then s.modStatus (fun st => { st with headerWrites := st.headerWrites ++ l }) else s

/-- The layout has been replaced at a boundary: the ports take their plans, the setting of the mirrors' writing markers goes to
the commit writer, their rewrites are asked for, and the check that follows every commit runs (R21, R22, R101, R185). The order of
the three markers, window table, tile plans, filter list, is the model's choice (log 44). -/
def State.layoutReplaced (s : State) : State :=
  ((s.takePlans.handHeaders [.marker .windowTable, .marker .tilePlans, .marker .filterList]).beginRewrites).commitCheck

/-! Commit (R61 to R64). -/

/-- The journal entry of one take of a committed build (R62). -/
def State.finishBuilt (s : State) (n : Word) (t : BuildTake) : State :=
  let r := t.result.getD ⟨false, .none, none, none⟩
  s.finishTake t.slot (if r.applied then .applied else .rejected, r.reason, r.failedEntry, r.failedTile)
    (s.slot t.slot).cancelRequested (some n)

/-- The events of the edits that applied, in order (R63, R107). -/
def BuildRecord.events (b : BuildRecord) (n : Word) : List Event :=
  b.edits.filterMap (fun p =>
    match p.2 with
    | .dropped => none
    | .applied old new shown => some (editEvent p.1 old new shown n))

/-- The pending list less the edits of the build's edit set; newer edits stay (R63, R97). -/
def settleEdits (pending : List Edit) (edits : List (Edit × EditOutcome)) : List Edit :=
  pending.filter (fun e => !edits.any (fun p => p.1.serial == e.serial))

/-- The composer's part of a commit (R61, R63, R64). -/
def Composer.committed (c : Composer) (b : BuildRecord) : Composer :=
  { c with live := b.draft, epoch := c.epoch + 1, overruns := 0, build := none,
           pendingEdits := settleEdits c.pendingEdits b.edits }

/-- The commit of build `b` at boundary `n` (R61 to R64). -/
def State.commitBuild (s : State) (b : BuildRecord) (n : Word) : State :=
  (s.setComposer (s.composer.committed b)).andThen fun s =>
  (b.takes.foldl (fun s t => s.finishBuilt n t) s).andThen fun s =>
  (s.handEvents (b.events n)).layoutReplaced

/-! Overrun (R65, R66). -/

/-- Build `b` overruns at boundary `n` (R65, R66). -/
def State.overrunBuild (s : State) (b : BuildRecord) (n : Word) : State :=
  (if s.modes.mode = .quiescing then (s.cancelTakes s.buildSlots (some n)).setBuild none
   else s.discardBuild (some n)).andThen fun s =>
  let count := min 255 (s.composer.overruns + 1)
  (s.modComposer (fun co => { co with overruns := count })).andThen fun s =>
  ((s.handEvent (overrunEvent b.target count)).raise .overrun).andThen fun s =>
  if s.modes.mode = .run ∧ 3 ≤ count then s.enterHold .overrunLimit else s

/-! Fallback commit and start layout (R136, R140). -/

/-- A record with the stamps of another, to compare two records without their stamps. -/
def WindowRec.withStamps (w old : WindowRec) : WindowRec :=
  { w with lastCommitFrame := old.lastCommitFrame, lastTakeTag := old.lastTakeTag }

/-- A window as the fallback commit at boundary `n` leaves it: that of the plan, or hidden; stamped when it changed
(R13, R140). -/
def fallbackWindow (plan : List WindowRec) (n : Word) (p : WindowRec × Nat) : WindowRec :=
  let w := windowAt plan p.2
  let new := (if w.visible then w else { p.1.hidden with ctx := none }).withStamps p.1
  if new = p.1 then p.1 else { new with lastCommitFrame := n, lastTakeTag := 0 }

/-- Replace the window table with a plan at boundary `n` (R136, R140). -/
def State.installPlan (s : State) (plan : List WindowRec) (n : Word) : State :=
  let ws := (indexed s.composer.live.windows).map (fallbackWindow plan n)
  s.modComposer (fun co => { co with
    live := { co.live with windows := ws, plans := s.plansNow ws }
    epoch := co.epoch + 1, overruns := 0, fallbackOwed := false, pendingEdits := [] })

/-- The fallback commit at boundary `n` (R140). -/
def State.fallbackCommit (s : State) (n : Word) : State :=
  (s.installPlan (s.composer.fallbackPlan.getD Layout.cleared.windows) n).layoutReplaced

/-! Activation capture (R135, R136). -/

/-- The status writer is to rewrite its five sections of the captured map whole; what it had left to do is covered by that, and
header writes not yet granted are dropped (R25, R47, R95, R135, R161, R185, R189). R185 drops them at a soft reset; that they are
dropped at the boundary that ends an activation too, where they would go into sections of the map before it or into headers that
are rewritten whole, is the model's choice (log 15). -/
def State.rewriteSections (s : State) : State :=
  if s.map.isSome then s.setStatus { StatusWriter.reset with toRewrite := [3, 4, 5, 6, 7] } else s

/-- Every slot record with last refusal reason NONE (R47). -/
def TakeEngine.clearRefusals (t : TakeEngine) : TakeEngine :=
  { t with slots := t.slots.map (fun r => { r with lastRefusal := .none }) }

/-- A change of reference state: TIMING event and TIMING_CHANGE (R124). -/
def State.timingChange (s : State) (old new : RefState) (amount : Nat) (realigned shortened activation : Bool) : State :=
  (s.handEvent (timingEvent old new amount realigned shortened activation)).raise .timingChange

/-- The wall timing unit at the boundary that ends an activation: the captured rate and lead come into force; a rate that
differs returns the reference state to FREERUN (R112, R113, R125). -/
def State.applyRate (s : State) (rate : WallRate) (lead : Nat) : State :=
  let t := { s.timing with lead := lead }
  if rate = t.rate then s.setTiming t
  else
    let t1 := { t with rate := rate, ref := .freerun, goodRun := 0, missingRun := 0, measured := none, intervals := [],
                       runIntervals := [], prediction := none, afterNext := none, holdoverStart := none }
    (s.setTiming t1).andThen fun s1 =>
    if t.ref = .freerun then s1 else s1.timingChange t.ref .freerun 0 false false true

/-- The start layout commit at boundary `n` (R136): with EMPTY every window is hidden, as in the empty layout it finds. -/
def State.startLayout (s : State) (c : Captured) (plan : List WindowRec) (n : Word) : State :=
  (s.installPlan (if c.startFallback then plan else Layout.cleared.windows) n).layoutReplaced

/-- The capture comes into force at boundary `n`, in the order of R135. The wall timing unit takes the rate and the lead, and
hands on its TIMING event, between steps 3 and 4: the place is the model's choice (log 18). The status writer's sections are left
to be rewritten whole (log 15). The ring writer first ends what it has to do for the rings before them: no ring write is abandoned
(R149), and entries handed on before the boundary are written into the old rings and lost with them (R163). -/
def State.captureConfig (s : State) (c : Captured) (plan : List WindowRec) (n : Word) : State :=
  s.ringsDone.andThen fun s =>
  (s.modModes (fun mo => { mo with captured := some c, progress := .none })).andThen fun s =>
  (s.modReport (fun re => { re with
    journal := Ring.initial c.journal, urgent := Ring.initial c.urgent, routine := Ring.initial c.routine,
    journalQueue := [], urgentQueue := [], routineQueue := [], ringJob := none })).andThen fun s =>
  (s.modComposer (fun co => { co with live := { co.live with filters := c.filters } })).andThen fun s =>
  (s.setTakes s.takes.clearRefusals).andThen fun s =>
  (s.applyRate c.rate c.lead).andThen fun s =>
  ((s.applyAllSettings 0 c.settings).setInternalRate c.rate.millihertz).andThen fun s =>
  s.rewriteSections.andThen fun s =>
  (s.modComposer (fun co => { co with fallbackPlan := some plan })).andThen fun s =>
  (s.startLayout c plan n).andThen fun s =>
  ((s.raise .modeReached).moveMode .run .activationDone).startSupervision

/-! The boundary (R114). -/

/-- The nominal period of a wall rate, in 0.1 µs (R112). -/
def WallRate.nominal : WallRate → Nat
  | .r50000 => 200000
  | .r59940 => 166833
  | .r60000 => 166667

/-- The period in force (R112, R121). -/
def Timing.period (t : Timing) : Nat :=
  match t.ref with
  | .freerun => t.rate.nominal
  | .locked | .holdover => t.measured.getD t.rate.nominal

/-- Schedule a boundary, and its plan point one lead before it (R113, R114); an occurred plan point is not repeated. -/
def Timing.schedule (t : Timing) (time : Time) : Timing := { t with nextBoundary := time, nextPlan := time - t.lead * 10 }

/-- The boundary is taken: the counter advances (R114, R115). -/
def Timing.taken (t : Timing) : Timing := { t with frame := t.frame + 1, lastBoundary := t.nextBoundary, planDone := false }

/-- The next boundary is scheduled one period later, or where an early pulse put it (R114, R119). -/
def Timing.next (t : Timing) : Timing :=
  ({ t with afterNext := none }).schedule (t.afterNext.getD (t.lastBoundary + t.period))

/-- What the composer does at boundary `n`, and the end of an activation (R61, R65, R135, R140). -/
def State.composerBoundary (s : State) (n : Word) : State :=
  if s.composer.fallbackOwed then s.fallbackCommit n
  else match s.modes.mode, s.modes.progress with
    | .activating, .passed c plan => s.captureConfig c plan n
    | _, _ =>
      match s.composer.build with
      | none => s
      | some b => if b.status = .ready then s.commitBuild b n else s.overrunBuild b n

/-- The current frame goes to the commit writer, for the slot table header, while a section map is captured (R114, R185). -/
def State.writeFrame (s : State) : State := s.handHeaders [.frame s.timing.frame]

/-- The boundary as all blocks take it (R114): the counter advances, the composer and the mode controller act, the ports begin
their output frames, the current frame is handed to the commit writer, and the next boundary is scheduled. That the current frame
stands behind the markers among the boundary's header writes, which R185 gives as a set, is the model's choice (log 44). -/
def State.boundary (s : State) : State :=
  (s.setTiming s.timing.taken).andThen fun s =>
  (s.composerBoundary s.timing.frame).andThen fun s =>
  (if s.modes.mode = .quiescing then s.quiesceDone else s).andThen fun s =>
  s.beginOutputFrames.writeFrame.andThen fun s =>
  s.setTiming s.timing.next

/-- BOUNDARY (R114): the boundary is taken at its scheduled time. -/
def execBoundary (s : State) : Host.Outcome State Fault Refusal := .next (s.reach s.timing.nextBoundary).boundary

end Sys2Proof.Machine
end

