-- ==== Sys2Proof/Machine/Pixels.lean ====
section
/-! DEFINITION. From an output frame to its pixels: which source pixel, or black, a tile output port sends (R7, R8, R9, R23, R24).
No command reads it; it says what the output frames in State mean. -/

namespace Sys2Proof.Machine

/-- A position in source pixels, as a fraction: a scaled window maps positions, not whole pixels (R8, log 35). -/
structure Position where
  num : Nat
  den : Nat
deriving DecidableEq, Repr

/-- What one pixel of a tile shows: black, or a position in the picture of a source. Of an external source it says which complete
frame, and with it whether the frame is shown as the weave of two fields; `held` marks the repeated last frame of a source in
LOSS_HOLD; of source 41 it gives the tile index drawn in it (R23, R24). -/
inductive PixelOrigin where
  | black
  | picture (source : Nat) (frame : Option SourceFrame) (held : Bool) (tile : Option Nat) (x y : Position)
deriving DecidableEq, Repr

/-- A frame is shown as the weave of its two fields (R24). -/
def SourceFrame.woven (f : SourceFrame) : Bool := decide (f.scan = .interlaced)

/-- Whether a fragment covers tile pixel (px, py): it is opaque over its whole clip rectangle (R24). -/
def Fragment.covers (f : Fragment) (px py : Nat) : Bool :=
  decide (f.clip.x ≤ px ∧ px < f.clip.x + f.clip.w ∧ f.clip.y ≤ py ∧ py < f.clip.y + f.clip.h)

/-- The source a fragment's picture comes from: the slate when the shown source has no picture (R23). -/
def ShownFragment.pictureSource (f : ShownFragment) : Nat :=
  if f.picture = .slate then Config.slate else f.frag.shown

/-- A pixel of a native window: one source pixel for each wall pixel, black padding beyond the region (R7). -/
def ShownFragment.nativePixel (f : ShownFragment) (px py : Nat) : PixelOrigin :=
  let u := px - f.frag.clip.x
  let v := py - f.frag.clip.y
  if u < f.src.w ∧ v < f.src.h then
    .picture f.pictureSource f.frame (decide (f.picture = .held)) f.tile ⟨f.src.x + u, 1⟩ ⟨f.src.y + v, 1⟩
  else .black

/-- A pixel of a scaled window on the tile at `t`: the region stretched over the whole rectangle (R8); black when the region
is empty (R9). -/
def ShownFragment.scaledPixel (f : ShownFragment) (t : Rect) (px py : Nat) : PixelOrigin :=
  if f.region.w = 0 ∨ f.region.h = 0 then .black
  else
    .picture f.pictureSource f.frame (decide (f.picture = .held)) f.tile
      ⟨f.region.x * f.rect.w + (px + t.x - f.rect.x) * f.region.w, f.rect.w⟩
      ⟨f.region.y * f.rect.h + (py + t.y - f.rect.y) * f.region.h, f.rect.h⟩

/-- Pixel (px, py) of the output frame of a port that feeds the tile at `t`: the topmost fragment that covers it, else black
(R24). -/
def TilePort.pixel (p : TilePort) (t : Rect) (px py : Nat) : PixelOrigin :=
  match p.output.find? (fun f => f.frag.covers px py) with
  | none => .black
  | some f => if f.native then f.nativePixel px py else f.scaledPixel t px py

end Sys2Proof.Machine
end

