-- ==== Sys2Proof/Machine/Resets.lean ====
section
/-! DEFINITION. The three resets, the end of the power-on clear, and the link's own events (R25, R46, R47, R73, R74, R127, R146,
R147, R164, R165, R175, R183, R188, R189). -/

namespace Sys2Proof.Machine

/-! Power-on reset (R127, R189). -/

/-- The part after power-on reset. The model's own records go on: the queue of commands, the index of the free values, the
count of messages sent, and the number of activation attempts (log 9, log 19, log 21). -/
def State.powerOn (s : State) : State :=
  ((State.reset.setPending s.pending).setFreeIdx s.freeIdx).andThen fun r =>
  (r.modPort (fun pt => { pt with msiSent := s.port.msiSent })).andThen fun r =>
  r.modModes (fun mo => { mo with attempt := s.modes.attempt })

/-- POWER_ON_RESET: every block takes its power-on values and the clear of the Exchange RAM begins (R127, R183, R189). -/
def execPowerOnReset (s : State) : Host.Outcome State Fault Refusal := .next s.powerOn

/-- RAM_CLEAR_COMPLETE: every byte is 0, the mode becomes CONFIG and READY becomes 1, with no MODE event and no cause
(R127, R183). Outside STARTING no clear is running (log 4). -/
def execRamClearComplete (s : State) : Host.Outcome State Fault Refusal :=
  if s.modes.mode = .starting then .next (((s.setRam []).setLastServed .controller).setMode .config) else .next s

/-! Soft reset (R146). -/

/-- The mode controller at a soft reset: CONFIG with no event; the captured configuration and the attempt number stay (R146). -/
def ModeCtl.softReset (m : ModeCtl) : ModeCtl :=
  { m with mode := .config, progress := .none, reading := false, supervision := none, failCode := .none, failIndex := 0,
           permit := false,
           intEnable := false }

/-- The composer at a soft reset (R25, R74, R146). -/
def Composer.softReset (c : Composer) : Composer := { Composer.reset with editSerial := c.editSerial }

/-- The reporting unit at a soft reset: the rings are emptied, entries not yet written are dropped (R164); flags and enables
are 0 (R175). -/
def Report.softReset (r : Report) (mapped : Bool) : Report :=
  { journal := r.journal.emptied mapped, urgent := r.urgent.emptied mapped, routine := r.routine.emptied mapped,
    journalQueue := [], urgentQueue := [], routineQueue := [], ringJob := none, causes := 0, enables := 0, condition := false }

/-- A soft reset outside STARTING (R146, R189). No byte of the Exchange RAM changes here: the ring writer and then the status
writer rewrite the controller-owned sections (R189). -/
def State.softReset (s : State) : State :=
  (s.setModes s.modes.softReset).andThen fun s1 =>
  (s1.modPort (fun pt => { pt with holdArea := none, line := false })).andThen fun s2 =>
  ((s2.setTakes TakeEngine.reset).setComposer s2.composer.softReset).andThen fun s3 =>
  (s3.setReport (s3.report.softReset s3.map.isSome)).andThen fun s4 =>
  (s4.setPorts (s4.ports.map (fun _ => TilePort.black))).rewriteSections

/-! Link reset (R188). -/

/-- The exchange port at a link reset: waiting accesses are dropped, and with them the blocks of an access not yet served; the
function's configuration returns to its reset state, and the link is down until it returns; a marked area stays marked (R188). -/
def ExchangePort.linkReset (p : ExchangePort) : ExchangePort :=
  { p with linkUp := false, pcie := pcieReset, waiting := [], partRead := [], partLost := false }

/-- A link reset (R46, R73, R147, R165, R175, R188): the port acts first, so that no message can follow; a POST being handled
completes; then the causes and the enables are cleared; then every busy take finishes ABANDONED in ascending slot order, and a
build restarts without takes. -/
def State.linkReset (s : State) : State :=
  (s.setPort s.port.linkReset).andThen fun s1 =>
  (s1.completePosts (2 * (s1.takes.toHandle.length + 1))).andThen fun s2 =>
  ((s2.modModes (fun mo => { mo with permit := false, intEnable := false })).clearInterrupt).andThen fun s3 =>
  (s3.abandonTakes s3.busySlots).restartBuild

/-- LINK_RESET: a hot reset, the loss of the link and the assertion of PERST# act alike (R188). -/
def execLinkReset (_cause : LinkResetCause) (s : State) : Host.Outcome State Fault Refusal := .next s.linkReset

/-! The function's PCIe configuration and the return of the link (R172, R188). -/

/-- The exchange port with new switches. No message is sent by the change; the legacy line follows the condition as the new
switches allow (R172, log 25). -/
def State.setSwitches (s : State) (p : PcieSwitches) : State :=
  s.modPort (fun pt => { pt with pcie := p, line := s.report.condition && !p.msi && !p.legacyDisable })

/-- PCIE_CONFIG_CHANGE: the host sets the four switches (R188). It can do so only while the link is up (log 37). -/
def execPcieConfigChange (switches : PcieSwitches) (s : State) : Host.Outcome State Fault Refusal :=
  if s.port.linkUp then .next (s.setSwitches switches) else .next s

/-- LINK_RETURN: the link is up again; a message that fell due meanwhile is not kept (R172, R188). -/
def execLinkReturn (s : State) : Host.Outcome State Fault Refusal := .next (s.modPort (fun pt => { pt with linkUp := true }))

end Sys2Proof.Machine
end

