-- ==== Sys2Proof/Machine/StatusWriter.lean ====
section
/-! DEFINITION. The status writer and the commit writer: the mirrors, the slot table and the source status section, written block
by block (R22, R27, R47, R93, R95, R114, R135, R161, R184, R185, R189, R190). -/

namespace Sys2Proof.Machine

/-! The commit writer (R185). -/

/-- The section numbered `n` of the captured map, an empty area when there is none. -/
def State.sectionArea (s : State) (n : Nat) : Section :=
  match s.map with
  | none => ⟨0, 0⟩
  | some m => sectionOf m n

/-- The block of a header write of a boundary (R185): the current frame in the slot table header (R27, R193), or a mirror's
writing marker set (R22). -/
def State.headerBlock (s : State) : HeaderWrite → Nat × List Byte
  | .frame n => ((s.sectionArea 3).start, bytesWord n)
  | .marker m => (s.markerPlace m, bytesBool true)

/-- One grant to the commit writer: its first header write; during the power-on clear the RAM is not read, and nothing shows
(R183, R185). -/
def State.commitGrant (s : State) : State :=
  match s.status.headerWrites with
  | [] => s.setLastServed .controller
  | w :: l => (s.putBlock (s.headerBlock w).1 (s.headerBlock w).2).modStatus (fun st => { st with headerWrites := l })

/-- The commit writer has made all the header writes handed to it. They stand before the take reader and the status writer at the
arbiter (R184, R185; log 44). -/
def State.commitDone (s : State) : State :=
  (s.ctlWrites (s.status.headerWrites.map s.headerBlock)).modStatus (fun st => { st with headerWrites := [] })

/-! The status writer's work, block by block. -/

/-- The records of section `n`, one of the status writer's five, as the state stands, after the section's header (R27, R93, R95,
R190). -/
def State.sectionRecords (s : State) : Nat → List Byte
  | 3 => s.takes.slots.flatMap slotRecordBytes
  | 4 => mirrorRecords s.composer.live s.geometry.tiles .windowTable
  | 5 => mirrorRecords s.composer.live s.geometry.tiles .tilePlans
  | 6 => s.sources.flatMap (fun r => sourceRecordBytes false r 0 s.now)
  | _ => mirrorRecords s.composer.live s.geometry.tiles .filterList

/-- The header of section `n`, one of the status writer's five, at the end of its rewrite: markers clear and all counts 0 (R22,
R27, R95). -/
def State.sectionHeader (s : State) : Nat → List Byte
  | 3 => slotHeaderBytes s.timing.frame s.takes.nextSeq
  | 6 => sourceHeaderBytes 0
  | _ => mirrorHeaderBytes s.composer.epoch false

/-- Bytes and zeros up to `n` bytes in all (R179, R190). -/
def padded (bs : List Byte) (n : Nat) : List Byte := bs ++ List.replicate (n - bs.length) 0

/-- The blocks of a work before the write that ends it. A mirror's marker is set first (R22, R93); a whole section is written
with its surplus zero (R179). -/
def State.statusBlocks (s : State) : StatusJob → Blocks
  | .wholeSection n =>
    let c := s.sectionArea n
    (if n = 3 ∨ n = 6 then [] else [(c.start + 4, bytesBool true)]) ++
      blocksOf (c.start + 64) (padded (s.sectionRecords n) (c.size - 64))
  | .mirror m =>
    (s.markerPlace m, bytesBool true) ::
      blocksOf ((s.mirrorArea m).start + 64) (mirrorRecords s.composer.live s.geometry.tiles m)
  | .source i => match s.map with
    | none => []
    | some m => [(sourceRecordAddress m i, bytesBool true),
        (sourceRecordAddress m i, sourceRecordBytes true (s.source i) (s.status.updateCounts.getD i 0) s.now)]

/-- How many blocks of a work stand already. -/
def StatusWriter.written (w : StatusWriter) (j : StatusJob) : Nat :=
  match w.job with
  | some (k, n) => if k = j then n else 0
  | none => 0

/-- The blocks still to be written of a work, with what each holds now: a record shows its timer as it stands when it is written
(R93). Of what else a block shows nothing has changed since the work began: a change sets the work aside (R22, R93; log 15). -/
def State.statusLeft (s : State) (j : StatusJob) : Blocks := (s.statusBlocks j).drop (s.status.written j)

/-- Every block of a work stands; it is no longer in hand. -/
def State.doStatusJob (s : State) (j : StatusJob) : State :=
  (s.ctlWrites (s.statusLeft j)).modStatus (fun st => st.setAside (fun k => decide (k = j)))

/-! The writes that end a work. -/

/-- Section `n` has been written whole: nothing of it is left to rewrite. -/
def StatusWriter.sectionDone (w : StatusWriter) (n : Nat) : StatusWriter :=
  let left := { w with toRewrite := w.toRewrite.filter (fun k => k != n) }
  match n with
  | 3 => { left with slotDirty := 0, slotHeaderDirty := false }
  | 4 => { left with windowsPending := false }
  | 5 => { left with plansPending := false }
  | 6 => { left with sourceDirty := 0, updateCounts := List.replicate Config.allSources 0, changeCount := 0 }
  | _ => { left with filtersPending := false }

/-- The status writer ends the rewrite of section `n` with its header (R22, R135, R179, R189). -/
def State.writeSection (s : State) (n : Nat) : State :=
  (s.doStatusJob (.wholeSection n)).andThen fun s1 =>
  (s1.ctlWrite (s1.sectionArea n).start (s1.sectionHeader n)).modStatus (fun st => st.sectionDone n)

/-- Whether a rewrite of a mirror is in progress. -/
def StatusWriter.rewriting (w : StatusWriter) : Mirror → Bool
  | .windowTable => w.windowsPending
  | .tilePlans => w.plansPending
  | .filterList => w.filtersPending

/-- A mirror's rewrite is done. -/
def StatusWriter.rewritten (w : StatusWriter) : Mirror → StatusWriter
  | .windowTable => { w with windowsPending := false }
  | .tilePlans => { w with plansPending := false }
  | .filterList => { w with filtersPending := false }

/-- A mirror's records stand for the newest live layout, and the header write gives the new plan epoch and clears the marker (R21,
R22, R161). -/
def State.completeMirror (s : State) (mirror : Mirror) : State :=
  (s.doStatusJob (.mirror mirror)).andThen fun s1 =>
  (s1.ctlWrite (s1.mirrorArea mirror).start (mirrorHeaderBytes s1.composer.epoch false)).modStatus
    (fun st => st.rewritten mirror)

/-- The record of source `i` is written with its update count raised and its marker clear, and the section's change count rises
(R93, steps 3 and 4). -/
def State.publishSource (s : State) (m : SectionMap) (i : Nat) : State :=
  let update := s.status.updateCounts.getD i 0 + 1
  let change := s.status.changeCount + 1
  (s.doStatusJob (.source i)).andThen fun s1 =>
  (s1.ctlWrite (sourceRecordAddress m i) (sourceRecordBytes false (s.source i) update s.now)).andThen fun s2 =>
  (s2.ctlWrite (sectionOf m 6).start (bytesWord change)).modStatus (fun st => { st with
    sourceDirty := st.sourceDirty &&& ~~~(1#44 <<< i), updateCounts := st.updateCounts.set i update,
    changeCount := change })

/-- A part of the slot table waits to be copied (R27). -/
def StatusWriter.slotWork (w : StatusWriter) : SlotTablePart → Bool
  | .header => w.slotHeaderDirty
  | .record i => w.slotDirty.getLsbD i.val

/-- A part of the slot table is copied: of the header the next post sequence, or a slot record (R27). The current frame is the
commit writer's (R185). -/
def State.copySlotPart (s : State) (m : SectionMap) : SlotTablePart → State
  | .header =>
    (s.ctlWrite ((sectionOf m 3).start + 4) (bytesHalf s.takes.nextSeq)).modStatus
      (fun st => { st with slotHeaderDirty := false })
  | .record i =>
    (s.ctlWrite ((sectionOf m 3).start + 64 + 16 * i.val) (slotRecordBytes (s.slot i.val))).modStatus
      (fun st => { st with slotDirty := st.slotDirty &&& ~~~(1#16 <<< i.val) })

/-! Grants. -/

/-- The status writer has something to write. -/
def StatusWriter.hasWork (w : StatusWriter) : Bool :=
  !w.toRewrite.isEmpty || w.windowsPending || w.plansPending || w.filtersPending || w.slotHeaderDirty ||
    w.slotDirty != 0 || w.sourceDirty != 0

/-- The source record the status writer publishes next: the one in hand, else that of the lowest index that waits (R93). -/
def StatusWriter.nextSource (w : StatusWriter) : Option Nat :=
  match w.job with
  | some (.source i, _) => some i
  | _ => (List.range Config.allSources).find? (fun i => w.sourceDirty.getLsbD i)

/-- The work of several grants that the status writer begins next: a whole section, a mirror, or, with no part of the slot table
to copy, the source record of the lowest index. The order among these is the model's choice (log 44); that of the source records
is R93's. -/
def StatusWriter.next (w : StatusWriter) : Option StatusJob :=
  match w.toRewrite with
  | n :: _ => some (.wholeSection n)
  | [] =>
    if w.windowsPending then some (.mirror .windowTable)
    else if w.plansPending then some (.mirror .tilePlans)
    else if w.filtersPending then some (.mirror .filterList)
    else if w.slotHeaderDirty || w.slotDirty != 0 then none
    else w.nextSource.map .source

/-- The work the status writer goes on with: that in hand, else the next one. -/
def StatusWriter.workNext (w : StatusWriter) : Option StatusJob := (w.job.map (·.1)).or w.next

/-- One grant to the status writer for which no command stands: the next block of the work in hand, or the first of the next work.
The write that ends a work comes with its command (R184; log 44). -/
def State.statusGrant (s : State) : State :=
  match s.status.workNext with
  | none => s.setLastServed .controller
  | some j =>
    match s.statusLeft j with
    | [] => s.setLastServed .controller
    | b :: _ => (s.putBlock b.1 b.2).modStatus (fun st => { st with job := some (j, st.written j + 1) })

end Sys2Proof.Machine
end

