-- ==== Sys2Proof/Machine/WallTiming.lean ====
section
/-! DEFINITION. The wall timing unit's reference: arrivals, missing pulses, holdover, realignment (R117 to R124). -/

namespace Sys2Proof.Machine

/-! Intervals and periods (R117, R118). -/

/-- An interval within ±0.5 % of the nominal period of the rate in force (R117). -/
def goodInterval (rate : WallRate) (iv : Nat) : Bool :=
  decide (200 * (max iv rate.nominal - min iv rate.nominal) ≤ rate.nominal)

/-- The mean of a list of intervals, to the nearest 0.1 µs with a half rounded up (R118). -/
def meanInterval (l : List Nat) : Nat := (2 * l.sum + l.length) / (2 * l.length)

/-- Distance of two times. -/
def distance (a b : Time) : Nat := max a b - min a b

/-- A length in whole µs, a half rounded up (R124). -/
def wholeMicros (t : Time) : Nat := (t + 5) / 10

/-- Whether a time lies in the window around a prediction, 0.5 % of the period to either side (R119). -/
def inWindow (period : Nat) (prediction t : Time) : Bool := decide (200 * distance t prediction ≤ period)

/-- Move the boundary next scheduled; its plan point moves with it while it has not occurred (R113, R119, R122). -/
def Timing.moveNext (t : Timing) (time : Time) : Timing :=
  if t.planDone then { t with nextBoundary := time } else t.schedule time

/-! The good run in FREERUN and HOLDOVER (R118, R121). -/

/-- The good run after an arrival with interval `iv` (R118). -/
def Timing.countRun (t : Timing) (iv : Option Nat) : Timing :=
  match iv with
  | some d =>
    if goodInterval t.rate d then { t with goodRun := t.goodRun + 1, runIntervals := t.runIntervals ++ [d] }
    else { t with goodRun := 0, runIntervals := [] }
  | none => { t with goodRun := 0, runIntervals := [] }

/-- The move to LOCKED at arrival `r`, after eight good intervals (R118, R121). R118 sets the good run and the missing run to 0 at
the move from FREERUN, and R119 the missing run at a good arrival; of the move from HOLDOVER R121 names only the measured period,
the list and the timer: that the good run is 0 after it, and the missing run too where it makes a realignment, is the model's
choice (log 49). -/
def Timing.lock (t : Timing) (r : Time) : Timing :=
  { t with ref := .locked, goodRun := 0, missingRun := 0, measured := some (meanInterval t.runIntervals),
           intervals := t.runIntervals, runIntervals := [], holdoverStart := none, prevExpected := some r,
           afterNext := none }

/-- The correction of the schedule by a good arrival `r` in LOCKED, with measured period `p` (R119). -/
def Timing.correct (t : Timing) (r : Time) (p : Nat) : Timing :=
  if distance r t.lastBoundary ≤ distance r t.nextBoundary then { t.moveNext (r + p) with prediction := some (r + p) }
  else { t with afterNext := some (r + p), prediction := some (r + p) }

/-! Realignment (R122, R123). -/

/-- A realignment at `r`, the arrival that moves the state from `old` to LOCKED with measured period `p`. A pulse less than
half a period after the last boundary lengthens the frame; else the boundary next scheduled is taken at once, after its plan
point where that has not occurred (R122, R123). The TIMING event follows (R124). -/
def State.realign (s : State) (old : RefState) (r : Time) (p : Nat) : State :=
  let t := s.timing
  let e := r - t.lastBoundary
  if 2 * e < p then
    (s.setTiming { t.moveNext (r + p) with prediction := some (r + p) }).timingChange old .locked (wholeMicros e)
      true false false
  else
    (s.setTiming { t with nextBoundary := r, prediction := some (r + p) }).andThen fun s1 =>
    (if t.planDone then s1 else s1.planPoint).andThen fun s2 =>
    s2.boundary.timingChange old .locked (wholeMicros (t.nextBoundary - r)) true true false

/-- The eighth good interval in FREERUN (R118) or HOLDOVER (R121) at arrival `r`. -/
def State.lockReference (s : State) (r : Time) : State :=
  let old := s.timing.ref
  let t := s.timing.lock r
  let p := meanInterval s.timing.runIntervals
  (s.setTiming t).andThen fun s1 =>
  if old = .holdover ∧ 200 * min (distance r t.lastBoundary) (distance r t.nextBoundary) ≤ p then
    (s1.setTiming (t.correct r p)).timingChange old .locked 0 false false false
  else s1.realign old r p

/-! Arrivals (R117 to R121). -/

/-- The interval list with a new interval, the eight latest kept (R119). -/
def pushInterval (l : List Nat) (d : Nat) : List Nat := (l ++ [d]).drop (l.length + 1 - 8)

/-- A good arrival `r` in LOCKED (R119). The boundary and the prediction use the measured period as it is after the interval of
`r` has joined the list: the order is the model's choice (log 46). -/
def Timing.goodArrival (t : Timing) (r : Time) : Timing :=
  let joins := match t.prevExpected with
    | none => none
    | some q => if t.missingRun = 0 ∧ goodInterval t.rate (r - q) = true then some (r - q) else none
  let t1 := match joins with
    | none => t
    | some d => { t with intervals := pushInterval t.intervals d, measured := some (meanInterval (pushInterval t.intervals d)) }
  { t1 with missingRun := 0, prevExpected := some r }.correct r (t1.measured.getD t1.rate.nominal)

/-- REFERENCE_ARRIVAL: a pulse on REFIN at time `time` (R117). -/
def execReferenceArrival (time : Time) (s : State) : Host.Outcome State Fault Refusal :=
  (s.reach time).andThen fun s =>
  let iv := s.timing.prevArrival.map (fun q => time - q)
  let t := { s.timing with prevArrival := some time }
  match t.ref with
  | .locked =>
    match t.prediction with
    | none => .next (s.setTiming t)
    | some q =>
      if inWindow (t.measured.getD t.rate.nominal) q time then .next (s.setTiming (t.goodArrival time))
      else .next (s.setTiming t)
  | .freerun | .holdover =>
    (s.setTiming (t.countRun iv)).andThen fun s1 =>
    if 8 ≤ s1.timing.goodRun then .next (s1.lockReference time) else .next s1

/-! Missing pulses and holdover (R120, R121). -/

/-- MISSING_PULSE: a window in LOCKED closes without an expected arrival (R120). In another state, or with no prediction, no
window closes (log 4). -/
def execMissingPulse (s : State) : Host.Outcome State Fault Refusal :=
  match s.timing.ref, s.timing.prediction with
  | .locked, some q =>
    let p := s.timing.measured.getD s.timing.rate.nominal
    (s.reach (q + p / 200)).andThen fun s =>
    if 2 ≤ s.timing.missingRun + 1 then
      .next ((s.modTiming (fun ti => { ti with
          missingRun := 2, ref := .holdover, prediction := none, goodRun := 0, runIntervals := [],
          holdoverStart := some s.now })).timingChange .locked .holdover 0 false false false)
    else .next (s.modTiming (fun ti => { ti with missingRun := ti.missingRun + 1, prediction := some (q + p) }))
  | _, _ => .next s

/-- HOLDOVER_EXPIRY: the holdover timer reaches 10,000 ms (R121). With the timer stopped there is no expiry (log 4). -/
def execHoldoverExpiry (s : State) : Host.Outcome State Fault Refusal :=
  match s.timing.ref, s.timing.holdoverStart with
  | .holdover, some start =>
    (s.reach (start + 10 * oneSecond)).andThen fun s =>
    .next ((s.modTiming (fun ti => { ti with
        ref := .freerun, goodRun := 0, missingRun := 0, measured := none, intervals := [], runIntervals := [],
        prediction := none, prevExpected := none, holdoverStart := none })).timingChange
      .holdover .freerun 0 false false false)
  | _, _ => .next s

end Sys2Proof.Machine
end

