-- ==== Sys2Proof/Machine/Port.lean ====
section
/-! DEFINITION. The exchange port: which accesses it claims, the order it takes them in, the register block's commands, and the
events that let waiting accesses go on (R37, R38, R44, R129, R151, R170 to R177, R181 to R186). -/

namespace Sys2Proof.Machine

/-! The arbiter (R184). -/

/-- A controller master asks for a grant (R184; whether the exchange port asks is told to `grant`): the ring writer and the status
writer while they have work in the sections of a captured map, the commit writer during the power-on clear and while it has
header writes to make, the take reader while it has reads in hand. -/
def State.masterWaits (s : State) : Master → Bool
  | .exchangePort => false
  | .ringWriter => s.map.isSome && (s.report.ringWork .journal || s.report.ringWork .urgent || s.report.ringWork .routine)
  | .commitWriter => decide (s.modes.mode = .starting) || !s.status.headerWrites.isEmpty
  | .takeReader => s.checksInHand || s.buildReading || s.modes.reading
  | .statusWriter => s.map.isSome && s.status.hasWork

/-- The controller master that stands first of those that ask (R184). -/
def State.controllerMaster (s : State) : Option Master :=
  [Master.ringWriter, .commitWriter, .takeReader, .statusWriter].find? s.masterWaits

/-- The master that receives the next grant; `portAsks` tells whether the exchange port asks. With both sides asking it goes to
the side not served last (R184). -/
def State.grant (s : State) (portAsks : Bool) : Option Master :=
  match portAsks, s.controllerMaster with
  | false, m => m
  | true, none => some .exchangePort
  | true, some m => if s.lastServed = .exchangePort then some m else some .exchangePort

/-- The take reader is granted: no ring write waits. What the commit writer has to write stands before it, and comes with the
grant (R184, R185; log 44). -/
def State.readerGranted (s : State) : Bool := !s.masterWaits .ringWriter

/-- The status writer is granted: neither a ring write nor a read of the take reader waits (R184). -/
def State.writerGranted (s : State) : Bool := s.readerGranted && !s.masterWaits .takeReader

/-- A grant for which no command stands (R184; log 44). -/
def State.grantTo (s : State) : Master → State
  | .exchangePort => s
  | .ringWriter => s.ringGrant
  | .commitWriter => s.commitGrant
  | .takeReader => s.readerGrant
  | .statusWriter => s.statusGrant

/-! How the head of the queue is served (R184). -/

/-- How the head of the port's queue is served: whole; not before the controller side has had a grant; or what it has done by its
next grant by itself, the rest asking for the grants that follow (R184). -/
inductive Serving where
  | whole
  | waits
  | part (first rest : Instr)
deriving DecidableEq, Repr

/-- How access `i` is served when it need not wait for another reason. A register access asks for no grant, nor does a write that
lies in the controller-owned sections (R182), and in STARTING the arbiter does not serve the port (R183). While no controller
master asks, every grant is the port's; else the two sides alternate, one block at a time (R184). -/
def State.serving (s : State) (i : Instr) : Serving :=
  if !s.asksGrant i || decide (s.modes.mode = .starting) || decide (s.controllerMaster = none) then .whole
  else if decide (s.grant true ≠ some .exchangePort) then .waits
  else match s.firstGrant i with
    | some (first, rest) => .part first rest
    | none => .whole

/-! Writes to SLOTREQ and RELEASE (R37, R144, R151). -/

/-- A POST is taken: it serves supervision, and the take engine handles the named slots as far as the take reader lets it
(R37, R38, R39). -/
def State.takePost (s : State) (mask : BitVec 16) : State := s.serve.handlePosts (maskSlots mask)

/-- A CANCEL is taken (R37, R44). -/
def State.takeCancel (s : State) (mask : BitVec 16) : State := s.serve.cancelSlots (maskSlots mask)

/-- A release of `n` entries of a ring (R151). -/
def State.releaseRing (s : State) (i : RingId) (n : Nat) : State :=
  if n = 0 then s
  else
    (s.setReport (s.report.setRing i ((s.report.ring i).released n))).raiseIf
      (decide ((s.report.ring i).fill < n)) .releaseError

/-- A RELEASE is taken; whatever it holds, it serves supervision (R144, R151). -/
def State.takeRelease (s : State) (selector : BitVec 2) (count : BitVec 11) : State :=
  match ringOfSelector selector.toNat with
  | some i => s.serve.releaseRing i count.toNat
  | none => s.serve.raise .releaseError

/-! CAUSE, CAUSEEN, NEXTCAUSE (R170, R171, R173, R174). -/

/-- A CAUSE write clears the flags whose positions hold 1 (R170). -/
def State.takeCauseWrite (s : State) (v : Word) : State := s.setCauses (s.report.causes &&& ~~~(v.setWidth 14))

/-- A CAUSEEN write stores the enables, and the condition is evaluated (R171). -/
def State.takeCauseenWrite (s : State) (v : Word) : State :=
  (s.modReport (fun re => { re with enables := v.setWidth 14 })).evaluate

/-- The flag NEXTCAUSE returns is cleared (R173). -/
def State.popCause (s : State) : State :=
  if s.nextCode = 0 then s else s.setCauses (s.report.causes &&& ~~~(1#14 <<< (s.nextCode - 1)))

/-- A read of BAR2 touches NEXTCAUSE (R186). -/
def touchesNextcause (offset length : Nat) : Bool := decide (offset < 0x20 ∧ 0x1C < offset + length)

/-- A register read is taken: the addressed bytes are returned, and one flag is popped when NEXTCAUSE is among them
(R173, R186; log 33). -/
def State.takeRegisterRead (s : State) (offset length : Nat) : State :=
  (s.complete (s.bar2Bytes offset length)).andThen fun s1 =>
  if touchesNextcause offset length then s1.popCause else s1

/-- A register write that the port discards sets WRITE_VIOLATION once (R186). A write of another shape is not one of these
(log 4). -/
def State.takeDiscardedWrite (s : State) (offset length : Nat) : State :=
  s.raiseIf (discardedShape offset length) .writeViolation

/-! MODECTL (R127, R129, R130). -/

/-- A MODECTL write with SOFT_RESET 1; in STARTING it only stores the two fields (R127, R129). -/
def State.takeSoftReset (s : State) (w : PermitWrite) : State :=
  if s.modes.mode = .starting then s.modectl false w.permit w.intEnable else s.softReset

/-- What every MODECTL write that makes a request does before it (R129). -/
def State.beforeRequest (s : State) (w : RequestWrite) : State := s.modectl w.serve w.permit w.intEnable

/-- A REQUEST that names no request is refused; in STARTING it is not acted on (R127, R129). -/
def State.invalidRequest (s : State) : State := if s.modes.mode = .starting then s else s.failRequest

/-! Taking an access. -/

/-- The driver access a command stands for is taken by its block. A command that is no driver access changes nothing here: no
such command is ever in the port's queue. -/
def takeAccess (i : Instr) (s : State) : State :=
  match i with
  | .bar0Write offset data => s.takeBar0Write offset data
  | .bar0Read offset length => s.takeBar0Read offset length
  | .softReset w => s.takeSoftReset w
  | .requestRun w => (s.beforeRequest w).runRequest
  | .requestHold w => (s.beforeRequest w).holdRequest
  | .requestFallback w => (s.beforeRequest w).fallbackRequest
  | .requestQuiesce w => (s.beforeRequest w).quiesceRequest
  | .requestConfig w => (s.beforeRequest w).configRequest
  | .requestInvalid _ w => (s.beforeRequest w).invalidRequest
  | .serve w => s.modectl true w.permit w.intEnable
  | .overridePermit w => s.modectl false w.permit w.intEnable
  | .intEnable w => s.modectl false w.permit w.intEnable
  | .post mask => s.takePost mask
  | .cancel mask => s.takeCancel mask
  | .slotreqNoAction _ _ => s.serve
  | .release selector count => s.takeRelease selector count
  | .causeWrite v => s.takeCauseWrite v
  | .causeenWrite v => s.takeCauseenWrite v
  | .nextcauseRead offset length => s.takeRegisterRead offset length
  | .nextcauseWrite _ => s.setCauses 0
  | .registerWriteDiscarded offset length => s.takeDiscardedWrite offset length
  | .powerOnReset | .ramClearComplete | .linkReset _ | .pcieConfigChange _ | .fallbackRecordReadDone
  | .postChecksComplete | .activationChecksComplete _ | .planPoint | .buildTakeCheck | .buildComplete _ _ | .boundary
  | .mirrorRewriteDone _ | .sourceRecordPublished _ | .ringEntryWrite _ | .activityArrival _ | .activityLoss _
  | .frameArrival _ _ | .frameTimeout _ | .lossHoldExpiry _ | .referenceArrival _ | .missingPulse | .holdoverExpiry
  | .supervisionExpiry | .linkReturn | .slotTableWritten _ | .ringHeaderRewrite _ => s

/-- The port takes the accesses of its queue in order, as far as the first that has to wait or is to wait for a grant; an access
of which one block is served leaves the rest at the head. While one is being taken, none behind it asks for a grant (R177, R184).
-/
def drain : List Instr → State → State
  | [], s => s.setWaiting []
  | i :: r, s =>
    if s.blocked i then s.setWaiting (i :: r)
    else match s.serving i with
      | .whole => drain r (takeAccess i (s.setWaiting []))
      | .waits => s.setWaiting (i :: r)
      | .part first rest => (servePart first s).setWaiting (rest :: r)

/-- The port claims the host's accesses: the link is up and memory decoding is on (R176). -/
def State.claims (s : State) : Bool := s.port.linkUp && s.port.pcie.memoryDecode

/-- A driver access arrives: it joins the queue, and the port goes on with that (R177). -/
def State.arrive (s : State) (i : Instr) : State :=
  if s.claims then drain (s.port.waiting ++ [i]) s else s

/-- The port goes on with its queue after a grant to a controller master, or after an event that has released its head (R177,
R181, R184). -/
def State.resume (s : State) : State := drain s.port.waiting s

/-- The block idles for one unit of the model's clock, 0.1 µs (log 1). One grant goes to the controller side, where it is its turn
and no command stands for it, and the port goes on with its queue (R184; log 44). -/
def State.tick (s : State) : State :=
  match s.grant s.portAsks with
  | some m => ((s.setNow (s.now + 1)).grantTo m).resume
  | none => (s.setNow (s.now + 1)).resume

/-! Commands that are driver accesses. -/

/-- BAR0_WRITE (R182). An access outside the 262,144 bytes names no byte (R176, log 30). -/
def execBar0Write (offset : Nat) (data : List Byte) (s : State) : Host.Outcome State Fault Refusal :=
  if bar0Range offset data.length then .next (s.arrive (.bar0Write offset data)) else .fault .outsideBar0

/-- BAR0_READ (R176, R182). An access outside the 262,144 bytes names no byte (log 30). -/
def execBar0Read (offset length : Nat) (s : State) : Host.Outcome State Fault Refusal :=
  if bar0Range offset length then .next (s.arrive (.bar0Read offset length)) else .fault .outsideBar0

/-- SOFT_RESET (R129, R146). -/
def execSoftReset (w : PermitWrite) (s : State) : Host.Outcome State Fault Refusal := .next (s.arrive (.softReset w))

/-- REQUEST_RUN (R130). -/
def execRequestRun (w : RequestWrite) (s : State) : Host.Outcome State Fault Refusal := .next (s.arrive (.requestRun w))

/-- REQUEST_HOLD (R130, R138). -/
def execRequestHold (w : RequestWrite) (s : State) : Host.Outcome State Fault Refusal := .next (s.arrive (.requestHold w))

/-- REQUEST_FALLBACK (R130, R139). -/
def execRequestFallback (w : RequestWrite) (s : State) : Host.Outcome State Fault Refusal :=
  .next (s.arrive (.requestFallback w))

/-- REQUEST_QUIESCE (R130, R142). -/
def execRequestQuiesce (w : RequestWrite) (s : State) : Host.Outcome State Fault Refusal :=
  .next (s.arrive (.requestQuiesce w))

/-- REQUEST_CONFIG (R130, R137, R143). -/
def execRequestConfig (w : RequestWrite) (s : State) : Host.Outcome State Fault Refusal :=
  .next (s.arrive (.requestConfig w))

/-- REQUEST_INVALID: a REQUEST of 6 or 7 (R129, R190). -/
def execRequestInvalid (value : BitVec 3) (w : RequestWrite) (s : State) : Host.Outcome State Fault Refusal :=
  .next (s.arrive (.requestInvalid value w))

/-- SERVE: a MODECTL write with SERVE 1 and REQUEST NONE (R129, R144). -/
def execServe (w : PermitWrite) (s : State) : Host.Outcome State Fault Refusal := .next (s.arrive (.serve w))

/-- OVERRIDE_PERMIT: a MODECTL write that only stores its two fields, named by the permit (R129; log 5). -/
def execOverridePermit (w : PermitWrite) (s : State) : Host.Outcome State Fault Refusal :=
  .next (s.arrive (.overridePermit w))

/-- INT_ENABLE: a MODECTL write that only stores its two fields, named by the master enable (R129, R171; log 5). -/
def execIntEnable (w : PermitWrite) (s : State) : Host.Outcome State Fault Refusal := .next (s.arrive (.intEnable w))

/-- POST (R37 to R39). -/
def execPost (mask : BitVec 16) (s : State) : Host.Outcome State Fault Refusal := .next (s.arrive (.post mask))

/-- CANCEL (R44). -/
def execCancel (mask : BitVec 16) (s : State) : Host.Outcome State Fault Refusal := .next (s.arrive (.cancel mask))

/-- SLOTREQ_NO_ACTION: a SLOTREQ write whose action is neither POST nor CANCEL (R37). -/
def execSlotreqNoAction (action : BitVec 2) (mask : BitVec 16) (s : State) : Host.Outcome State Fault Refusal :=
  .next (s.arrive (.slotreqNoAction action mask))

/-- RELEASE (R151). -/
def execRelease (selector : BitVec 2) (count : BitVec 11) (s : State) : Host.Outcome State Fault Refusal :=
  .next (s.arrive (.release selector count))

/-- CAUSE_WRITE (R170). -/
def execCauseWrite (value : Word) (s : State) : Host.Outcome State Fault Refusal := .next (s.arrive (.causeWrite value))

/-- CAUSEEN_WRITE (R171). -/
def execCauseenWrite (value : Word) (s : State) : Host.Outcome State Fault Refusal :=
  .next (s.arrive (.causeenWrite value))

/-- NEXTCAUSE_READ (R173, R186). -/
def execNextcauseRead (offset length : Nat) (s : State) : Host.Outcome State Fault Refusal :=
  .next (s.arrive (.nextcauseRead offset length))

/-- NEXTCAUSE_WRITE (R174). -/
def execNextcauseWrite (value : Word) (s : State) : Host.Outcome State Fault Refusal :=
  .next (s.arrive (.nextcauseWrite value))

/-- REGISTER_WRITE_DISCARDED (R186). -/
def execRegisterWriteDiscarded (offset length : Nat) (s : State) : Host.Outcome State Fault Refusal :=
  .next (s.arrive (.registerWriteDiscarded offset length))

/-! Commands of the controller's masters, after which waiting accesses go on. Each comes only when its master is granted: behind
the masters that rank above it (R184; log 44). -/

/-- POST_CHECKS_COMPLETE: the take reader has read a take, its post checks end, and the take engine goes on with the POST in
hand (R37, R39). With no post checks in hand, behind a build read asked for before them (R60), or while the take reader is not
granted (R184), it does nothing (log 4). -/
def execPostChecksComplete (s : State) : Host.Outcome State Fault Refusal :=
  if s.checksInHand && !(s.takes.behindBuild && s.buildReading) && s.readerGranted then .next s.commitDone.continuePosts.resume
  else .next s

/-- BUILD_TAKE_CHECK: the next take of the build has been fetched to its end, and the composer checks what is left of it (R54).
With no take left to check in a RUNNING build, behind post checks asked for before it (R60), or while the take reader is not
granted (R184), it does nothing (log 4). -/
def execBuildTakeCheck (s : State) : Host.Outcome State Fault Refusal :=
  match s.composer.build with
  | none => .next s
  | some b =>
    if s.readsBuild && s.readerGranted then
      .next (s.commitDone.checkBuildTake b).resume
    else .next s

/-- FALLBACK_RECORD_READ_DONE: the mode controller has read the fallback record through the take reader; the hold of R181 ends,
and a held write is stored (R132, R181). With no activation reading, behind the checks of a post in hand (log 40), or while the
take reader is not granted (R184), it does nothing (log 4). -/
def execFallbackRecordReadDone (s : State) : Host.Outcome State Fault Refusal :=
  if s.modes.reading && s.takes.checking.isNone && s.readerGranted then
    .next ((s.commitDone.ctlRead.modModes (fun mo => { mo with reading := false })).modPort
      (fun pt => { pt with holdArea := none })).resume
  else .next s

/-- ACTIVATION_CHECKS_COMPLETE of the attempt `attempt`, whose last read through the take reader lies before it (R132 to R135). It
is ignored when that attempt is not in CHECKING (R137). A post still in hand stands before the activation's reads at the take
reader (log 40), and so do the masters ranked above it (R184). -/
def execActivationChecksComplete (attempt : Nat) (s : State) : Host.Outcome State Fault Refusal :=
  match s.modes.progress with
  | .checking image =>
    if s.modes.attempt = attempt && s.takes.checking.isNone && s.readerGranted then
      .next (s.commitDone.ctlRead.checksComplete image).resume
    else .next s
  | .none | .passed _ _ => .next s

/-- MIRROR_REWRITE_DONE: the status writer finishes the rewrite of a mirror in progress (R22), or the rewrite of its whole section
that a soft reset or an activation left (R135, R189). With no rewrite in progress, or while the status writer is not granted
(R184), it does nothing (log 4). -/
def execMirrorRewriteDone (mirror : Mirror) (s : State) : Host.Outcome State Fault Refusal :=
  if s.map.isSome && s.writerGranted then
    if s.status.toRewrite.contains (mirrorSection mirror) then .next (s.commitDone.writeSection (mirrorSection mirror)).resume
    else if s.status.rewriting mirror then .next (s.commitDone.completeMirror mirror).resume
    else .next s
  else .next s

/-- SOURCE_RECORD_PUBLISHED: the status writer writes the source record that stands next, the waiting ones in index order, and
raises the section's change count (R93), or rewrites the whole section as a soft reset or an activation left it to (R93, R95,
R189). With nothing to publish, for a record that does not stand next, or while the status writer is not granted (R184), it does
nothing (log 4). -/
def execSourceRecordPublished (source : Fin 44) (s : State) : Host.Outcome State Fault Refusal :=
  match s.map with
  | none => .next s
  | some m =>
    if s.writerGranted then
      if s.status.toRewrite.contains 6 then .next (s.commitDone.writeSection 6).resume
      else if s.status.sourceDirty.getLsbD source.val && decide (s.status.nextSource = some source.val) then
        .next (s.commitDone.publishSource m source.val).resume
      else .next s
    else .next s

/-- The current frame waits at the commit writer (R114, R185). -/
def StatusWriter.frameWaits (w : StatusWriter) : Bool :=
  w.headerWrites.any (fun h => match h with | .frame _ => true | .marker _ => false)

/-- SLOT_TABLE_WRITTEN: the status writer finishes copying a changed slot record or the slot table header (R27), or rewrites the
whole section as a soft reset or an activation left it to (R47, R135, R189). For the header it is also the write of the current
frame, which the commit writer makes as soon as no ring write waits (R114, R185). With nothing to copy, or while the status
writer is not granted (R184), it does nothing (log 4). -/
def execSlotTableWritten (part : SlotTablePart) (s : State) : Host.Outcome State Fault Refusal :=
  match s.map with
  | none => .next s
  | some m =>
    if s.writerGranted && s.status.toRewrite.contains 3 then .next (s.commitDone.writeSection 3).resume
    else if s.writerGranted && s.status.slotWork part then .next (s.commitDone.copySlotPart m part).resume
    else if s.readerGranted && decide (part = .header) && s.status.frameWaits then .next s.commitDone.resume
    else .next s

/-- RING_ENTRY_WRITE: the ring writer writes the first entry waiting for a ring, if any (R149). -/
def execRingEntryWrite (ring : RingId) (s : State) : Host.Outcome State Fault Refusal :=
  if s.report.waitingFor ring = 0 then .next s else .next (s.writeEntry ring).resume

/-- RING_HEADER_REWRITE: the ring writer completes the header work it has for a ring, if any (R151, R163, R164). -/
def execRingHeaderRewrite (ring : RingId) (s : State) : Host.Outcome State Fault Refusal :=
  if (s.report.ring ring).initPending || (s.report.ring ring).headerPending then .next (s.flushRing ring).resume else .next s

end Sys2Proof.Machine
end

