-- ==== Sys2Proof/Machine/Dispatch.lean ====
section
/-! DEFINITION. The dispatcher: one arm for each command, each one direct call of its meaning. -/

namespace Sys2Proof.Machine

def exec (i : Instr) (s : State) : Host.Outcome State Fault Refusal :=
  match i with
  | .powerOnReset => Sys2Proof.Machine.execPowerOnReset s
  | .ramClearComplete => Sys2Proof.Machine.execRamClearComplete s
  | .linkReset cause => Sys2Proof.Machine.execLinkReset cause s
  | .pcieConfigChange switches => Sys2Proof.Machine.execPcieConfigChange switches s
  | .bar0Write offset data => Sys2Proof.Machine.execBar0Write offset data s
  | .bar0Read offset length => Sys2Proof.Machine.execBar0Read offset length s
  | .fallbackRecordReadDone => Sys2Proof.Machine.execFallbackRecordReadDone s
  | .softReset w => Sys2Proof.Machine.execSoftReset w s
  | .requestRun w => Sys2Proof.Machine.execRequestRun w s
  | .requestHold w => Sys2Proof.Machine.execRequestHold w s
  | .requestFallback w => Sys2Proof.Machine.execRequestFallback w s
  | .requestQuiesce w => Sys2Proof.Machine.execRequestQuiesce w s
  | .requestConfig w => Sys2Proof.Machine.execRequestConfig w s
  | .requestInvalid value w => Sys2Proof.Machine.execRequestInvalid value w s
  | .serve w => Sys2Proof.Machine.execServe w s
  | .overridePermit w => Sys2Proof.Machine.execOverridePermit w s
  | .intEnable w => Sys2Proof.Machine.execIntEnable w s
  | .post mask => Sys2Proof.Machine.execPost mask s
  | .postChecksComplete => Sys2Proof.Machine.execPostChecksComplete s
  | .cancel mask => Sys2Proof.Machine.execCancel mask s
  | .slotreqNoAction action mask => Sys2Proof.Machine.execSlotreqNoAction action mask s
  | .release selector count => Sys2Proof.Machine.execRelease selector count s
  | .causeWrite value => Sys2Proof.Machine.execCauseWrite value s
  | .causeenWrite value => Sys2Proof.Machine.execCauseenWrite value s
  | .nextcauseRead offset length => Sys2Proof.Machine.execNextcauseRead offset length s
  | .nextcauseWrite value => Sys2Proof.Machine.execNextcauseWrite value s
  | .registerWriteDiscarded offset length => Sys2Proof.Machine.execRegisterWriteDiscarded offset length s
  | .activationChecksComplete attempt => Sys2Proof.Machine.execActivationChecksComplete attempt s
  | .planPoint => Sys2Proof.Machine.execPlanPoint s
  | .buildTakeCheck => Sys2Proof.Machine.execBuildTakeCheck s
  | .buildComplete target attempt => Sys2Proof.Machine.execBuildComplete target attempt s
  | .boundary => Sys2Proof.Machine.execBoundary s
  | .mirrorRewriteDone mirror => Sys2Proof.Machine.execMirrorRewriteDone mirror s
  | .sourceRecordPublished source => Sys2Proof.Machine.execSourceRecordPublished source s
  | .ringEntryWrite ring => Sys2Proof.Machine.execRingEntryWrite ring s
  | .activityArrival lane => Sys2Proof.Machine.execActivityArrival lane s
  | .activityLoss lane => Sys2Proof.Machine.execActivityLoss lane s
  | .frameArrival lane m => Sys2Proof.Machine.execFrameArrival lane m s
  | .frameTimeout lane => Sys2Proof.Machine.execFrameTimeout lane s
  | .lossHoldExpiry lane => Sys2Proof.Machine.execLossHoldExpiry lane s
  | .referenceArrival time => Sys2Proof.Machine.execReferenceArrival time s
  | .missingPulse => Sys2Proof.Machine.execMissingPulse s
  | .holdoverExpiry => Sys2Proof.Machine.execHoldoverExpiry s
  | .supervisionExpiry => Sys2Proof.Machine.execSupervisionExpiry s
  | .linkReturn => Sys2Proof.Machine.execLinkReturn s
  | .slotTableWritten part => Sys2Proof.Machine.execSlotTableWritten part s
  | .ringHeaderRewrite ring => Sys2Proof.Machine.execRingHeaderRewrite ring s

end Sys2Proof.Machine
end

