-- ==== Sys2Proof/Safety.lean ====
section
/-! DEFINITION. What a safe state of the block is: the invariants the rules state, as decidable predicates of one state; and
what a change of state leaves alone. -/

namespace Sys2Proof.Machine

/-! Frames. -/

/-- The parts of the state a frame speaks of. Of the exchange port: the link with its switches, the held area, the queue of
accesses, the blocks already served of the access at its head, the completion, the interrupt's outputs. Of the reporting unit:
the rings with their queues, and the flags with the enables and the condition. -/
inductive Part where
  | pending | now | freeIdx | ram | lastServed
  | link | holdArea | waiting | blocks | completion | interrupt
  | takes | composer | ports | sources | timing | modes
  | rings | causes | status
deriving DecidableEq, Repr

/-- The rings, the entries waiting for them, and the ring writer's work in hand. -/
def Report.ringPart (r : Report) :
    (Ring × Ring × Ring) × List JournalEntry × List Event × List Event × Option (RingJob × Nat) :=
  ((r.journal, r.urgent, r.routine), r.journalQueue, r.urgentQueue, r.routineQueue, r.ringJob)

/-- The flags, the enables and the condition. -/
def Report.causePart (r : Report) : BitVec 14 × BitVec 14 × Bool := (r.causes, r.enables, r.condition)

/-- The change from `s` to `t` touches no part but those listed. -/
structure OnlyChanges (l : List Part) (s t : State) : Prop where
  pending : Part.pending ∈ l ∨ t.pending = s.pending
  now : Part.now ∈ l ∨ t.now = s.now
  freeIdx : Part.freeIdx ∈ l ∨ t.freeIdx = s.freeIdx
  ram : Part.ram ∈ l ∨ t.ram = s.ram
  lastServed : Part.lastServed ∈ l ∨ t.lastServed = s.lastServed
  link : Part.link ∈ l ∨ (t.port.linkUp = s.port.linkUp ∧ t.port.pcie = s.port.pcie)
  holdArea : Part.holdArea ∈ l ∨ t.port.holdArea = s.port.holdArea
  waiting : Part.waiting ∈ l ∨ t.port.waiting = s.port.waiting
  blocks : Part.blocks ∈ l ∨ (t.port.partRead = s.port.partRead ∧ t.port.partLost = s.port.partLost)
  completion : Part.completion ∈ l ∨ t.port.completion = s.port.completion
  interrupt : Part.interrupt ∈ l ∨ (t.port.line = s.port.line ∧ t.port.msiSent = s.port.msiSent)
  takes : Part.takes ∈ l ∨ t.takes = s.takes
  composer : Part.composer ∈ l ∨ t.composer = s.composer
  ports : Part.ports ∈ l ∨ t.ports = s.ports
  sources : Part.sources ∈ l ∨ t.sources = s.sources
  timing : Part.timing ∈ l ∨ t.timing = s.timing
  modes : Part.modes ∈ l ∨ t.modes = s.modes
  rings : Part.rings ∈ l ∨ t.report.ringPart = s.report.ringPart
  causes : Part.causes ∈ l ∨ t.report.causePart = s.report.causePart
  status : Part.status ∈ l ∨ t.status = s.status

/-- Every byte of the Exchange RAM outside the `n` bytes from `a` reads in `t` as in `s`. -/
def SameOutside (s t : State) (a n : Nat) : Prop := ∀ x, x < a ∨ a + n ≤ x → Memory.read t.ram x = Memory.read s.ram x

/-! Driver accesses. -/

/-- The commands that are driver accesses (R176, R177). -/
def isAccess : Instr → Bool
  | .bar0Write _ _ | .bar0Read _ _ | .softReset _ | .requestRun _ | .requestHold _ | .requestFallback _
  | .requestQuiesce _ | .requestConfig _ | .requestInvalid _ _ | .serve _ | .overridePermit _ | .intEnable _
  | .post _ | .cancel _ | .slotreqNoAction _ _ | .release _ _ | .causeWrite _ | .causeenWrite _
  | .nextcauseRead _ _ | .nextcauseWrite _ | .registerWriteDiscarded _ _ => true
  | _ => false

/-- The port takes access `i` as it arrives: the windows are claimed, no access waits, and this one need not wait
(R176, R177). -/
abbrev State.accepts (s : State) (i : Instr) : Prop :=
  s.claims = true ∧ s.port.waiting = [] ∧ s.blocked i = false

/-- The interrupt as the reporting unit and the port deliver it after a change from `s` to `t` (R171, R172): the condition is
evaluated, the legacy line follows it, and one message goes out on a change from false to true. -/
structure Delivers (s t : State) : Prop where
  condition : t.report.condition = interruptCondition t.modes.intEnable t.report
  line : t.port.line = (t.report.condition && !t.port.pcie.msi && !t.port.pcie.legacyDisable)
  message : t.port.msiSent = s.port.msiSent +
    (if t.report.condition && !s.report.condition && s.port.pcie.msi && s.port.pcie.requests && s.port.linkUp then 1 else 0)

/-- The interrupt stands as its terms do: the condition is the one the flags, the enables and the master enable give (R171);
the legacy line is asserted exactly while the condition is true, MSI is off and the line is not disabled (R172); and the
switches are in their reset state while the link is down (R188). -/
structure State.interruptOk (s : State) : Prop where
  condition : s.report.condition = interruptCondition s.modes.intEnable s.report
  line : s.port.line = (s.report.condition && !s.port.pcie.msi && !s.port.pcie.legacyDisable)
  link : s.port.linkUp = false → s.port.pcie = pcieReset

/-- From `s`, where the interrupt stands as its terms do, it is delivered in `t` as R171 and R172 say: the condition and the line
follow their terms, and one message goes out on a change from false to true and none otherwise. -/
abbrev KeepsDelivery (s t : State) : Prop := s.interruptOk → Delivers s t

/-- The event rings and what waits for them. -/
def Report.eventPart (r : Report) : (Ring × Ring) × List Event × List Event :=
  ((r.urgent, r.routine), r.urgentQueue, r.routineQueue)

/-- The journal, the entries that wait for it, and the ring writer's work in hand. -/
def Report.journalPart (r : Report) : Ring × List JournalEntry × Option (RingJob × Nat) := (r.journal, r.journalQueue, r.ringJob)

/-- In `t` the events of a list have been handed on in order from `s`: the event rings and what waits for them are as that leaves
them (R155 to R160), of the flags those are set that it sets, an event that is lost EVENTS_LOST, and those that `set` names, and the
interrupt is delivered (R171, R172). -/
structure HandsOn (s t : State) (es : List Event) (set : Cause → Bool) : Prop where
  rings : t.report.eventPart = (s.handEvents es).report.eventPart
  causes : ∀ c, t.causeSet c = ((s.handEvents es).causeSet c || set c)
  enables : t.report.enables = s.report.enables
  interrupt : KeepsDelivery s t

/-- From `s` to `t` the copies of the slot table that R27 asks for are asked for, beside what `w` holds of the status writer's
work: under a captured map each slot record that has changed is to be copied, and the header where the next post sequence has; a
rewrite of the whole table in hand begins anew where a record has changed (the model's choice, log 15). -/
structure AsksCopies (w : StatusWriter) (s t : State) : Prop where
  unmapped : s.map = none → t.status = s.status
  records : s.map ≠ none → ∀ i, i < Config.slotCount →
    t.status.slotDirty.getLsbD i = (w.slotDirty.getLsbD i || decide (t.slot i ≠ s.slot i))
  rest : s.map ≠ none → t.status = { w with
    slotDirty := t.status.slotDirty
    slotHeaderDirty := w.slotHeaderDirty || decide (t.takes.nextSeq ≠ s.takes.nextSeq)
    job := w.job.filter (fun j => !(decide (j.1 = .wholeSection 3) &&
      (List.range Config.slotCount).any (fun i => decide (t.slot i ≠ s.slot i)))) }

/-! Grants to the exchange port (R182, R184). -/

/-- Of a driver write of `n` bytes from `offset` on, the first `k` bytes are what it has done by its next grant (R182, R184): they
end at the end of a block or of the write; their bytes outside the controller-owned sections, of which there is one where the
write has one, lie in one block; and the block behind them, where the write goes on, has such a byte. -/
structure OneGrant (s : State) (offset n k : Nat) : Prop where
  atMost : k ≤ n
  edge : k = n ∨ (offset + k) % 64 = 0
  one : ∀ a b, offset ≤ a → a < offset + k → s.controllerOwns a = false →
    offset ≤ b → b < offset + k → s.controllerOwns b = false → a / 64 = b / 64
  some : (∃ a, offset ≤ a ∧ a < offset + n ∧ s.controllerOwns a = false) →
    ∃ a, offset ≤ a ∧ a < offset + k ∧ s.controllerOwns a = false
  next : k < n → ∃ a, offset + k ≤ a ∧ a < offset + n ∧ a / 64 = (offset + k) / 64 ∧ s.controllerOwns a = false

/-! The mode controller (R129, R144). -/

/-- The supervision timer started at the full interval; an interval of 0 keeps it stopped (R144). -/
def State.startedTimer (s : State) : Option Time :=
  if (s.modes.captured.map (·.supervision)).getD 0 = 0 then none else some s.now

/-- The supervision timer after a serve: restarted when it runs (R144). -/
def State.servedTimer (s : State) : Option Time := if s.modes.supervision = none then none else s.startedTimer

/-- The mode controller's record once a MODECTL write has stored its two fields and, outside STARTING, served supervision when
SERVE is 1 (R127, R129). -/
def State.fieldsStored (s : State) (serve permit intEnable : Bool) : ModeCtl :=
  { s.modes with
    permit := permit
    intEnable := intEnable
    supervision := if serve && decide (s.modes.mode ≠ .starting) then s.servedTimer else s.modes.supervision }

/-- The reporting unit once journal entries that finish takes have been handed on in order: they wait to be written. Their
reservations are converted when they are counted (R149, R152). -/
def Report.handed (r : Report) (es : List JournalEntry) : Report := { r with journalQueue := r.journalQueue ++ es }

/-- A slot ended IDLE, its cancel request cleared (R43). -/
def SlotRec.ended (r : SlotRec) : SlotRec := { r with state := .idle, cancelRequested := false }

/-- From `u` to `t` the mode goes from QUIESCING to QUIESCED (R142): the entries of the takes that have finished are written, so
that their slots are IDLE (R43; that they are written here is the model's choice, log 10), MODE_REACHED is set and the MODE event
handed on. -/
structure ReachesQuiesced (u t : State) : Prop where
  modes : t.modes = { u.modes with mode := .quiesced }
  entries : t.report.journalPart = u.journalDone.report.journalPart
  events : HandsOn u.journalDone t [modeEvent .quiescing .quiesced .quiesceDone] (fun c => decide (c = .modeReached))
  frame : OnlyChanges [.modes, .rings, .interrupt, .causes] u.journalDone t

/-- What an entry to QUIESCING brings about from `s` to `t` (R142), `record` being the mode controller's record before the move:
the POSTED takes finish CANCELLED in ascending slot order, supervision stops, and a MODE event is handed on; when neither a build
nor an owed fallback commit is in flight the mode goes on to QUIESCED at once. `fails` tells whether the request was a redirected
one. That the slots of the takes that finish stay POSTED in QUIESCING until their entries are counted is the model's choice
(log 10). -/
def EntersQuiescing (s t : State) (record : ModeCtl) (trigger : Trigger) (fails : Bool) : Prop :=
  ∃ u : State, u.modes = { record with mode := .quiescing, supervision := none } ∧
    u.report.journalPart =
      (s.report.handed (s.postedSlots.map (fun i => s.entryOf i (plainOutcome .cancelled) false none))).journalPart ∧
    HandsOn s u [modeEvent s.modes.mode .quiescing trigger] (fun c => decide (c = .modeFail) && fails) ∧
    OnlyChanges [.modes, .rings, .interrupt, .causes] s u ∧
    if s.composer.build = none ∧ s.composer.fallbackOwed = false then ReachesQuiesced u t else t = u

/-- What an entry to FALLBACK brings about from `s` to `t` (R139), `record` being the mode controller's record before the move:
the build is discarded, the takes of the build and then the POSTED ones finish ABANDONED, their entries are written, so that
every slot is IDLE (R43; that they are written here, before the mode moves, so that a POST whose entry is among them goes on under
the mode that is left, is the model's choice, log 10), supervision stops, FALLBACK_ENTERED is set, the MODE event is handed on and
the fallback commit is owed. `before` are the events handed on before that. -/
def EntersFallback (s t : State) (record : ModeCtl) (trigger : Trigger) (before : List Event) : Prop :=
  ∃ u : State, u.modes = record ∧ u.composer = { s.composer with build := none } ∧
    u.report.journalPart = (s.report.handed ((s.buildSlots ++ s.postedSlots).map
      (fun i => s.entryOf i (plainOutcome .abandoned) (s.slot i).cancelRequested none))).journalPart ∧
    HandsOn s u before (fun _ => false) ∧
    OnlyChanges [.now, .modes, .composer, .rings, .interrupt, .causes] s u ∧ u.now = t.now ∧
    t.modes = { record with mode := .fallback, supervision := none } ∧
    t.composer = { s.composer with build := none, fallbackOwed := true } ∧
    t.report.journalPart = u.journalDone.report.journalPart ∧
    HandsOn u.journalDone t [modeEvent s.modes.mode .fallback trigger] (fun c => decide (c = .fallbackEntered)) ∧
    OnlyChanges [.modes, .composer, .rings, .interrupt, .causes] u.journalDone t

/-! Byte layouts (R190 to R193). -/

/-- The little-endian number in the `n` bytes from offset `off` on (R190). -/
def leValue (byteAt : Nat → Byte) (off : Nat) : (n : Nat) → Nat
  | 0 => 0
  | n + 1 => (byteAt off).toNat + 256 * leValue byteAt (off + 1) n

/-- The bytes of a record are `size` bytes, hold each field (offset, width in bytes, value) little-endian, as far as it fits, and
are 0 where no field stands (R190). -/
structure RecordHas (bs : List Byte) (size : Nat) (fields : List (Nat × Nat × Nat)) : Prop where
  size : bs.length = size
  field : ∀ f ∈ fields, leValue (fun i => bs.getD i 0) f.1 f.2.1 = f.2.2 % 256 ^ f.2.1
  unused : ∀ i, (∀ f ∈ fields, i < f.1 ∨ f.1 + f.2.1 ≤ i) → bs.getD i 0 = 0

/-- The fields x, y, width and height of a rectangle at offset `off`, 2 bytes each (R193). -/
def rectFields (off : Nat) (r : Rect) : List (Nat × Nat × Nat) :=
  [(off, 2, r.x), (off + 2, 2, r.y), (off + 4, 2, r.w), (off + 6, 2, r.h)]

/-! The enumerations in the order of their encodings, the first 0, or 1 where the table begins with 1 (R190). -/

def modesInOrder : List Mode := [.starting, .config, .activating, .run, .hold, .fallback, .quiescing, .quiesced]
def refStatesInOrder : List RefState := [.freerun, .locked, .holdover]
def sourceStatesInOrder : List SourceState := [.disabled, .absent, .acquiring, .locked, .overclass, .lossHold]
def subStatesInOrder : List SubState := [.none, .backup, .slate]
def slotStatesInOrder : List SlotState := [.idle, .posted, .building]
def refusalsInOrder : List RefusalReason := [.none, .mode, .busy, .noRoom, .notPosted]
def filterActionsInOrder : List FilterAction := [.discard, .urgent, .routine]
def reasonsInOrder : List Reason :=
  [.none, .badCount, .badCheck, .noCheck, .late, .badKind, .badWindow, .badSource, .sourceDisabled, .outOfWall, .tooSmall,
   .badCrop, .badRank, .badFilter, .protectedEdit, .sourceNotReady, .tagMismatch, .notSubstituted, .rankClash, .protectedCover,
   .layerBudget, .fetchBudget, .scalerExhausted]

/-- From 1 on. -/
def triggersInOrder : List Trigger :=
  [.request, .redirect, .overrunLimit, .supervision, .checksFailed, .activationDone, .quiesceDone]

/-- From 1 on. -/
def editCausesInOrder : List EditCause := [.routedLoss, .backupLoss, .sourceReturn, .commitCheck]

/-- From 1 on. -/
def outcomesInOrder : List TakeOutcome := [.applied, .rejected, .cancelled, .expired, .abandoned]

/-- From 1 on. -/
def entryKindsInOrder : List EntryKind := [.show, .route, .place, .rerank, .crop, .hide, .restore, .protect, .filter]

/-- From 1 on. -/
def eventKindsInOrder : List EventKind :=
  [.source, .format, .substitute, .restore, .overrun, .mode, .timing, .supervision]

/-- The event of an applied edit at boundary `n` (R107, R193): SUBSTITUTE for BACKUP and SLATE, RESTORE for NONE, with the window,
the substitution states before and after, the shown source and the cause. -/
def appliedEvent (e : Edit) (old new : SubState) (shown : Nat) (n : Word) : Event :=
  { kind := if new = .none then .restore else .substitute
    index := e.window
    oldState := BitVec.ofNat 8 (subStatesInOrder.idxOf old)
    newState := BitVec.ofNat 8 (subStatesInOrder.idxOf new)
    detail := BitVec.ofNat 32 (shown + 2 ^ 8 * (editCausesInOrder.idxOf e.cause + 1))
    frame := some n }

/-! Posting and cancelling (R37 to R44). -/

/-- What a post of slot `i` is answered with: the first refusal of R38 that holds, or NONE when it is accepted for checking. -/
def State.postAnswer (s : State) (i : Nat) : RefusalReason :=
  if s.modes.mode ≠ .run ∧ s.modes.mode ≠ .hold then .mode
  else if (s.slot i).state ≠ .idle then .busy
  else if s.report.journal.capacity ≤ s.report.journal.fill + s.report.journal.reserved then .noRoom
  else .none

/-- Of the slots a POST still names, those refused before the first that is accepted for checking (R37, R38). -/
def State.refusedFirst (s : State) (l : List Nat) : List Nat := l.takeWhile (fun i => decide (s.postAnswer i ≠ .none))

/-- The first slot accepted for checking and those behind it, which wait until its post checks are done (R37). -/
def State.fromAccepted (s : State) (l : List Nat) : List Nat := l.dropWhile (fun i => decide (s.postAnswer i ≠ .none))

/-- From `s` to `t` the take engine handles the slots of `l` in order as far as the first whose post checks it has to run (R37 to
R39): each refused slot records its reason, the accepted one records NONE and takes one place of the journal, no other slot
changes, and SLOT_REFUSED is set when a slot is refused, the interrupt delivered (R171, R172). The accepted one's checks stand
behind a build read in hand (R60): one of a running build that has a take left to check. -/
structure HandlesPosts (l : List Nat) (s t : State) : Prop where
  slots : ∀ i, t.slot i =
    if i ∈ s.refusedFirst l then { s.slot i with lastRefusal := s.postAnswer i }
    else if (s.fromAccepted l).head? = some i then { s.slot i with lastRefusal := .none } else s.slot i
  checking : t.takes.checking = (s.fromAccepted l).head?
  toHandle : t.takes.toHandle = (s.fromAccepted l).tail
  nextSeq : t.takes.nextSeq = s.takes.nextSeq
  behind : t.takes.behindBuild = if s.fromAccepted l = [] then s.takes.behindBuild
    else s.composer.build.any (fun b => decide (b.status = .running) && b.takes.any (fun k => decide (k.result = none)))
  journal : t.report.ringPart = if s.fromAccepted l = [] then s.report.ringPart
    else { s.report with journal := { s.report.journal with
      reserved := s.report.journal.reserved + 1, headerPending := true } }.ringPart
  causes : ∀ c, t.causeSet c = (s.causeSet c || (decide (c = .slotRefused) && decide (s.refusedFirst l ≠ [])))
  enables : t.report.enables = s.report.enables
  interrupt : KeepsDelivery s t
  copies : AsksCopies s.status s t

/-- The reason for which the post checks of R39 to R41 reject a header `h` read at address `a`, if any. -/
def State.postVerdict (s : State) (a : Nat) (h : TakeHeader) : Option Reason :=
  if h.count = 0 ∨ 24 < h.count then some .badCount
  else if h.checked = true ∧ Memory.checkCode s.ram a h.count ≠ h.checkCode then some .badCheck
  else if h.checked = false ∧ s.modes.captured.any (·.requireChecked) = true then some .noCheck
  else if h.dueAt = true ∧ (s.timing.frame - h.dueFrame).toNat < 2 ^ 31 then some .late
  else none

/-- The due frame a take that passes its post checks is recorded with (R41). -/
def State.dueOf (s : State) (h : TakeHeader) : Word :=
  if h.dueAt then h.dueFrame else s.timing.frame + (if s.timing.planDone then 2 else 1)

/-- What the end of the post checks of slot `i`, its header `h` read at address `a`, brings about from `s` to `t` (R39, R42):
a take that fails one finishes REJECTED and the slot stays as it was; a take that passes them has its post sequence and its due
frame recorded, and is POSTED in RUN and HOLD, and else finishes at once, ABANDONED in FALLBACK and CANCELLED elsewhere. The post
stays in hand here (what follows stands with the statement). -/
structure ChecksPost (i a : Nat) (h : TakeHeader) (s t : State) : Prop where
  slots : ∀ j, t.slot j = if j = i ∧ s.postVerdict a h = none then
      { s.slot i with
        state := if s.modes.mode = .run ∨ s.modes.mode = .hold then .posted else (s.slot i).state
        seq := s.takes.nextSeq, due := s.dueOf h, header := h }
    else s.slot j
  checking : t.takes.checking = s.takes.checking
  nextSeq : t.takes.nextSeq = if s.postVerdict a h = none then s.takes.nextSeq + 1 else s.takes.nextSeq
  toHandle : t.takes.toHandle = s.takes.toHandle
  behind : t.takes.behindBuild = s.takes.behindBuild
  entries : t.report.journalPart = (s.report.handed
    (match s.postVerdict a h with
      | some r => [⟨i, .rejected, r, none, none, false, h.driverTag, s.takes.nextSeq, none⟩]
      | none => if s.modes.mode = .run ∨ s.modes.mode = .hold then []
        else [⟨i, if s.modes.mode = .fallback then .abandoned else .cancelled, .none, none, none, false, h.driverTag,
          s.takes.nextSeq, none⟩])).journalPart
  rings : t.report.eventPart = s.report.eventPart
  copies : AsksCopies s.status s t

/-! Boundaries (R22, R23, R24, R114, R179). -/

/-- The wall timing record once the boundary next scheduled is taken: the counter advances, and the boundary after it is
scheduled one period later, or where an early pulse put it, with its plan point one lead before it (R113, R114, R119). -/
def Timing.afterBoundary (t : Timing) : Timing :=
  { t with
    frame := t.frame + 1
    lastBoundary := t.nextBoundary
    planDone := false
    afterNext := none
    nextBoundary := t.afterNext.getD (t.nextBoundary + t.period)
    nextPlan := t.afterNext.getD (t.nextBoundary + t.period) - t.lead * 10 }

/-- A rectangle `r` is the part of source region `g` that falls on `cw` by `ch` pixels at offset (dx, dy) of a window of `width`
by `height` pixels, by the scaled rule of R18. An empty region gives an empty part. -/
structure ScaledPart (g : Rect) (dx dy cw ch width height : Nat) (r : Rect) : Prop where
  empty : g.w = 0 ∨ g.h = 0 → r.w = 0 ∧ r.h = 0
  left : ¬ (g.w = 0 ∨ g.h = 0) → r.x = g.x + dx * g.w / width
  right : ¬ (g.w = 0 ∨ g.h = 0) → r.x + r.w = g.x + ((dx + cw) * g.w + (width - 1)) / width
  top : ¬ (g.w = 0 ∨ g.h = 0) → r.y = g.y + dy * g.h / height
  bottom : ¬ (g.w = 0 ∨ g.h = 0) → r.y + r.h = g.y + ((dy + ch) * g.h + (height - 1)) / height

/-- The same by the native rule of R18: one source pixel for each wall pixel, empty beyond the region. -/
structure NativePart (g : Rect) (dx dy cw ch : Nat) (r : Rect) : Prop where
  corner : r.x = g.x + dx ∧ r.y = g.y + dy
  empty : g.w ≤ dx ∨ g.h ≤ dy → r.w = 0 ∧ r.h = 0
  size : ¬ (g.w ≤ dx ∨ g.h ≤ dy) → r.w = min cw (g.w - dx) ∧ r.h = min ch (g.h - dy)

/-- A rectangle `g` is the source region over an active area of `aw` by `ah` pixels with crop `crop` (R9): the whole area without
one, else the effective crop, which is empty when the crop's corner lies outside the area. -/
structure RegionOver (aw ah : Nat) (crop : Option Rect) (g : Rect) : Prop where
  whole : crop = none → g = ⟨0, 0, aw, ah⟩
  inside : ∀ c, crop = some c → c.x < aw → c.y < ah → g = ⟨c.x, c.y, min c.w (aw - c.x), min c.h (ah - c.y)⟩
  outside : ∀ c, crop = some c → aw ≤ c.x ∨ ah ≤ c.y → g.w = 0 ∧ g.h = 0

/-- The port of index `i` shows fragment `f` as the state of its shown source asks (R7, R8, R9, R18, R23, R24): live, held, or as
the slate, 1920 by 1080 without crop; with the most recent complete source frame, or in LOSS_HOLD the last one before the loss;
source 41 with the port's own tile index; and the source region and the source rectangle recomputed for the active area of the
moment. How frames are told apart is the model's own (log 42). -/
structure ShowsFragment (t : State) (i : Nat) (f : ShownFragment) : Prop where
  picture : f.picture = (match (t.source f.frag.shown).state with
    | .locked => .live
    | .lossHold => .held
    | .disabled | .absent | .acquiring | .overclass => .slate)
  frame : f.frame = if f.picture = .slate ∨ 40 ≤ f.frag.shown then none else (t.source f.frag.shown).latest
  tile : f.tile = if f.picture ≠ .slate ∧ f.frag.shown = 41 then some i else none
  placed : f.native = (windowAt t.composer.live.windows f.frag.window).native ∧
    f.rect = (windowAt t.composer.live.windows f.frag.window).rect
  region : RegionOver (if f.picture = .slate then 1920 else ((t.source f.frag.shown).qualified.map (·.width)).getD 1920)
    (if f.picture = .slate then 1080 else ((t.source f.frag.shown).qualified.map (·.height)).getD 1080)
    (if f.picture = .slate ∨ f.frag.shown = 40 then none else (windowAt t.composer.live.windows f.frag.window).crop) f.region
  src : let dx := f.frag.clip.x + (t.geometry.tileRect i).x - f.rect.x
    let dy := f.frag.clip.y + (t.geometry.tileRect i).y - f.rect.y
    if f.native then NativePart f.region dx dy f.frag.clip.w f.frag.clip.h f.src
    else ScaledPart f.region dx dy f.frag.clip.w f.frag.clip.h f.rect.w f.rect.h f.src

/-- Every port holds the plan given for it, and its output frame shows that plan's fragments, each as the state of its shown
source asks (R23, R24). -/
def BeginsFrames (plans : Nat → List Fragment) (t : State) : Prop :=
  ∀ i, i < Config.tilePorts → ∃ p, t.ports[i]? = some p ∧ p.plan = plans i ∧ p.output.map (·.frag) = p.plan ∧
    ∀ f ∈ p.output, ShowsFragment t i f

/-- The plan the port of index `i` holds. -/
def State.planOfPort (s : State) (i : Nat) : List Fragment := (s.ports.getD i TilePort.black).plan

/-- The work of the status writer in hand, less that of a mirror or of a mirror's whole section. -/
def StatusWriter.withoutMirror (w : StatusWriter) : Option (StatusJob × Nat) :=
  w.job.filter (fun j => match j.1 with
    | .mirror _ => false
    | .wholeSection n => n ≠ 4 && n ≠ 5 && n ≠ 7
    | .source _ => true)

/-- The rewrite of the three mirrors begins (R22): under a captured map the status writer is to rewrite them, and one in hand is
abandoned. -/
abbrev RewritesBegin (s t : State) : Prop :=
  t.status = if s.map = none then s.status
    else { s.status with windowsPending := true, plansPending := true, filtersPending := true, job := s.status.withoutMirror }

/-- The status writer's work once the layout has been replaced at a boundary under a captured map (R22, R185): the writing
markers of the mirrors go to the commit writer, in an order that is the model's choice (log 44), and the mirrors are to be
rewritten, a rewrite in hand abandoned. -/
def StatusWriter.replaced (w : StatusWriter) : StatusWriter :=
  { w with
    headerWrites := w.headerWrites ++ [.marker .windowTable, .marker .tilePlans, .marker .filterList]
    windowsPending := true, plansPending := true, filtersPending := true, job := w.withoutMirror }

/-- The wall timing record once the boundary is taken and before the one after it is scheduled (R114). -/
def Timing.atBoundary (t : Timing) : Timing :=
  { t with frame := t.frame + 1, lastBoundary := t.nextBoundary, planDone := false }

/-- How a boundary ends from `u`, the state once the composer has acted, to `t` (R24, R114, R142, R185), `s` being the state
before the boundary: QUIESCING goes to QUIESCED; then the ports begin their frames, the boundary after is scheduled and, under a
captured map, the current frame is handed to the commit writer. -/
structure BoundaryEnds (plans : Nat → List Fragment) (s u t : State) : Prop where
  before : u.timing = s.timing.atBoundary ∧ u.now = max s.now s.timing.nextBoundary
  timing : t.timing = s.timing.afterBoundary
  ports : BeginsFrames plans t
  quiescing : s.modes.mode = .quiescing → ∃ v, ReachesQuiesced u v ∧ OnlyChanges [.ports, .timing, .status] v t
  otherwise : s.modes.mode ≠ .quiescing → OnlyChanges [.ports, .timing, .status] u t
  status : let w := if s.modes.mode = .quiescing then u.journalDone.status else u.status
    t.status = if s.map = none then w else { w with headerWrites := w.headerWrites ++ [.frame (s.timing.frame + 1)] }

/-- What the check after a commit calls for on a window, given the states of the sources and the edits that stand (R101). -/
def checkCall (st : Nat → SourceState) (pending : List Edit) (w : WindowRec) (i : Nat) : Option EditKind :=
  let call : Option EditKind :=
    if w.visible = false then none
    else if w.sub ≠ .none ∧ w.restore = .auto ∧ st w.routed = .locked then some .restore
    else if w.sub = .none ∧ (st w.routed = .absent ∨ st w.routed = .overclass ∨ st w.routed = .disabled) then some .substitute
    else if w.sub = .backup ∧ (st w.shown = .absent ∨ st w.shown = .overclass ∨ st w.shown = .disabled) then some .substitute
    else none
  call.filter (fun k => !pending.any (fun e => e.window == i && decide (e.kind = k)))

/-- The edits that the check after a commit adds in `t` to a list that stands: the windows, ascending, with each routed source and
the kind of edit (R101). -/
def State.checkCalls (t : State) (pending : List Edit) : List (Nat × Nat × EditKind) :=
  t.composer.live.windows.zipIdx.filterMap (fun p =>
    (checkCall (fun k => (t.source k).state) pending p.1 p.2).map (fun k => (p.2, p.1.routed, k)))

/-- The pending list after a commit is `pending`, the edits that stand, as the check that follows leaves it: an edit it adds takes
the place of an older one for its window (R97, R101). `serial` numbers the first edit it adds. -/
structure EditsAfterCheck (pending : List Edit) (serial : Nat) (t : State) : Prop where
  edits : t.composer.pendingEdits = pending.filter (fun e => decide (e.window ∉ (t.checkCalls pending).map (·.1))) ++
    (t.checkCalls pending).zipIdx.map (fun p => ⟨serial + p.2, p.1.2.2, p.1.1, p.1.2.1, .commitCheck⟩)
  next : t.composer.editSerial = serial + (t.checkCalls pending).length

/-- The live windows of `t` are those that a plan leaves of the windows `old` at boundary `n` (R13, R136, R140): the plan's record
where it is visible there, else the old one hidden and without context. A window that differs from before in more than its
stamps records the frame and the tag 0 (which windows these are: the model's choice, log 34); another keeps both. -/
structure InstallsPlan (plan old : List WindowRec) (n : Word) (t : State) : Prop where
  length : t.composer.live.windows.length = old.length
  window : ∀ i, i < old.length →
    let w := windowAt old i
    let new := windowAt t.composer.live.windows i
    let goal := if (windowAt plan i).visible then windowAt plan i
      else { w with visible := false, sub := .none, shown := w.routed, ctx := none }
    new = { goal with lastCommitFrame := new.lastCommitFrame, lastTakeTag := new.lastTakeTag } ∧
    (new.lastCommitFrame, new.lastTakeTag) =
      if { goal with lastCommitFrame := w.lastCommitFrame, lastTakeTag := w.lastTakeTag } = w
      then (w.lastCommitFrame, w.lastTakeTag) else (n, 0)
  plans : t.composer.live.plans = t.plansNow t.composer.live.windows

/-- The state in which a boundary's blocks act: the clock has reached the boundary's time. -/
def State.atBoundary (s : State) : State := { s with now := max s.now s.timing.nextBoundary }

/-! Checks on entries and layouts (R17 to R20, R55, R57, R133, R134). -/

/-- The visible windows of a table that touch tile `k` of a wall, ascending. -/
def touching (g : Geometry) (ws : List WindowRec) (k : Nat) : List Nat :=
  (List.range ws.length).filter (fun i => (windowAt ws i).visible && (windowAt ws i).rect.overlaps (g.tileRect k))

/-- The sum of the charges of the fragments tile `k` would hold (R19, R20). -/
def chargeOn (g : Geometry) (cls : Nat → Nat) (ws : List WindowRec) (k : Nat) : Nat :=
  ((touching g ws k).map (fun i => max (cls (windowAt ws i).routed) (cls (windowAt ws i).shown))).sum

/-- A window table breaks the whole-layout check that a reason names; the tile is the lowest that breaks it (R57, R58). -/
def LayoutBreaks (g : Geometry) (cls : Nat → Nat) (ws : List WindowRec) (tile : Option Nat) : Reason → Prop
  | .rankClash => tile = none ∧ ∃ i j, i ≠ j ∧ (windowAt ws i).visible = true ∧ (windowAt ws j).visible = true ∧
      (windowAt ws i).rank = (windowAt ws j).rank
  | .protectedCover => tile = none ∧ ∃ i j, i ≠ j ∧ (windowAt ws i).visible = true ∧ (windowAt ws i).prot = true ∧
      (windowAt ws j).visible = true ∧ (windowAt ws i).rect.overlaps (windowAt ws j).rect = true ∧
      (windowAt ws i).rank < (windowAt ws j).rank
  | .layerBudget => ∃ k, tile = some k ∧ k < g.tiles ∧ 8 < (touching g ws k).length ∧
      ∀ j, j < k → (touching g ws j).length ≤ 8
  | .fetchBudget => ∃ k, tile = some k ∧ k < g.tiles ∧ 16 < chargeOn g cls ws k ∧ ∀ j, j < k → chargeOn g cls ws j ≤ 16
  | .scalerExhausted => tile = none ∧ (32 < (ws.filter (fun w => w.visible && !w.native)).length ∨
      28 < (ws.filter (fun w => w.visible && !w.native && !w.prot)).length)
  | .none | .badCount | .badCheck | .noCheck | .late | .badKind | .badWindow | .badSource | .sourceDisabled | .outOfWall
  | .tooSmall | .badCrop | .badRank | .badFilter | .protectedEdit | .sourceNotReady | .tagMismatch | .notSubstituted => False

/-- The five whole-layout checks in their order (R57). -/
def layoutChecks : List Reason := [.rankClash, .protectedCover, .layerBudget, .fetchBudget, .scalerExhausted]

/-- The reason `r` is the first of a list of checks that fails. -/
def FirstOf (checks : List Reason) (breaks : Reason → Prop) (r : Reason) : Prop :=
  ∃ pre post, checks = pre ++ r :: post ∧ breaks r ∧ ∀ q ∈ pre, ¬ breaks q

/-- The checks on an entry in their order, behind the check of its kind (R55). -/
def entryChecks : List Reason :=
  [.badWindow, .badFilter, .badSource, .sourceDisabled, .tooSmall, .outOfWall, .badCrop, .badRank, .protectedEdit,
   .notSubstituted, .sourceNotReady, .tagMismatch]

/-- An entry of kind `k` breaks the check that a reason names, against a draft's windows (R34, R35, R36, R55, R56). -/
def Entry.breaks (e : Entry) (c : EntryContext) (ws : List WindowRec) (k : EntryKind) : Reason → Prop
  | .badWindow => k ≠ .filter ∧ 63 < e.window
  | .badFilter => k = .filter ∧ (15 < e.window ∨ 2 < e.filter.action ∨ e.filter.high < e.filter.low ∨ 63 < e.filter.high ∨
      256 ≤ e.filter.kinds.toNat)
  | .badSource => (k = .show ∨ k = .route) ∧ 43 < e.source
  | .sourceDisabled => (k = .show ∨ k = .route) ∧ (c.source e.source).settings.enabled = false
  | .tooSmall => (k = .show ∨ k = .place) ∧ (e.rect.w < 64 ∨ e.rect.h < 36)
  | .outOfWall => (k = .show ∨ k = .place) ∧
      (c.geometry.cols * 1920 < e.rect.x + e.rect.w ∨ c.geometry.rows * 1080 < e.rect.y + e.rect.h)
  | .badCrop => (k = .show ∨ k = .crop) ∧ e.cropPresent = true ∧
      (e.crop.w < 16 ∨ e.crop.h < 16 ∨ 4096 < e.crop.x + e.crop.w ∨ 2160 < e.crop.y + e.crop.h)
  | .badRank => (k = .show ∨ k = .rerank) ∧ e.rank = 0
  | .protectedEdit => k ≠ .filter ∧ c.authority = false ∧ (k = .protect ∨ (k = .show ∧ e.prot = true) ∨
      ((windowAt ws e.window).visible = true ∧ (windowAt ws e.window).prot = true))
  | .notSubstituted => k = .restore ∧ (windowAt ws e.window).sub = .none
  | .sourceNotReady =>
      ((k = .show ∨ k = .route) ∧ c.requireLocked = true ∧ (c.source e.source).state ≠ .locked) ∨
        (k = .restore ∧ (c.source (windowAt ws e.window).routed).state ≠ .locked)
  | .tagMismatch => (k = .show ∨ k = .route) ∧ e.tagPresent = true ∧ (c.source e.source).state = .locked ∧
      (c.source e.source).qualified.bind (·.tag) ≠ some e.tag
  | .none | .badCount | .badCheck | .noCheck | .late | .badKind | .rankClash | .protectedCover | .layerBudget | .fetchBudget
  | .scalerExhausted => False

/-- The fragment of window `f.window` of a table on the tile with rectangle `t` (R17, R18, R19): its shown source, the higher of
the declared classes of its two sources, its scaler context, the part of its rectangle on the tile in tile coordinates, and the
source rectangle of that part. -/
structure FragmentHolds (cls : Nat → Nat) (area : Nat → Nat × Nat) (ws : List WindowRec) (t : Rect) (f : Fragment) : Prop where
  shown : f.shown = (windowAt ws f.window).shown
  charge : f.charge = max (cls (windowAt ws f.window).routed) (cls (windowAt ws f.window).shown)
  ctx : f.ctx = if (windowAt ws f.window).native then none else (windowAt ws f.window).ctx
  corner : f.clip.x + t.x = max (windowAt ws f.window).rect.x t.x ∧ f.clip.y + t.y = max (windowAt ws f.window).rect.y t.y
  extent : let r := (windowAt ws f.window).rect
    f.clip.x + t.x + f.clip.w = min (r.x + r.w) (t.x + t.w) ∧ f.clip.y + t.y + f.clip.h = min (r.y + r.h) (t.y + t.h)
  src : let w := windowAt ws f.window
    let dx := f.clip.x + t.x - w.rect.x
    let dy := f.clip.y + t.y - w.rect.y
    ∃ g, RegionOver (area w.shown).1 (area w.shown).2 (if w.shown = 40 then none else w.crop) g ∧
      if w.native then NativePart g dx dy f.clip.w f.clip.h f.src
      else ScaledPart g dx dy f.clip.w f.clip.h w.rect.w w.rect.h f.src

/-- A list of fragments is the plan of tile `k` (R17): one fragment for each visible window that touches it, in descending rank.
-/
structure PlanHolds (g : Geometry) (cls : Nat → Nat) (area : Nat → Nat × Nat) (ws : List WindowRec) (k : Nat)
    (p : List Fragment) : Prop where
  members : ∀ i, (∃ f ∈ p, f.window = i) ↔ i ∈ touching g ws k
  once : (p.map (·.window)).Nodup
  order : p.Pairwise (fun f h => (windowAt ws h.window).rank ≤ (windowAt ws f.window).rank)
  fragment : ∀ f ∈ p, FragmentHolds cls area ws (g.tileRect k) f

/-- Minimum size of section `n` under a configuration (R133, R193). -/
def ConfigImage.least (c : ConfigImage) : Nat → Nat
  | 1 => 2080
  | 2 => 12800
  | 3 => 320
  | 4 => 4160
  | 5 => 64 + 272 * (c.cols * c.rows)
  | 6 => 1472
  | 7 => 320
  | 8 => 64 + 32 * c.journal.capacity
  | 9 => 64 + 16 * c.urgent.capacity
  | _ => 64 + 16 * c.routine.capacity

/-- Section `n` of a configuration, 0 the configuration section itself (R133). -/
def ConfigImage.area (c : ConfigImage) (n : Nat) : Section := if n = 0 then ⟨0, 4096⟩ else sectionOf c.map n

/-- Two areas share a byte. -/
def ShareByte (a b : Section) : Prop := ∃ x, a.start ≤ x ∧ x < a.start + a.size ∧ b.start ≤ x ∧ x < b.start + b.size

/-- A ring's parameters break R133, its capacity at most `top`. -/
def RingParams.breaks (p : RingParams) (top : Nat) : Prop :=
  p.capacity < 16 ∨ top < p.capacity ∨ p.watermark = 0 ∨ p.capacity < p.watermark

/-- An entry of the fallback record breaks R134 under a configuration. -/
def ConfigImage.entryBreaks (c : ConfigImage) (e : Entry) : Prop :=
  entryKind e.kind ≠ some .show ∨ 63 < e.window ∨ 43 < e.source ∨ c.enabled e.source = false ∨ e.rect.w < 64 ∨ e.rect.h < 36 ∨
    c.cols * 1920 < e.rect.x + e.rect.w ∨ c.rows * 1080 < e.rect.y + e.rect.h ∨
    (e.cropPresent = true ∧ (e.crop.w < 16 ∨ e.crop.h < 16 ∨ 4096 < e.crop.x + e.crop.w ∨ 2160 < e.crop.y + e.crop.h)) ∨
    e.rank = 0

/-- A configuration fails the check of a failure code with an index, `old` being the captured map (R16, R35, R76, R112, R113,
R133, R134). -/
def ConfigImage.fails (c : ConfigImage) (old : Option SectionMap) (n : Nat) : FailCode → Prop
  | .none => False
  | .geometry => n = 0 ∧ (c.cols < 1 ∨ 8 < c.cols ∨ c.rows < 1 ∨ 8 < c.rows ∨ 32 < c.cols * c.rows)
  | .rate => n = 0 ∧ c.rate ≠ 50000 ∧ c.rate ≠ 59940 ∧ c.rate ≠ 60000
  | .planLead => n = 0 ∧ (c.lead < 2000 ∨ 12000 < c.lead ∨ c.lead % 1000 ≠ 0)
  | .ringParam => (n = 0 ∧ c.journal.breaks 256) ∨ (n = 1 ∧ c.urgent.breaks 1024) ∨ (n = 2 ∧ c.routine.breaks 1024)
  | .sectionRange => 1 ≤ n ∧ n ≤ 10 ∧ 262144 < (c.area n).start + (c.area n).size
  | .sectionAlign => 1 ≤ n ∧ n ≤ 10 ∧ (c.area n).start % 64 ≠ 0
  | .sectionSize => 1 ≤ n ∧ n ≤ 10 ∧ (c.area n).size < c.least n
  | .sectionOverlap => 1 ≤ n ∧ n ≤ 10 ∧ ((∃ k, k < n ∧ ShareByte (c.area n) (c.area k)) ∨
      (n = 1 ∧ ∃ o k, old = some o ∧ 3 ≤ k ∧ k ≤ 10 ∧ ShareByte (c.area 1) (sectionOf o k)))
  | .sourceParam => ∃ r, c.settings[n]? = some r ∧ ((r.declaredClass ≠ 1 ∧ r.declaredClass ≠ 2 ∧ r.declaredClass ≠ 4) ∨
      (43 < r.backup ∧ r.backup ≠ 255) ∨ r.backup = n ∨ 500 < r.lossHold)
  | .filterParam => (∃ f, c.filters[n]? = some f ∧ (2 < f.action ∨ f.high < f.low ∨ 63 < f.high ∨ 256 ≤ f.kinds.toNat)) ∨
      (n = 16 ∧ 2 < c.defaultAction)
  | .startLayout => n = 0 ∧ 1 < c.startSelector
  | .fallbackEntry => (n = 0 ∧ (c.fallbackCount = 0 ∨ 64 < c.fallbackCount)) ∨
      (1 ≤ c.fallbackCount ∧ c.fallbackCount ≤ 64 ∧ ∃ e, c.fallbackEntries[n]? = some e ∧ c.entryBreaks e)
  | .fallbackLayout => ∃ r tile, layoutChecks[n - 1]? = some r ∧ 1 ≤ n ∧ LayoutBreaks c.geometry c.classOf c.fallbackWindows tile r

/-! Sources (R83 to R91, R97 to R100). -/

/-- The edit that source `i` entering a state calls for on a window of the live layout, if any (R98 to R100). -/
def editCall (i : Nat) (entered : SourceState) (w : WindowRec) : Option (EditKind × EditCause) :=
  if w.visible = false then none
  else if entered = .absent ∨ entered = .overclass then
    if w.routed = i ∧ w.sub = .none then some (.substitute, .routedLoss)
    else if w.shown = i ∧ w.sub = .backup then some (.substitute, .backupLoss) else none
  else if entered = .locked ∧ w.routed = i ∧ w.sub ≠ .none ∧ w.restore = .auto then some (.restore, .sourceReturn)
  else none

/-- The windows on which source `i` entering a state calls for an edit, ascending, with what each calls for. -/
def State.editCalls (s : State) (i : Nat) (entered : SourceState) : List (Nat × Nat × EditKind × EditCause) :=
  s.composer.live.windows.zipIdx.filterMap (fun p => (editCall i entered p.1).map (fun k => (p.2, p.1.routed, k)))

/-- From `s` to `t` a rewrite of the published record of source `i` is asked for, and nothing else of the status writer changes
(R93): under a captured map the record is to be written, and a rewrite of it in hand begins anew, as does one of the whole section
(the model's choice, log 15); without one nothing is published. -/
abbrev AsksRewrite (i : Nat) (s t : State) : Prop :=
  t.status = if s.map = none then s.status
    else { s.status with
      sourceDirty := s.status.sourceDirty ||| (1#44 <<< i)
      job := s.status.job.filter (fun j => decide (j.1 ≠ .source i ∧ j.1 ≠ .wholeSection 6)) }

/-- A change of the record of source `i` to `r` from `s` to `t` (R90, R91, R97): the record changes, the composer removes its
older edits for the windows that call for one and adds the new ones in ascending window index, the events are handed on in
order, and a rewrite of the published record is asked for. -/
structure ChangesSource (i : Nat) (r : SourceRec) (events : List Event) (s t : State) : Prop where
  sources : t.sources = s.sources.set i r
  edits : t.composer = { s.composer with
    pendingEdits := s.composer.pendingEdits.filter (fun e => decide (e.window ∉ (s.editCalls i r.state).map (·.1))) ++
      (s.editCalls i r.state).zipIdx.map (fun p => ⟨s.composer.editSerial + p.2, p.1.2.2.1, p.1.1, p.1.2.1, p.1.2.2.2⟩)
    editSerial := s.composer.editSerial + (s.editCalls i r.state).length }
  events : HandsOn s t events (fun _ => false)
  journal : t.report.journalPart = s.report.journalPart
  publish : AsksRewrite i s t

/-- The parts a change of a source may touch. -/
def sourceParts : List Part := [.sources, .composer, .rings, .interrupt, .causes, .status]

/-- The SOURCE event of a change of source `i` from record `old` to record `r` (R91). -/
def changeEvent (i : Nat) (old r : SourceRec) (glitch : Bool) : Event :=
  sourceEvent i old.state r.state r.measuredClass glitch false

/-- A record without format, class or timer (R80, R81). -/
def SourceRec.without (r : SourceRec) (state : SourceState) (stable : Nat) (candidate : Option Measurement) : SourceRec :=
  { r with state := state, stable := stable, candidate := candidate, qualified := none, measuredClass := none, holdEnd := none }

/-- The record after a loss of the signal at time `now`, none where it does not change (R83 to R89). -/
def SourceRec.afterLoss (r : SourceRec) (now : Time) : Option SourceRec :=
  match r.state with
  | .acquiring | .overclass => some (r.without .absent 0 none)
  | .locked => some (if r.settings.lossHold = 0
      then { r.without .absent 0 none with lossCount := min 65535 (r.lossCount + 1) }
      else { r with state := .lossHold, holdEnd := some (now + r.settings.lossHold * 100000) })
  | .disabled | .absent | .lossHold => none

/-- The record once the loss hold timer expires (R86). -/
def SourceRec.holdExpired (r : SourceRec) : SourceRec :=
  { r.without .absent 0 none with lossCount := min 65535 (r.lossCount + 1) }

/-- The record of a source whose third matching frame `m` qualifies it at `rate` millihertz (R80, R81, R84). -/
def SourceRec.qualifiedBy (r : SourceRec) (m : Measurement) (rate : Nat) : SourceRec :=
  let cls := measuredClassOf m.width.toNat m.height.toNat rate
  { r with
    state := if cls ≤ r.settings.declaredClass then .locked else .overclass
    lockCount := if cls ≤ r.settings.declaredClass then min 65535 (r.lockCount + 1) else r.lockCount
    stable := 3, candidate := none, measuredClass := some cls
    qualified := some ⟨m.width.toNat, m.height.toNat, m.scan, m.tag, rate⟩ }

/-- The stable count after frame `m` in ACQUIRING (R84). -/
def SourceRec.stableAfter (r : SourceRec) (m : Measurement) : Nat :=
  match r.candidate with
  | none => 1
  | some c => if candidateMatches c m then r.stable + 1 else 1

/-- The records a source passes through when new settings are applied at an activation, one for each change of state (R77). -/
def SourceRec.settingMoves (r : SourceRec) (new : SourceSettings) : List SourceRec :=
  let r1 := { r with settings := new }
  if r.settings.enabled = false ∧ new.enabled = true then
    r1.without .absent 0 none :: (if r.activity then [r1.without .acquiring 0 none] else [])
  else if r.settings.enabled = true ∧ new.enabled = false then [r1.without .disabled 0 none]
  else if new.enabled = true ∧ r.state = .locked ∧ r.measuredClass.any (fun c => decide (new.declaredClass < c)) = true then
    [{ r1 with state := .overclass }]
  else if new.enabled = true ∧ r.state = .overclass ∧ r.measuredClass.any (fun c => decide (c ≤ new.declaredClass)) = true then
    [{ r1 with state := .locked }]
  else []

/-- The record of a source after new settings (R77). -/
def SourceRec.afterSettings (r : SourceRec) (new : SourceSettings) : SourceRec :=
  (r.settingMoves new).getLastD { r with settings := new }

/-- The SOURCE events of the moves of source `i` from record `old` on, each with the activation mark (R77, R91). -/
def settingEvents (i : Nat) : (old : SourceRec) → List SourceRec → List Event
  | _, [] => []
  | old, r :: l => sourceEvent i old.state r.state r.measuredClass false true :: settingEvents i r l

/-! Wall timing (R117 to R124). -/

/-- The good run and its intervals after an arrival at `time` in FREERUN or HOLDOVER (R118). -/
def Timing.runAfter (t : Timing) (time : Time) : Nat × List Nat :=
  match t.prevArrival with
  | none => (0, [])
  | some q => if goodInterval t.rate (time - q) then (t.goodRun + 1, t.runIntervals ++ [time - q]) else (0, [])

/-- The timing record once the eighth good interval of a run moves the state to LOCKED at `time` (R118, R121; that both runs are 0
after a move from HOLDOVER, log 49). -/
def Timing.lockedAt (t : Timing) (time : Time) : Timing :=
  let l := (t.runAfter time).2
  { t with
    ref := .locked, goodRun := 0, runIntervals := [], missingRun := 0, measured := some (meanInterval l), intervals := l
    holdoverStart := none, prevArrival := some time, prevExpected := some time, afterNext := none
    prediction := some (time + meanInterval l) }

/-- A change of reference state from `old` to `new` as the reporting unit sees it (R124). -/
structure ChangesReference (old new : RefState) (amount : Nat) (realigned shortened : Bool) (s t : State) : Prop where
  events : HandsOn s t [timingEvent old new amount realigned shortened false] (fun c => decide (c = .timingChange))
  journal : t.report.journalPart = s.report.journalPart

/-! Invariants. -/

/-- The Exchange RAM keeps its canonical form. -/
abbrev State.memoryOk (s : State) : Prop := Memory.wf s.ram

/-- A ring and what waits for it: no more entries than places, and a place left while something waits (R155). -/
abbrev Ring.roomFor (r : Ring) (waiting : List Event) : Prop :=
  r.fill ≤ r.capacity ∧ (waiting ≠ [] → r.fill < r.capacity)

/-- Both event rings are within their capacities (R155). -/
abbrev State.eventRingsOk (s : State) : Prop :=
  s.report.urgent.roomFor s.report.urgentQueue ∧ s.report.routine.roomFor s.report.routineQueue

/-- A source record has a qualified format exactly in LOCKED, OVERCLASS and LOSS_HOLD (R80), and a running loss hold timer
exactly in LOSS_HOLD (R86). -/
abbrev SourceRec.ok (r : SourceRec) : Prop :=
  ((r.state = .locked ∨ r.state = .overclass ∨ r.state = .lossHold) ↔ r.qualified.isSome = true) ∧
    (r.state = .lossHold ↔ r.holdEnd.isSome = true)

/-- What is left of an access that is partly served stands at the head of the queue: the blocks of a read already read belong to a
read there, the mark of a lost byte to a write there (R177, R184). In STARTING the port is not served (R183). -/
structure State.portOk (s : State) : Prop where
  read : s.port.partRead ≠ [] → ∃ offset length, s.port.waiting.head? = some (.bar0Read offset length)
  lost : s.port.partLost = true → ∃ offset data, s.port.waiting.head? = some (.bar0Write offset data)
  starting : s.modes.mode = .starting → s.port.partRead = [] ∧ s.port.partLost = false

/-- Every source record is as R80 and R86 say. -/
abbrev State.sourcesOk (s : State) : Prop := ∀ r ∈ s.sources, r.ok

/-- The modes in which no configuration need be captured (R126, R127, R131). -/
def Mode.early : Mode → Bool
  | .starting | .config | .activating => true
  | .run | .hold | .fallback | .quiescing | .quiesced => false

/-- Minimum size of section `n` under a captured configuration (R133, R193). -/
def Captured.minimum (c : Captured) : Nat → Nat
  | 1 => 2080
  | 2 => 12800
  | 3 => 320
  | 4 => 4160
  | 5 => 64 + 272 * (c.cols * c.rows)
  | 6 => 1472
  | 7 => 320
  | 8 => 64 + 32 * c.journal.capacity
  | 9 => 64 + 16 * c.urgent.capacity
  | _ => 64 + 16 * c.routine.capacity

/-- The sections of a captured map are placed as R133 and R178 say: ten of them inside the RAM, at multiples of 64, each of its
minimum size at least, none meeting another or the configuration section. -/
structure Captured.placed (c : Captured) : Prop where
  ten : c.map.length = 10
  inside : ∀ n, 1 ≤ n → n ≤ 10 → (sectionOf c.map n).start + (sectionOf c.map n).size ≤ Config.ramSize
  aligned : ∀ n, 1 ≤ n → n ≤ 10 → (sectionOf c.map n).start % 64 = 0
  minimum : ∀ n, 1 ≤ n → n ≤ 10 → c.minimum n ≤ (sectionOf c.map n).size
  config : ∀ n, 1 ≤ n → n ≤ 10 → 4096 ≤ (sectionOf c.map n).start
  apart : ∀ k n, 1 ≤ k → k < n → n ≤ 10 →
    (sectionOf c.map k).start + (sectionOf c.map k).size ≤ (sectionOf c.map n).start ∨
      (sectionOf c.map n).start + (sectionOf c.map n).size ≤ (sectionOf c.map k).start

/-- The mode controller in order: an activation in progress exactly in ACTIVATING (R131), with reads left only during its checks
(R132), the supervision timer running only in
RUN and HOLD (R144), a captured configuration in every mode that an activation leads to (R131), and the sections of a capture
placed as the activation checks ask (R133, R178). -/
structure State.modeOk (s : State) : Prop where
  progress : s.modes.progress ≠ .none ↔ s.modes.mode = .activating
  reading : s.modes.reading = true → s.modes.progress ≠ .none ∧ ∀ c p, s.modes.progress ≠ .passed c p
  supervision : s.modes.supervision ≠ none → s.modes.mode = .run ∨ s.modes.mode = .hold
  captured : s.modes.mode.early = false → s.modes.captured ≠ none
  placed : ∀ c, s.modes.captured = some c → c.placed
  read : ∀ image, s.modes.progress = .checking image → image.map.length = 10
  passed : ∀ c p, s.modes.progress = .passed c p → c.placed

/-- The number of slots that are POSTED or BUILDING. -/
def State.busyCount (s : State) : Nat := s.takes.slots.countP (fun r => decide (r.state ≠ .idle))

/-- The modes in which no slot is POSTED or BUILDING (R43). -/
def Mode.slotsIdle : Mode → Bool
  | .starting | .config | .activating | .fallback | .quiesced => true
  | .run | .hold | .quiescing => false

/-- The modes in which a build may be in flight (R48, R70 to R72). -/
def Mode.mayBuild : Mode → Bool
  | .run | .fallback | .quiescing => true
  | .starting | .config | .activating | .hold | .quiesced => false

/-- Every place of the journal is accounted for (R152), each entry that waits is that of one slot with a take or of the post in
hand (R43, R154; log 10), and the slots, the post in hand and the build stand to each other as R43, R48 and R52 say. -/
structure State.journalOk (s : State) : Prop where
  mode : s.modeOk
  slots : s.takes.slots.length = Config.slotCount
  reserved : s.report.journal.reserved = s.busyCount + (if s.takes.checking.isSome then 1 else 0)
  atMost : s.report.journal.reserved ≤ Config.slotCount
  room : s.report.journal.fill + s.report.journal.reserved ≤ s.report.journal.capacity
  waiting : (s.report.journalQueue.map (·.slot)).Nodup ∧ ∀ e ∈ s.report.journalQueue, e.slot < Config.slotCount ∧
    ((s.slot e.slot).state ≠ .idle ∨ s.takes.checking = some e.slot)
  checking : ∀ i, s.takes.checking = some i → i < Config.slotCount ∧ (s.slot i).state = .idle
  inHand : s.takes.checking = none → s.takes.toHandle = []
  named : ∀ i ∈ s.takes.toHandle, i < Config.slotCount
  passed : ∀ c p, s.modes.progress = .passed c p → s.takes.checking = none ∧ s.report.journalQueue = []
  idle : s.modes.mode.slotsIdle = true → ∀ i, i < Config.slotCount → (s.slot i).state = .idle
  quiescing : s.modes.mode = .quiescing → ∀ i, i < Config.slotCount → (s.slot i).state = .posted → s.finished i = true
  building : ∀ i, i < Config.slotCount →
    (((s.slot i).state = .building ∧ s.finished i = false) ↔ i ∈ s.buildSlots)
  takeList : s.buildSlots.Nodup ∧ ∀ i ∈ s.buildSlots, i < Config.slotCount
  build : s.composer.build ≠ none → s.modes.mode.mayBuild = true ∧ s.timing.planDone = true
  owed : s.composer.fallbackOwed = true → s.composer.build = none

/-- A window table keeps the rules of a layout on wall `g` with declared classes `cls`: distinct ranks (R5), protected windows on
top of what they meet (R6), at most 8 fragments and 16 fetch units on every tile (R19, R20), at most 32 scaled windows and 28
that are not protected (R14), and sources that exist (R75). -/
structure TableOk (g : Geometry) (cls : Nat → Nat) (ws : List WindowRec) : Prop where
  ranks : ∀ i j, (windowAt ws i).visible = true → (windowAt ws j).visible = true →
    (windowAt ws i).rank = (windowAt ws j).rank → i = j
  onTop : ∀ i j, i ≠ j → (windowAt ws i).visible = true → (windowAt ws i).prot = true → (windowAt ws j).visible = true →
    (windowAt ws i).rect.overlaps (windowAt ws j).rect = true → (windowAt ws j).rank < (windowAt ws i).rank
  layers : ∀ k, k < g.tiles → (touching g ws k).length ≤ 8
  fetch : ∀ k, k < g.tiles → chargeOn g cls ws k ≤ 16
  pool : (ws.filter (fun w => w.scaled)).length ≤ 32 ∧ (ws.filter (fun w => w.scaled && !w.prot)).length ≤ 28
  routed : ∀ i, (windowAt ws i).visible = true → (windowAt ws i).routed ≤ 43

/-- The scaler contexts of a window table (R14): held by the visible scaled windows and no other, numbered below 32, each by one.
-/
structure ContextsOk (ws : List WindowRec) : Prop where
  holder : ∀ i, (windowAt ws i).scaled = true ↔ (windowAt ws i).ctx ≠ none
  below : ∀ i c, (windowAt ws i).ctx = some c → c < Config.scalerContexts
  alone : ∀ i j c, (windowAt ws i).ctx = some c → (windowAt ws j).ctx = some c → i = j

/-- A tile plan is within both budgets (R20). -/
abbrev planOk (p : List Fragment) : Prop := p.length ≤ 8 ∧ (p.map (·.charge)).sum ≤ 16

/-- The declared class of a source under captured settings (R19, R75). -/
def Captured.classOf (c : Captured) (i : Nat) : Nat :=
  if i < Config.externalSources then (c.settings.getD i ⟨false, 1, none, 0⟩).declaredClass else 1

/-- The layouts in order: the live one, the draft of a build, the fallback plan in force and the one that waits for its boundary
keep the rules of a layout, of which the draft of a take whose checks have begun need keep only that its sources exist (R54);
contexts are held as R14 says in all but a draft that is not yet completed; every tile plan in force and on a port is within its
budgets (R20); the declared classes are as R19 says, each external source with its captured settings (R77); before a capture
comes into force, in CONFIG and in ACTIVATING the live layout is cleared (R24, R25); and a fallback commit is owed only where
R139 leaves it. -/
structure State.layoutOk (s : State) : Prop where
  live : TableOk s.geometry s.classOf s.composer.live.windows ∧ ContextsOk s.composer.live.windows
  draft : ∀ b, s.composer.build = some b → TableOk s.geometry s.classOf b.draft.windows ∧
    (b.status = .ready → ContextsOk b.draft.windows ∧ ∀ p ∈ b.draft.plans, planOk p) ∧
    (∀ p, b.inTake = some p → ∀ i, (windowAt p.draft.windows i).visible = true → (windowAt p.draft.windows i).routed ≤ 43)
  fallback : ∀ p, s.composer.fallbackPlan = some p → TableOk s.geometry s.classOf p ∧ ContextsOk p
  passed : ∀ c p, s.modes.progress = .passed c p → TableOk ⟨c.cols, c.rows⟩ c.classOf p ∧ ContextsOk p ∧
    ∀ r ∈ c.settings, 1 ≤ r.declaredClass
  plans : (∀ p ∈ s.composer.live.plans, planOk p) ∧ ∀ q ∈ s.ports, planOk q.plan
  external : s.modes.captured ≠ none → ∀ i, i < Config.externalSources → 1 ≤ s.classOf i
  settings : ∀ c, s.modes.captured = some c → ∀ i, i < Config.externalSources →
    (s.source i).settings = c.settings.getD i ⟨false, 1, none, 0⟩
  internal : ∀ i, Config.externalSources ≤ i → i < Config.allSources → s.classOf i = 1
  early : s.modes.mode.early = true → s.composer.live = Layout.cleared
  owed : s.composer.fallbackOwed = true → s.modes.mode.early = false ∧ s.modes.mode ≠ .quiesced

/-- A layout has 64 windows (R2) and 16 filter entries (R159). -/
abbrev Layout.sized (l : Layout) : Prop :=
  l.windows.length = Config.windowCount ∧ l.filters.length = Config.filterCount

/-- What an activation carries keeps the numbers of filter entries (R159) and of source settings (R76), and the fallback plan has
64 windows (R134). -/
def Progress.sized : Progress → Prop
  | .none => True
  | .checking image => image.filters.length = Config.filterCount ∧ image.settings.length = Config.externalSources
  | .passed capture plan => capture.filters.length = Config.filterCount ∧
      capture.settings.length = Config.externalSources ∧ plan.length = Config.windowCount

/-- Every table has its length: 16 slots (R27), 44 sources (R82), 64 windows (R2), 16 filter entries (R159), 32 ports (R16). -/
structure State.tablesOk (s : State) : Prop where
  slots : s.takes.slots.length = Config.slotCount
  sources : s.sources.length = Config.allSources
  live : s.composer.live.sized
  draft : ∀ b, s.composer.build = some b → b.draft.sized ∧ ∀ p, b.inTake = some p → p.draft.sized
  fallback : ∀ p, s.composer.fallbackPlan = some p → p.length = Config.windowCount
  progress : s.modes.progress.sized
  ports : s.ports.length = Config.tilePorts

end Sys2Proof.Machine
end

