-- ==== Sys2Proof/Certificates/Slice0/Obligations.lean ====
section
/-! DEFINITION. The statements for the provers, family by family of the command table. -/

open Sys2Proof Sys2Proof.Machine Host

/-! The step, the reset and the invariants. -/

/-- Every step takes the command at the front of the queue and runs it on the state with the queue's rest. On an empty queue it is
one tick of the model's clock: where a controller master is to have the next grant it has one (what each master does with it
stands with O49 and O51), and the port goes on with its accesses (O15). With no master asking and no access waiting nothing else
changes. The tick and its one grant are the model's choice (logs 1 and 44). -/
def Obligations.StepTakesFrontCommand : Prop :=
  (∀ (s : State) (c : Instr) (rest : List Instr), s.pending = c :: rest → step s = exec c { s with pending := rest }) ∧
  (∀ s : State, s.pending = [] → ∃ t, step s = .next t ∧
    t = (match s.grant s.portAsks with
      | some m => (({ s with now := s.now + 1 } : State).grantTo m).resume
      | none => ({ s with now := s.now + 1 } : State).resume) ∧
    t.now = s.now + 1 ∧ t.pending = [] ∧
    (s.controllerMaster = none → s.port.waiting = [] → OnlyChanges [.now] s t))

/-- What the eight registers read right after power-on reset (R129, R171, R175, R186, R187, R194): IDENT with READY 0, STATUS
with NOT_RUN and TIMING_UNLOCKED alone, every other register 0. In every state IDENT shows the constants of the part with READY 0
in STARTING and 1 in every other mode; CAUSE and CAUSEEN show the fourteen flags and enables, every other position 0; SLOTREQ,
RELEASE and every place beyond the registers read 0; and STATUS shows the nine summary bits, the mode, the
reference state, the failure code and index, and the overrun count, each as the group it stands for is (R166, R167, R194):
JOURNAL_PENDING, URGENT_PENDING and ROUTINE_PENDING while the ring holds an entry, SLOTS_BUSY while a slot is POSTED or BUILDING,
SOURCE_TROUBLE while a visible window shows a source that is not LOCKED, SUBSTITUTING while one is in BACKUP or SLATE,
TIMING_UNLOCKED, NOT_RUN, and CAUSE_PENDING while a flag is set, enabled or not; and MODECTL reads back its two stored fields
(R129). -/
def Obligations.RegistersAfterPowerOn : Prop :=
  State.reset.registerValue 0x00 = 0x84412819#32 ∧ State.reset.registerValue 0x04 = 0#32 ∧
    State.reset.registerValue 0x08 = 0x000000C0#32 ∧ State.reset.registerValue 0x0C = 0#32 ∧
    State.reset.registerValue 0x10 = 0#32 ∧ State.reset.registerValue 0x14 = 0#32 ∧
    State.reset.registerValue 0x18 = 0#32 ∧ State.reset.registerValue 0x1C = 0#32 ∧
  ∀ s : State,
    let v := s.registerValue 0x08
    let visible := s.composer.live.windows.filter (fun w => w.visible)
    s.summary = {
      journalPending := decide (s.report.journal.fill ≠ 0)
      urgentPending := decide (s.report.urgent.fill ≠ 0)
      routinePending := decide (s.report.routine.fill ≠ 0)
      slotsBusy := s.takes.slots.any (fun r => decide (r.state = .posted ∨ r.state = .building))
      sourceTrouble := visible.any (fun w => decide ((s.source w.shown).state ≠ .locked))
      substituting := visible.any (fun w => decide (w.sub = .backup ∨ w.sub = .slate))
      timingUnlocked := decide (s.timing.ref ≠ .locked)
      notRun := decide (s.modes.mode ≠ .run)
      causePending := decide (s.report.causes ≠ 0) } ∧
    (List.range 9).map (fun k => v.getLsbD k) =
      [s.summary.journalPending, s.summary.urgentPending, s.summary.routinePending, s.summary.slotsBusy, s.summary.sourceTrouble,
       s.summary.substituting, s.summary.timingUnlocked, s.summary.notRun, s.summary.causePending] ∧
    [Mode.starting, .config, .activating, .run, .hold, .fallback, .quiescing, .quiesced][(v.extractLsb' 9 3).toNat]?
      = some s.modes.mode ∧
    [RefState.freerun, .locked, .holdover][(v.extractLsb' 12 2).toNat]? = some s.timing.ref ∧
    [FailCode.none, .geometry, .rate, .planLead, .ringParam, .sectionRange, .sectionAlign, .sectionSize, .sectionOverlap,
     .sourceParam, .filterParam, .startLayout, .fallbackEntry, .fallbackLayout][(v.extractLsb' 14 4).toNat]?
      = some s.modes.failCode ∧
    v.extractLsb' 18 6 = BitVec.ofNat 6 s.modes.failIndex ∧ v.extractLsb' 24 8 = BitVec.ofNat 8 s.composer.overruns ∧
    (∀ k, (s.registerValue 0x04).getLsbD k = ((decide (k = 8) && s.modes.permit) || (decide (k = 9) && s.modes.intEnable))) ∧
    s.registerValue 0x00 = (if s.modes.mode = .starting then 0x84412819#32 else 0x84412899#32) ∧
    (∀ k, (s.registerValue 0x14).getLsbD k = (decide (k < 14) && s.report.causes.getLsbD k)) ∧
    (∀ k, (s.registerValue 0x18).getLsbD k = (decide (k < 14) && s.report.enables.getLsbD k)) ∧
    ∀ a, a = 0x0C ∨ a = 0x10 ∨ 0x20 ≤ a → s.registerValue a = 0

/-- The invariants of the statements below hold right after power-on reset. -/
def Obligations.InvariantsHoldAtReset : Prop :=
  State.reset.memoryOk ∧ State.reset.interruptOk ∧ State.reset.eventRingsOk ∧ State.reset.journalOk ∧
    State.reset.sourcesOk ∧ State.reset.modeOk ∧ State.reset.tablesOk ∧ State.reset.portOk ∧ State.reset.layoutOk

/-- Every step keeps the canonical form of the Exchange RAM: addresses strictly rising, no byte listed that reads as an unlisted
one, which is 0. Of a write of consecutive bytes each reads as written and every other byte as before; of blocks written in
order the first comes first. The list of bytes that stands for the RAM is the model's own. -/
def Obligations.MemoryStaysCanonical : Prop :=
  (∀ s t : State, s.memoryOk → step s = .next t → t.memoryOk) ∧
  (∀ s : State, s.memoryOk ↔ s.ram.Pairwise (fun c d => c.1 < d.1) ∧ ∀ c ∈ s.ram, c.2 ≠ 0) ∧
  (∀ (m : Memory) (a : Nat), (∀ c ∈ m, c.1 ≠ a) → Memory.read m a = 0) ∧
  (∀ (m : Memory) (a : Nat) (bs : List Byte) (x : Nat), Memory.read (Memory.write m a bs) x =
    if a ≤ x ∧ x < a + bs.length then bs.getD (x - a) 0 else Memory.read m x) ∧
  ∀ (m : Memory) (b : Nat × List Byte) (l : Blocks),
    Memory.writes m [] = m ∧ Memory.writes m (b :: l) = Memory.writes (Memory.write m b.1 b.2) l

/-- Every step keeps the interrupt in order (R171, R172, R188): the condition is the one the flags, the enables and the master
enable give, the legacy line follows it, and the switches are in their reset state while the link is down. The condition these
terms give is true exactly while the master enable is 1 and some flag is both set and enabled (R171); the fourteen flags are
those of R168, each at the position of its code. -/
def Obligations.InterruptFollowsItsTerms : Prop :=
  (∀ s t : State, s.interruptOk → step s = .next t → t.interruptOk) ∧
  (∀ (master : Bool) (r : Report), interruptCondition master r = true ↔ master = true ∧
    ∃ c : Cause, r.causes.getLsbD (c.code - 1) = true ∧ r.enables.getLsbD (c.code - 1) = true) ∧
  (∀ (s : State) (c : Cause), s.causeSet c = s.report.causes.getLsbD (c.code - 1)) ∧
  (∀ c : Cause, 1 ≤ c.code ∧ [Cause.fallbackEntered, .holdEntered, .activationFailed, .modeFail, .urgentWatermark,
    .journalWatermark, .routineWatermark, .overrun, .eventsLost, .slotRefused, .writeViolation, .releaseError, .timingChange,
    .modeReached][c.code - 1]? = some c)

/-- Every step keeps both event rings within their capacities (R155): an event ring never holds more entries than it has places,
and while an event waits for the ring writer there is a place for it. And what handing on one event does (R155, R159, R160,
R162): before the first successful activation it is dropped; else the first enabled entry of the live filter list that holds its
kind and its index gives the action, and where none does the default action; DISCARD changes nothing; an event for a ring joins
the entries that wait for it, but one that finds the ring full is lost: the pending gap rises by one, to at most 255, and
EVENTS_LOST is set. Several events are handed on in order (R158). That a waiting event is lost when the ring is full as its turn
comes is the model's choice (log 11, DEDUCED), not R155's, and so is that a changed gap leaves header work (log 13). -/
def Obligations.EventRingsNeverOverflow : Prop :=
  (∀ s t : State, s.eventRingsOk → step s = .next t → t.eventRingsOk) ∧
  (∀ (s : State) (e : Event), s.modes.captured = none → s.handEvent e = s) ∧
  (∀ (s : State) (e : Event) (c : Captured), s.modes.captured = some c →
    let hits := fun f : FilterEntry => f.enabled = true ∧ f.low ≤ e.index ∧ e.index ≤ f.high ∧
      ∃ k, [EventKind.source, .format, .substitute, .restore, .overrun, .mode, .timing, .supervision][k]? = some e.kind ∧
        f.kinds.getLsbD k = true
    ∃ action, ((∃ pre f post, s.composer.live.filters = pre ++ f :: post ∧ hits f ∧ (∀ g ∈ pre, ¬ hits g) ∧ action = f.action) ∨
        ((∀ f ∈ s.composer.live.filters, ¬ hits f) ∧ action = c.defaultAction)) ∧
      (action = .discard → s.handEvent e = s) ∧
      ∀ k, (action = .urgent ∧ k = .urgent) ∨ (action = .routine ∧ k = .routine) →
        let r := s.report.ring k
        let t := s.handEvent e
        let lost := s.report.queue k = [] ∧ r.capacity ≤ r.fill
        (lost → t.report.ringPart = (s.report.setRing k { r with gap := min 255 (r.gap + 1), headerPending := true }).ringPart ∧
          (∀ c, t.causeSet c = (s.causeSet c || decide (c = .eventsLost))) ∧ t.report.enables = s.report.enables ∧
          Delivers s t ∧ OnlyChanges [.rings, .interrupt, .causes] s t) ∧
        (¬ lost → t = { s with report := s.report.setQueue k (s.report.queue k ++ [e]) })) ∧
  (∀ (s : State) (e : Event) (es : List Event), s.handEvents [] = s ∧
    s.handEvents (e :: es) = (s.handEvent e).handEvents es)

/-- Every step keeps the journal's places (R152): the reserved count is the number of busy slots, one more while a post is in
hand, at most 16; the fill count plus the reserved count never exceeds the capacity; each entry that waits is that of one busy
slot or of the post in hand; no slot holds an unfinished take but as the modes and the build allow (R43, R52); and the mode
controller is in order (R126, R131, R144). The model's choices in it: that a slot stays busy and keeps its place until its entry
is counted, where no mode without busy slots comes first (log 10, DESIGN CHOICE); that no activation passes while a post is in
hand (log 40, DEDUCED) or an entry waits (log 44, DESIGN CHOICE). -/
def Obligations.JournalAlwaysHasAPlace : Prop :=
  ∀ s t : State, s.journalOk → step s = .next t → t.journalOk

/-- Every step keeps R80's rule: a source has a qualified format exactly while it is LOCKED, OVERCLASS or LOSS_HOLD, and a
running loss hold timer exactly in LOSS_HOLD. -/
def Obligations.QualifiedFormatExactlyWhileHeld : Prop :=
  ∀ s t : State, s.sourcesOk → step s = .next t → t.sourcesOk

/-- Every step keeps the mode controller in order: an activation is in progress only in ACTIVATING and always there (R131), it
has reads left only during its checks (R132), the supervision timer runs only in RUN and HOLD (R144), every mode that an
activation leads to has its captured configuration (R131), and the sections of a captured map lie apart, aligned and inside the
RAM, each of its minimum size at least (R133, R178). -/
def Obligations.ModeControllerStaysInOrder : Prop :=
  ∀ s t : State, s.modeOk → step s = .next t → t.modeOk

/-- Every step keeps the tables at their lengths: 16 slots (R27), 44 sources (R82), 64 windows (R2), 16 filter entries (R159),
32 ports (R16). Slot, source and window `i` are the records at place `i` of their tables; where a window table ends there is no
visible window. -/
def Obligations.TablesKeepTheirLength : Prop :=
  (∀ s t : State, s.tablesOk → step s = .next t → t.tablesOk) ∧
  (∀ (s : State) (i : Nat), (∀ r, s.takes.slots[i]? = some r → s.slot i = r) ∧ (∀ r, s.sources[i]? = some r → s.source i = r)) ∧
  ∀ (ws : List WindowRec) (i : Nat), (∀ w, ws[i]? = some w → windowAt ws i = w) ∧
    (ws[i]? = none → (windowAt ws i).visible = false)

/-! Resets, the end of the clear, the link. -/

/-- POWER_ON_RESET answers the state after reset, block by block: STARTING with nothing captured (R127, R146, R178); the
external sources DISABLED and empty, the internal ones LOCKED with their formats (R75, R94); FREERUN at 60.000 with a lead of 2
ms, the first boundary one nominal period after the end of the reset and its plan point before it, no reference history (R125);
sixteen slots IDLE (R47); every window, filter entry and tile plan cleared, no edit, no build, every port black (R16, R25, R74,
R96, R161); rings without places, no flag, no enable (R162, R175); the switches in their reset state (R188); and an arbiter that
serves the port first when both sides wait (R184). The part's numbers are the spec's: a RAM of 262,144 bytes (R176), 16 slots
(R26), 40 external of 44 sources (R75), 64 windows (R2), 32 ports (R16), 32 scaler contexts (R14), 16 filter entries (R159). The
model's choices: that the link is up (log 6), that the RAM reads 0 before the clear (log 8), the empty settings, that no
activity is noted and no access waits, and the time from which a lane is watched (log 9), and the clock at 0 (log 1); and its
own records go on: the queue of commands, the index of the free values, the count of messages sent and the number of activation
attempts (log 9, log 19, log 21). RAM_CLEAR_COMPLETE in STARTING then leaves every byte 0, the mode CONFIG and READY, which
IDENT shows, 1, with no event and no cause (R127, R183, R187); outside STARTING no clear is running and nothing changes (log 4).
-/
def Obligations.PowerOnResetThenClear : Prop :=
  (∀ s : State, ∃ t, exec .powerOnReset s = .next t ∧
    t = { State.reset with
      pending := s.pending
      freeIdx := s.freeIdx
      port := { State.reset.port with msiSent := s.port.msiSent }
      modes := { State.reset.modes with attempt := s.modes.attempt } }) ∧
  (State.reset.modes = { mode := .starting, progress := .none, reading := false, attempt := 0, captured := none
                         supervision := none, failCode := .none, failIndex := 0, permit := false, intEnable := false }) ∧
  (State.reset.sources.length = 44 ∧ (∀ i, i < 40 → State.reset.source i = {
      state := .disabled, settings := ⟨false, 0, none, 0⟩, stable := 0, qualified := none, measuredClass := none
      holdEnd := none, lockCount := 0, lossCount := 0, candidate := none, activity := false, framed := false, watchFrom := 0
      latest := none }) ∧
    ∀ i, 40 ≤ i → i < 44 → State.reset.source i = {
      state := .locked, settings := ⟨true, 1, none, 0⟩, stable := 3, qualified := some ⟨1920, 1080, .progressive, none, 60000⟩
      measuredClass := some 1, holdEnd := none, lockCount := 0, lossCount := 0, candidate := none, activity := false
      framed := false, watchFrom := 0, latest := none }) ∧
  (State.reset.now = 0 ∧ State.reset.timing = {
    rate := .r60000, lead := 2000, lastBoundary := 0, nextBoundary := WallRate.r60000.nominal
    nextPlan := WallRate.r60000.nominal - 20000, planDone := false, afterNext := none, frame := 0, ref := .freerun, goodRun := 0
    missingRun := 0, measured := none, intervals := [], runIntervals := [], prediction := none, prevArrival := none
    prevExpected := none, holdoverStart := none } ∧ WallRate.r60000.nominal = 166667) ∧
  (State.reset.takes.slots.length = 16 ∧ (∀ i, (State.reset.slot i).state = .idle ∧ (State.reset.slot i).seq = 0 ∧
      (State.reset.slot i).due = 0 ∧ (State.reset.slot i).cancelRequested = false ∧ (State.reset.slot i).lastRefusal = .none) ∧
    State.reset.takes.nextSeq = 0 ∧ State.reset.takes.checking = none ∧ State.reset.takes.toHandle = []) ∧
  (State.reset.composer.live = {
      windows := List.replicate 64 { visible := false, routed := 0, shown := 0, sub := .none, rect := ⟨0, 0, 0, 0⟩, rank := 0
                                     native := false, prot := false, crop := none, expectedTag := none, loss := .slate
                                     restore := .auto, ctx := none, lastCommitFrame := 0, lastTakeTag := 0 }
      plans := [], filters := List.replicate 16 { enabled := false, kinds := 0, low := 0, high := 0, action := .discard } } ∧
    State.reset.composer.epoch = 0 ∧ State.reset.composer.pendingEdits = [] ∧ State.reset.composer.build = none ∧
    State.reset.composer.overruns = 0 ∧ State.reset.composer.fallbackOwed = false ∧ State.reset.composer.fallbackPlan = none ∧
    State.reset.ports = List.replicate 32 { plan := [], output := [] }) ∧
  ((∀ k, State.reset.report.ring k = { capacity := 0, fill := 0, writeIndex := 0, releaseIndex := 0, watermark := 0, gap := 0
                                       reserved := 0, headerPending := false, initPending := false }) ∧
    State.reset.report.journalQueue = [] ∧ State.reset.report.urgentQueue = [] ∧ State.reset.report.routineQueue = [] ∧
    State.reset.report.ringJob = none ∧ State.reset.report.causes = 0 ∧ State.reset.report.enables = 0 ∧
    State.reset.report.condition = false ∧ State.reset.status = {
      toRewrite := [], headerWrites := [], job := none, windowsPending := false, plansPending := false, filtersPending := false
      slotDirty := 0, slotHeaderDirty := false, sourceDirty := 0, updateCounts := List.replicate 44 0, changeCount := 0 }) ∧
  (State.reset.port = {
      linkUp := true, pcie := { memoryDecode := false, requests := false, msi := false, legacyDisable := false }, holdArea := none
      waiting := [], completion := [], partRead := [], partLost := false, line := false, msiSent := 0 } ∧
    (∀ a, Memory.read State.reset.ram a = 0) ∧
    ∀ s : State, s.lastServed = State.reset.lastServed → s.grant true = some .exchangePort) ∧
  (Config.ramSize = 262144 ∧ Config.slotCount = 16 ∧ Config.externalSources = 40 ∧ Config.allSources = 44 ∧
    Config.windowCount = 64 ∧ Config.tilePorts = 32 ∧ Config.scalerContexts = 32 ∧ Config.filterCount = 16) ∧
  (State.reset.takes = TakeEngine.reset ∧ State.reset.composer = Composer.reset ∧ State.reset.composer.live = Layout.cleared ∧
    State.reset.status = StatusWriter.reset ∧ State.reset.port.pcie = pcieReset ∧
    TilePort.black = { plan := [], output := [] }) ∧
  (∀ s : State, s.modes.mode = .starting → ∃ t, exec .ramClearComplete s = .next t ∧
    (∀ a, Memory.read t.ram a = 0) ∧ t.modes = { s.modes with mode := .config } ∧ (t.registerValue 0x00).getLsbD 7 = true ∧
    OnlyChanges [.ram, .lastServed, .modes] s t) ∧
  (∀ s : State, s.modes.mode ≠ .starting → exec .ramClearComplete s = .next s)

/-- LINK_RESET of each cause takes the link down, drops the waiting accesses, resets the switches, clears the flags, the enables
and the two stored MODECTL fields, finishes every busy take ABANDONED in ascending slot order with one journal entry each, and
restarts a build without takes, from the live layout with the same edits applied anew (R52, R53, R73; O39); with the waiting
accesses goes what is left of one that is partly served (R188); no message goes out (R175, R188); the mode, the supervision
timer, the layout, the sources, the timing and the event rings stay (R46, R73, R125, R147, R165, R175, R188). A POST in hand is
completed first, slot by slot: the checks of the slot in hand end as O27 says, an entry that ends one is written as O50 says, and
the take engine goes on with the slots named; its entries stand before those of the abandoned takes. That a slot of an abandoned
take becomes IDLE only when its entry is counted is the model's choice (log 10), and so is that the entries which end a POST in
hand are written inside the reset (log 38). -/
def Obligations.LinkResetAbandonsTakes : Prop :=
  (∀ (s : State) (cause : LinkResetCause), s.takes.slots.length = Config.slotCount → ∃ t, exec (.linkReset cause) s = .next t ∧
    let p : State := { s with port := { s.port with
      linkUp := false, pcie := pcieReset, waiting := [], partRead := [], partLost := false } }
    let m := p.completePosts (2 * (s.takes.toHandle.length + 1))
    t.port.linkUp = false ∧ t.port.pcie = pcieReset ∧ t.port.waiting = [] ∧ t.port.partRead = [] ∧
    t.port.partLost = false ∧ t.port.line = false ∧ t.port.msiSent = s.port.msiSent ∧
    t.report.causes = 0 ∧ t.report.enables = 0 ∧ t.report.condition = false ∧
    t.modes = { s.modes with permit := false, intEnable := false } ∧
    t.composer.live = s.composer.live ∧ t.composer.epoch = s.composer.epoch ∧ t.composer.overruns = s.composer.overruns ∧
    t.composer.pendingEdits = s.composer.pendingEdits ∧ t.composer.fallbackOwed = s.composer.fallbackOwed ∧
    t.composer.fallbackPlan = s.composer.fallbackPlan ∧
    t.composer.build = s.composer.build.map (fun b => s.newBuild b.target (b.attempt + 1) (b.edits.map (·.1)) []) ∧
    (∀ i, i < Config.slotCount → (t.slot i).state ≠ .idle → t.finished i = true) ∧
    ((s.takes.checking = none → s.takes.toHandle = []) → t.takes.checking = none ∧ t.takes.toHandle = []) ∧
    t.report.eventPart = s.report.eventPart ∧
    t.takes = m.takes ∧ t.ram = m.ram ∧ t.status = m.status ∧
    t.report.journalPart = (m.report.handed (((List.range Config.slotCount).filter
      (fun i => decide ((m.slot i).state ≠ .idle) && !m.finished i)).map
        (fun i => m.entryOf i (plainOutcome .abandoned) (m.slot i).cancelRequested none))).journalPart ∧
    (s.takes.checking = none → m = p) ∧
    OnlyChanges [.ram, .lastServed, .link, .waiting, .blocks, .interrupt, .takes, .composer, .modes, .rings, .causes, .status] s t) ∧
  (∀ (s : State) (n : Nat), (s.takes.checking = none → s.completePosts n = s) ∧
    ∀ i, s.takes.checking = some i →
      (s.finished i = true → s.completePosts (n + 1) = s.journalDone.completePosts n) ∧
      (s.finished i = false → s.completePosts (n + 1) = s.continuePosts.completePosts n)) ∧
  (∀ (s : State) (target : Word) (attempt : Nat) (edits : List Edit) (takes : List Nat),
    let r := s.resolveEdits s.composer.live.windows edits
    s.newBuild target attempt edits takes = {
      status := .running, target := target, attempt := attempt
      draft := { windows := r.1, plans := s.composer.live.plans, filters := s.composer.live.filters }
      edits := r.2, takes := takes.map (fun i => ⟨i, none⟩), inTake := none, named := [] })

/-- SOFT_RESET outside STARTING (R25, R47, R64, R74, R95, R137, R146, R164, R175, R189): CONFIG with no event, an activation
dropped, supervision stopped, failure code and stored fields 0, the captured configuration kept; every slot IDLE and the post
sequence 0; the live layout and the pending list cleared, no build, nothing owed, no fallback plan; the rings empty at their
capacities; flags and enables 0; every port black; the sources, the timing, the link and the arbiter as they were. Under a
captured map the five sections of the status writer are to be rewritten whole with all counts 0, every ring is to be cleared with
its header, and header writes not yet granted are dropped (R185); what is then written stands with O49 and O51. That it is
written only at the grants and commands that follow is the model's choice (logs 15 and 44). In STARTING it only stores the two
fields (R127, R129). -/
def Obligations.SoftResetReturnsToConfig : Prop :=
  (∀ (s : State) (w : PermitWrite), s.accepts (.softReset w) → s.modes.mode ≠ .starting → ∃ t, exec (.softReset w) s = .next t ∧
    t.modes = { s.modes with mode := .config, progress := .none, reading := false, supervision := none, failCode := .none,
                             failIndex := 0, permit := false, intEnable := false } ∧
    t.takes = TakeEngine.reset ∧ t.composer = { Composer.reset with editSerial := s.composer.editSerial } ∧
    (∀ r, (t.report.ring r).fill = 0 ∧ (t.report.ring r).writeIndex = 0 ∧ (t.report.ring r).releaseIndex = 0 ∧
      (t.report.ring r).gap = 0 ∧ (t.report.ring r).reserved = 0 ∧
      (t.report.ring r).capacity = (s.report.ring r).capacity ∧ (t.report.ring r).watermark = (s.report.ring r).watermark ∧
      (t.report.ring r).initPending = s.modes.captured.isSome ∧ t.report.queue r = []) ∧ t.report.journalQueue = [] ∧
    t.report.ringJob = none ∧
    t.report.causes = 0 ∧ t.report.enables = 0 ∧ t.report.condition = false ∧
    t.port.line = false ∧ t.port.msiSent = s.port.msiSent ∧ t.port.holdArea = none ∧
    t.ports = s.ports.map (fun _ => TilePort.black) ∧
    t.status = (if s.modes.captured = none then s.status else { StatusWriter.reset with toRewrite := [3, 4, 5, 6, 7] }) ∧
    OnlyChanges [.holdArea, .interrupt, .takes, .composer, .ports, .modes, .rings, .causes, .status] s t) ∧
  (∀ (s : State) (w : PermitWrite), s.accepts (.softReset w) → s.modes.mode = .starting →
    ∃ t, exec (.softReset w) s = .next t ∧ t.modes = { s.modes with permit := w.permit, intEnable := w.intEnable } ∧
    t.report.causes = s.report.causes ∧ t.report.enables = s.report.enables ∧ Delivers s t ∧
    OnlyChanges [.modes, .interrupt, .causes] s t)

/-- PCIE_CONFIG_CHANGE while the link is up sets the four switches; it sends no message and moves the legacy line as the new
switches allow; LINK_RETURN brings the link up and sends nothing (R172, R188). That the line moves and no message goes out at a
change of any switch is the model's choice (log 25, DEDUCED): R172 speaks of a change of the MSI setting. While the link is down
the host reaches no switch (log 37). -/
def Obligations.SwitchesAndLinkReturn : Prop :=
  (∀ (s : State) (p : PcieSwitches), s.port.linkUp = true → ∃ t, exec (.pcieConfigChange p) s = .next t ∧
    t.port = { s.port with pcie := p, line := s.report.condition && !p.msi && !p.legacyDisable } ∧
    OnlyChanges [.link, .interrupt] s t) ∧
  (∀ (s : State) (p : PcieSwitches), s.port.linkUp = false → exec (.pcieConfigChange p) s = .next s) ∧
  (∀ s : State, ∃ t, exec .linkReturn s = .next t ∧ t.port = { s.port with linkUp := true } ∧ OnlyChanges [.link] s t)

/-! Driver accesses: the order in which the port takes them, and the Exchange RAM. -/

/-- The port takes driver accesses in the order of their arrival (R37, R176, R177, R181, R184). One that it does not claim
changes nothing; one that arrives joins the queue, and the port goes on with that. The head waits while the refusal checks of a
POST are not finished, while it is a SLOTREQ write and an earlier one is still being handled, or while it is a write into the
held area; and an access to BAR0 waits for a grant, but for a write that lies wholly in the controller-owned sections, which
delays no controller master (R182). While no controller master asks, every grant is the port's and an access is served whole;
else, when the port was served last, it waits, and when a controller master was, its first 64-byte block is served and the rest
stays at the head; of a write, the blocks wholly in the controller-owned sections around that block take no grant and are
discarded with it (R182). Of the masters that ask the arbiter serves the first of ring writer, commit writer, take reader and
status writer, and between them and the port the side not served last. Within one command a controller master writes its blocks
one by one, and before each an access that waits and asks has one block served, where the controller side was served last: it
waits for no more than one grant of a controller master. The model's choices: that an access is served whole, as of one moment,
while no controller master asks, and its first block on arrival where the controller side was served last (log 16), that a block
which lies wholly in the controller-owned sections takes no grant, and every other one does (log 48), and how the grants of one
command stand beside its event (log 44). -/
def Obligations.AccessesTakenInOrder : Prop :=
  (∀ (s : State) (i : Instr), isAccess i = true →
    (∀ offset data, i = .bar0Write offset data → 0 < data.length ∧ offset + data.length ≤ 262144) →
    (∀ offset length, i = .bar0Read offset length → 0 < length ∧ offset + length ≤ 262144) →
    (s.claims = false → exec i s = .next s) ∧
    (s.claims = true → exec i s = .next (drain (s.port.waiting ++ [i]) s)) ∧
    (s.claims = true →
      (∀ j ∈ (s.port.waiting ++ [i]).head?, s.blocked j = true ∨ s.serving j = .waits) →
      ∃ t, exec i s = .next t ∧ t.port.waiting = s.port.waiting ++ [i] ∧ OnlyChanges [.waiting] s t)) ∧
  (∀ (s : State) (q : List Instr), (s.claims = true ↔ s.port.linkUp = true ∧ s.port.pcie.memoryDecode = true) ∧
    s.setWaiting q = { s with port := { s.port with waiting := q } } ∧ s.grantTo .exchangePort = s) ∧
  (∀ (s : State) (i : Instr) (r : List Instr), drain [] s = s.setWaiting [] ∧
    (s.blocked i = true → drain (i :: r) s = s.setWaiting (i :: r)) ∧
    (s.blocked i = false → s.serving i = .waits → drain (i :: r) s = s.setWaiting (i :: r)) ∧
    (s.blocked i = false → s.serving i = .whole → drain (i :: r) s = drain r (takeAccess i (s.setWaiting []))) ∧
    (∀ first rest, s.blocked i = false → s.serving i = .part first rest →
      drain (i :: r) s = (servePart first s).setWaiting (rest :: r)) ∧
    s.resume = drain s.port.waiting s) ∧
  (∀ (s : State) (i : Instr), s.blocked i = true ↔ s.takes.toHandle ≠ [] ∨
    (((∃ m, i = .post m) ∨ (∃ m, i = .cancel m) ∨ ∃ a m, i = .slotreqNoAction a m) ∧ s.takes.checking ≠ none) ∨
    ∃ offset data c a, i = .bar0Write offset data ∧ s.port.holdArea = some c ∧ c.start ≤ a ∧ a < c.start + c.size ∧
      offset ≤ a ∧ a < offset + data.length) ∧
  (∀ s : State,
    let alone := s.modes.mode = .starting ∨ s.controllerMaster = none
    (∀ offset data, let k := s.grantSpan offset data.length
      let owned := (List.range data.length).all (fun i => s.controllerOwns (offset + i))
      s.serving (.bar0Write offset data) = if alone ∨ owned = true then .whole else if s.lastServed = .exchangePort then .waits
        else if k < data.length then .part (.bar0Write offset (data.take k)) (.bar0Write (offset + k) (data.drop k))
        else .whole) ∧
    (∀ offset length, let k := 64 - offset % 64
      s.serving (.bar0Read offset length) = if alone then .whole else if s.lastServed = .exchangePort then .waits
        else if k < length then .part (.bar0Read offset k) (.bar0Read (offset + k) (length - k)) else .whole) ∧
    (∀ i, (∀ offset data, i ≠ .bar0Write offset data) → (∀ offset length, i ≠ .bar0Read offset length) →
      s.serving i = .whole) ∧
    (s.portAsks = true ↔ s.modes.mode ≠ .starting ∧ ∃ i, s.port.waiting.head? = some i ∧ s.blocked i = false ∧
      ((∃ offset data k, i = .bar0Write offset data ∧ k < data.length ∧ s.controllerOwns (offset + k) = false) ∨
        ∃ offset length, i = .bar0Read offset length))) ∧
  (∀ (s : State) (offset n : Nat), OneGrant s offset n (s.grantSpan offset n)) ∧
  (∀ s : State,
    let rings := s.map ≠ none ∧ ∃ k, (s.report.ring k).initPending = true ∨ (s.report.ring k).headerPending = true ∨
      s.report.waitingFor k ≠ 0
    let commit := s.modes.mode = .starting ∨ s.status.headerWrites ≠ []
    let reader := (∃ i, s.takes.checking = some i ∧ s.finished i = false) ∨
      (∃ b, s.composer.build = some b ∧ b.status = .running ∧ ∃ k ∈ b.takes, k.result = none) ∨ s.modes.reading = true
    let writer := s.map ≠ none ∧ (s.status.toRewrite ≠ [] ∨ (∃ k, s.status.rewriting k = true) ∨
      s.status.slotHeaderDirty = true ∨ s.status.slotDirty ≠ 0 ∨ s.status.sourceDirty ≠ 0)
    (rings → s.controllerMaster = some .ringWriter) ∧
    (¬ rings → commit → s.controllerMaster = some .commitWriter) ∧
    (¬ rings → ¬ commit → reader → s.controllerMaster = some .takeReader) ∧
    (¬ rings → ¬ commit → ¬ reader → writer → s.controllerMaster = some .statusWriter) ∧
    (¬ rings → ¬ commit → ¬ reader → ¬ writer → s.controllerMaster = none) ∧
    (s.readerGranted = true ↔ ¬ rings) ∧ (s.writerGranted = true ↔ ¬ rings ∧ ¬ reader) ∧
    s.grant false = s.controllerMaster ∧
    (s.controllerMaster = none → s.grant true = some .exchangePort) ∧
    (s.controllerMaster ≠ none → s.grant true =
      if s.lastServed = .exchangePort then s.controllerMaster else some .exchangePort)) ∧
  (∀ s : State, (s.portAsks = false ∨ s.lastServed ≠ .controller → s.portTurn = s) ∧
    (s.portAsks = true → s.lastServed = .controller →
      (∀ offset data r, s.port.waiting = .bar0Write offset data :: r → let k := s.grantSpan offset data.length
        s.portTurn = if k < data.length
          then (servePart (.bar0Write offset (data.take k)) s).setWaiting (.bar0Write (offset + k) (data.drop k) :: r)
          else takeAccess (.bar0Write offset data) (s.setWaiting r)) ∧
      (∀ offset length r, s.port.waiting = .bar0Read offset length :: r → let k := 64 - offset % 64
        s.portTurn = if k < length
          then (servePart (.bar0Read offset k) s).setWaiting (.bar0Read (offset + k) (length - k) :: r)
          else takeAccess (.bar0Read offset length) (s.setWaiting r)))) ∧
  (∀ (s : State) (a : Nat) (bs : List Byte) (l : Blocks), s.ctlRead = { s.portTurn with lastServed := .controller } ∧
    s.ctlWrites [] = s ∧
    s.ctlWrites ((a, bs) :: l) =
      ({ s.portTurn with ram := Memory.write s.portTurn.ram a bs, lastServed := .controller } : State).ctlWrites l ∧
    (s.portAsks = false →
      s.ctlWrites l = { s with ram := Memory.writes s.ram l, lastServed := if l = [] then s.lastServed else .controller })) ∧
  (∀ s t : State, s.portOk → step s = .next t → t.portOk)

/-- A driver write stores, block by block, each byte of which the driver is the writer, and leaves every other byte of the
Exchange RAM; when its last byte has been stored or discarded, WRITE_VIOLATION is set once if a byte was lost, and no other flag
changes (R177, R180, R182, R184), the interrupt delivered (R171, R172). BAR0_WRITE serves the access whole when no controller
master asks for a grant, when it lies wholly in the controller-owned sections, or when the port was not served last and the
access needs one grant alone; a longer one is then served what its first grant does (O15), and the rest waits; after a grant to
the port it waits whole (R184). A write that lies wholly in the controller-owned sections takes no grant: which side was served
last stays, so that it delays no controller master (R182). In STARTING a write is discarded whole and sets WRITE_VIOLATION
(R127, R183). The model's choices: that a write is served whole while no controller master asks, and its first block on arrival,
and that who may write a byte is decided when its block is stored, where R180 says "when it takes the write" (log 16), and that
of the blocks of a write those wholly in the controller-owned sections take no grant, and every other one does (log 48). One
that names no byte, or a byte outside the 262,144, stops with a fault (R176; the model's choice, log 30). -/
def Obligations.Bar0WriteStoresDriverBytes : Prop :=
  (∀ (s : State) (offset : Nat) (data : List Byte), s.modes.mode ≠ .starting → ∀ whole : Bool,
    let t := if whole then takeAccess (.bar0Write offset data) s else servePart (.bar0Write offset data) s
    let lost := s.port.partLost || (List.range data.length).any (fun k => !s.driverMayWrite (offset + k))
    let owned := (List.range data.length).all (fun k => s.controllerOwns (offset + k))
    (∀ k, k < data.length → Memory.read t.ram (offset + k) =
      if s.driverMayWrite (offset + k) then data.getD k 0 else Memory.read s.ram (offset + k)) ∧
    SameOutside s t offset data.length ∧ t.lastServed = (if owned then s.lastServed else .exchangePort) ∧
    t.port.partRead = s.port.partRead ∧ t.port.partLost = (!whole && lost) ∧
    (∀ c, t.causeSet c = (s.causeSet c || (decide (c = .writeViolation) && whole && lost))) ∧
    t.report.enables = s.report.enables ∧ KeepsDelivery s t ∧
    OnlyChanges [.ram, .lastServed, .blocks, .interrupt, .causes] s t) ∧
  (∀ (s : State) (offset : Nat) (data : List Byte), s.portOk → s.accepts (.bar0Write offset data) →
    s.modes.mode ≠ .starting → 0 < data.length → offset + data.length ≤ Config.ramSize →
    let owned := (List.range data.length).all (fun k => s.controllerOwns (offset + k))
    s.controllerMaster = none ∨ owned = true ∨
      (s.lastServed ≠ .exchangePort ∧ s.grantSpan offset data.length = data.length) →
    ∃ t, exec (.bar0Write offset data) s = .next t ∧
    (∀ k, k < data.length → Memory.read t.ram (offset + k) =
      if s.driverMayWrite (offset + k) then data.getD k 0 else Memory.read s.ram (offset + k)) ∧
    SameOutside s t offset data.length ∧
    (∀ c, t.causeSet c = (s.causeSet c || (decide (c = .writeViolation) &&
      (List.range data.length).any (fun k => !s.driverMayWrite (offset + k))))) ∧
    t.report.enables = s.report.enables ∧ t.lastServed = (if owned then s.lastServed else .exchangePort) ∧
    KeepsDelivery s t ∧ OnlyChanges [.ram, .lastServed, .interrupt, .causes] s t) ∧
  (∀ (s : State) (offset : Nat) (data : List Byte), s.portOk → s.accepts (.bar0Write offset data) →
    s.modes.mode ≠ .starting → offset + data.length ≤ Config.ramSize → s.controllerMaster ≠ none →
    s.lastServed ≠ .exchangePort → s.grantSpan offset data.length < data.length →
    ∃ t, exec (.bar0Write offset data) s = .next t ∧
    let n := s.grantSpan offset data.length
    (∀ k, k < n → Memory.read t.ram (offset + k) =
      if s.driverMayWrite (offset + k) then data.getD k 0 else Memory.read s.ram (offset + k)) ∧
    SameOutside s t offset n ∧ t.port.waiting = [.bar0Write (offset + n) (data.drop n)] ∧
    t.port.partRead = [] ∧ t.port.partLost = (List.range n).any (fun k => !s.driverMayWrite (offset + k)) ∧
    t.lastServed = .exchangePort ∧ OnlyChanges [.ram, .lastServed, .waiting, .blocks] s t) ∧
  (∀ (s : State) (offset : Nat) (data : List Byte), s.accepts (.bar0Write offset data) → s.modes.mode ≠ .starting →
    offset + data.length ≤ Config.ramSize → s.controllerMaster ≠ none → s.lastServed = .exchangePort →
    (∃ k, k < data.length ∧ s.controllerOwns (offset + k) = false) →
    ∃ t, exec (.bar0Write offset data) s = .next t ∧ t.port.waiting = [.bar0Write offset data] ∧
    OnlyChanges [.waiting] s t) ∧
  (∀ (s : State) (offset : Nat) (data : List Byte), s.accepts (.bar0Write offset data) → s.modes.mode = .starting →
    0 < data.length → offset + data.length ≤ Config.ramSize → ∃ t, exec (.bar0Write offset data) s = .next t ∧
    (∀ c, t.causeSet c = (s.causeSet c || decide (c = .writeViolation))) ∧ t.report.enables = s.report.enables ∧
    Delivers s t ∧ OnlyChanges [.interrupt, .causes] s t) ∧
  (∀ (s : State) (offset : Nat) (data : List Byte), data = [] ∨ Config.ramSize < offset + data.length →
    exec (.bar0Write offset data) s = .fault .outsideBar0)

/-- A driver read of BAR0 reads each of its blocks as it stands when that block is served, whoever owns the bytes, and completes
with all of them in order once the last is read; in STARTING it returns 0; it changes nothing but what the arbiter served last
(R127, R176, R177, R182, R184). BAR0_READ serves the access whole, as of one moment, when no controller master asks for a grant,
or when the port was not served last and the access lies in one 64-byte block; of a longer one it then reads the first block, and
the rest waits, behind a controller write; after a grant to the port it waits whole (R184). That a read is served whole while no
controller master asks, and its first block on arrival, is the model's choice (log 16). One that names no byte, or a byte
outside the 262,144, stops with a fault (R176; the model's choice, log 30). -/
def Obligations.Bar0ReadReturnsBytes : Prop :=
  (∀ (s : State) (offset length : Nat), s.modes.mode ≠ .starting → ∀ whole : Bool,
    let t := if whole then takeAccess (.bar0Read offset length) s else servePart (.bar0Read offset length) s
    let read := s.port.partRead ++ (List.range length).map (fun k => Memory.read s.ram (offset + k))
    t.port.completion = (if whole then read else s.port.completion) ∧ t.port.partRead = (if whole then [] else read) ∧
    t.port.partLost = s.port.partLost ∧ t.lastServed = .exchangePort ∧
    OnlyChanges [.completion, .lastServed, .blocks] s t) ∧
  (∀ (s : State) (offset length : Nat), s.portOk → s.accepts (.bar0Read offset length) → 0 < length →
    offset + length ≤ Config.ramSize → s.modes.mode = .starting ∨ s.controllerMaster = none ∨
      (s.lastServed ≠ .exchangePort ∧ length ≤ 64 - offset % 64) →
    ∃ t, exec (.bar0Read offset length) s = .next t ∧
    t.port.completion = (if s.modes.mode = .starting then List.replicate length 0
      else (List.range length).map (fun k => Memory.read s.ram (offset + k))) ∧
    t.lastServed = (if s.modes.mode = .starting then s.lastServed else .exchangePort) ∧
    OnlyChanges [.completion, .lastServed] s t) ∧
  (∀ (s : State) (offset length : Nat), s.portOk → s.accepts (.bar0Read offset length) → offset + length ≤ Config.ramSize →
    s.modes.mode ≠ .starting → s.controllerMaster ≠ none → s.lastServed ≠ .exchangePort → 64 - offset % 64 < length →
    ∃ t, exec (.bar0Read offset length) s = .next t ∧
    let n := 64 - offset % 64
    t.port.partRead = (List.range n).map (fun k => Memory.read s.ram (offset + k)) ∧ t.port.partLost = false ∧
    t.port.waiting = [.bar0Read (offset + n) (length - n)] ∧ t.lastServed = .exchangePort ∧
    OnlyChanges [.lastServed, .waiting, .blocks] s t) ∧
  (∀ (s : State) (offset length : Nat), s.accepts (.bar0Read offset length) → s.modes.mode ≠ .starting →
    0 < length → offset + length ≤ Config.ramSize → s.controllerMaster ≠ none → s.lastServed = .exchangePort →
    ∃ t, exec (.bar0Read offset length) s = .next t ∧ t.port.waiting = [.bar0Read offset length] ∧
    OnlyChanges [.waiting] s t) ∧
  (∀ (s : State) (offset length : Nat), length = 0 ∨ Config.ramSize < offset + length →
    exec (.bar0Read offset length) s = .fault .outsideBar0)

/-- Where the driver is the writer (R179, R180), area by area and mode by mode: nothing in STARTING; the configuration section
in CONFIG alone; the rest of the RAM before the first success; and under a captured map the fallback record in CONFIG alone, no
byte of the fallback record that a configuration being checked names, no controller-owned section, a take slot in CONFIG and in
ACTIVATING whatever its state, and in every other mode while it is IDLE with no post of it in hand, and all other bytes, the
scratch, always. The bytes that take no grant when they are written (R182; O15) are those of a controller-owned section of the
captured map, which are not the driver's. That in CONFIG and ACTIVATING a slot with a post in hand is the driver's as well is
the model's choice (log 39). -/
def Obligations.WriteOwnershipTable : Prop :=
  (∀ (m : SectionMap) (n : Nat) (c : Section), 1 ≤ n → m[n - 1]? = some c → sectionOf m n = c) ∧
  (∀ (c : Section) (a : Nat), c.holds a = true ↔ c.start ≤ a ∧ a < c.start + c.size) ∧
  (∀ s : State, s.map = s.modes.captured.map (·.map)) ∧
  ∀ (s : State) (a : Nat), s.modeOk →
    (s.controllerOwns a = true ↔ s.driverMayWrite a = false ∧
      ∃ c n, s.modes.captured = some c ∧ 3 ≤ n ∧ n ≤ 10 ∧ (sectionOf c.map n).holds a = true) ∧
    (s.modes.mode = .starting → s.driverMayWrite a = false) ∧
    (s.modes.mode ≠ .starting → a < 4096 → s.driverMayWrite a = decide (s.modes.mode = .config)) ∧
    (s.modes.mode ≠ .starting → 4096 ≤ a → s.modes.captured = none → s.driverMayWrite a = true) ∧
    (∀ c, s.modes.mode ≠ .starting → 4096 ≤ a → s.modes.captured = some c →
      let fallback := (sectionOf c.map 1).holds a = true
      let checked := (∃ image, s.modes.progress = .checking image ∧ (sectionOf image.map 1).holds a = true) ∨
        ∃ d p, s.modes.progress = .passed d p ∧ (sectionOf d.map 1).holds a = true
      let controller := ∃ n, 3 ≤ n ∧ n ≤ 10 ∧ (sectionOf c.map n).holds a = true
      let inSlot := fun i => (sectionOf c.map 2).start + 800 * i ≤ a ∧ a < (sectionOf c.map 2).start + 800 * (i + 1)
      (fallback → s.driverMayWrite a = decide (s.modes.mode = .config)) ∧
      (checked → s.driverMayWrite a = false) ∧
      (controller → s.driverMayWrite a = false) ∧
      (∀ i, i < Config.slotCount → inSlot i → ¬ checked →
        (s.driverMayWrite a = true ↔ s.modes.mode = .config ∨ s.modes.mode = .activating ∨
          ((s.slot i).state = .idle ∧ s.takes.checking ≠ some i))) ∧
      (¬ fallback → ¬ checked → ¬ controller → (∀ i, i < Config.slotCount → ¬ inSlot i) → s.driverMayWrite a = true))

/-- FALLBACK_RECORD_READ_DONE, while an activation still has to read and the take reader is granted (R184), ends the hold and the
reads; then the accesses that wait, held writes among them, are taken in order as far as the first that has to wait (R132, R181;
O15): a held write at the head that need not wait for a grant is stored (O16). With nothing waiting nothing else changes. The
commit writer's header writes come first (R184, R185; O44), and the read has its turn after a waiting access (O15). With no
activation reading, or while the take reader is not granted, it does nothing (log 4). That its reads stand behind a post in hand
is the model's choice (log 40), and so is that the reads of one activation end with this one event or with its checks (log 44).
-/
def Obligations.FallbackReadReleasesHeldWrite : Prop :=
  (∀ s : State, s.modes.reading = true → s.takes.checking = none → s.readerGranted = true →
    let m := s.commitDone.ctlRead
    ∃ u, exec .fallbackRecordReadDone s = .next u.resume ∧ u.lastServed = .controller ∧
    u = { m with modes := { s.modes with reading := false }, port := { m.port with holdArea := none } } ∧
    (m.port.waiting = [] → exec .fallbackRecordReadDone s = .next u) ∧
    ∀ offset data r, m.port.waiting = .bar0Write offset data :: r → s.takes.toHandle = [] → s.modes.mode ≠ .starting →
      u.controllerMaster = none ∨ u.grantSpan offset data.length = data.length →
      u.resume = drain r (takeAccess (.bar0Write offset data) (u.setWaiting []))) ∧
  (∀ s : State, s.modes.reading = false ∨ s.takes.checking ≠ none ∨ s.readerGranted = false →
    exec .fallbackRecordReadDone s = .next s)

/-! MODECTL (R127, R129, R130). -/

/-- The writes that only store OVERRIDE_PERMIT and INT_ENABLE, and SERVE, which serves supervision besides: nothing else of the
mode controller changes, no flag does, and the interrupt condition is evaluated again (R129, R144, R171). REQUEST_INVALID stores
the fields and sets MODE_FAIL, the interrupt delivered (R172); in STARTING it only stores them (R127, R130). -/
def Obligations.ModectlStoresFieldsAndServes : Prop :=
  (∀ (s : State) (w : PermitWrite),
    (∀ i, i = .overridePermit w ∨ i = .intEnable w → s.accepts i → ∃ t, exec i s = .next t ∧
      t.modes = s.fieldsStored false w.permit w.intEnable ∧ t.report.causes = s.report.causes ∧
      t.report.enables = s.report.enables ∧ Delivers s t ∧ OnlyChanges [.modes, .interrupt, .causes] s t) ∧
    (s.accepts (.serve w) → ∃ t, exec (.serve w) s = .next t ∧
      t.modes = s.fieldsStored true w.permit w.intEnable ∧ t.report.causes = s.report.causes ∧
      t.report.enables = s.report.enables ∧ Delivers s t ∧ OnlyChanges [.modes, .interrupt, .causes] s t)) ∧
  (∀ (s : State) (v : BitVec 3) (w : RequestWrite), s.accepts (.requestInvalid v w) →
    ∃ t, exec (.requestInvalid v w) s = .next t ∧ t.modes = s.fieldsStored w.serve w.permit w.intEnable ∧
    (∀ c, t.causeSet c = (s.causeSet c || (decide (c = .modeFail) && decide (s.modes.mode ≠ .starting)))) ∧
    t.report.enables = s.report.enables ∧ KeepsDelivery s t ∧ OnlyChanges [.modes, .interrupt, .causes] s t)

/-- REQUEST_RUN in each mode (R130, R132, R138, R141, R143): CONFIG goes to ACTIVATING with the configuration read, the failure
code cleared, its reads still to come and, before the first success, the fallback record's area held; HOLD, FALLBACK and QUIESCED
go to RUN with supervision restarted, HOLD with the overrun count 0; ACTIVATING and QUIESCING refuse with MODE_FAIL; RUN and
STARTING stay. Each move hands on a MODE event. What the activation reads is fixed at the request (log 29). -/
def Obligations.RequestRunByMode : Prop :=
  ∀ (s : State) (w : RequestWrite), s.accepts (.requestRun w) → ∃ t, exec (.requestRun w) s = .next t ∧
    t.modes = (match s.modes.mode with
      | .config => { s.fieldsStored w.serve w.permit w.intEnable with
          mode := .activating, progress := .checking (Memory.configImage s.ram), reading := true, attempt := s.modes.attempt + 1,
          failCode := .none, failIndex := 0 }
      | .hold | .fallback | .quiesced =>
        { s.fieldsStored w.serve w.permit w.intEnable with mode := .run, supervision := s.startedTimer }
      | .starting | .activating | .run | .quiescing => s.fieldsStored w.serve w.permit w.intEnable) ∧
    t.composer = (if s.modes.mode = .hold then { s.composer with overruns := 0 } else s.composer) ∧
    t.port.holdArea = (if s.modes.mode = .config ∧ s.modes.captured = none
      then some (sectionOf (Memory.configImage s.ram).map 1) else s.port.holdArea) ∧
    HandsOn s t (if t.modes.mode = s.modes.mode then [] else [modeEvent s.modes.mode t.modes.mode .request])
      (fun c => decide (c = .modeFail) && decide (s.modes.mode = .activating ∨ s.modes.mode = .quiescing)) ∧
    t.report.journalPart = s.report.journalPart ∧
    OnlyChanges [.modes, .composer, .holdArea, .rings, .interrupt, .causes] s t

/-- REQUEST_HOLD in each mode (R70, R130, R138): RUN goes to HOLD with HOLD_ENTERED, a MODE event and supervision restarted, a
build in flight is discarded and its takes return to POSTED, or end CANCELLED where a cancel was requested; HOLD and STARTING
stay; every other mode refuses with MODE_FAIL. Each slot record that changes is to be copied (R27). That a slot whose take
finishes here stays BUILDING until its entry is counted is the model's choice (log 10). -/
def Obligations.RequestHoldByMode : Prop :=
  ∀ (s : State) (w : RequestWrite), s.accepts (.requestHold w) → s.buildSlots.Nodup →
    (∀ i ∈ s.buildSlots, i < Config.slotCount) → s.takes.slots.length = Config.slotCount → ∃ t, exec (.requestHold w) s = .next t ∧
    t.modes = (if s.modes.mode = .run then
      { s.fieldsStored w.serve w.permit w.intEnable with mode := .hold, supervision := s.startedTimer }
      else s.fieldsStored w.serve w.permit w.intEnable) ∧
    t.composer = (if s.modes.mode = .run then { s.composer with build := none } else s.composer) ∧
    (∀ i, t.slot i = if s.modes.mode = .run ∧ i ∈ s.buildSlots ∧ (s.slot i).cancelRequested = false
      then { s.slot i with state := .posted } else s.slot i) ∧
    t.takes = { s.takes with slots := t.takes.slots } ∧ AsksCopies s.status s t ∧
    t.report.journalPart = (if s.modes.mode = .run then
      (s.report.handed ((s.buildSlots.filter (fun i => (s.slot i).cancelRequested)).map
        (fun i => s.entryOf i (plainOutcome .cancelled) false none))).journalPart else s.report.journalPart) ∧
    HandsOn s t (if s.modes.mode = .run then [modeEvent .run .hold .request] else [])
      (fun c => (decide (c = .holdEntered) && decide (s.modes.mode = .run)) ||
      (decide (c = .modeFail) && decide (s.modes.mode ≠ .run ∧ s.modes.mode ≠ .hold ∧ s.modes.mode ≠ .starting))) ∧
    OnlyChanges [.modes, .composer, .takes, .rings, .interrupt, .causes, .status] s t

/-- REQUEST_FALLBACK in each mode (R71, R130, R139): RUN, HOLD and QUIESCED go to FALLBACK with FALLBACK_ENTERED and a MODE
event, a build is discarded, the takes of the build and then the POSTED ones finish ABANDONED, each slot IDLE as its entry is
counted (R43; O50), supervision stops and the fallback commit is owed; FALLBACK and STARTING stay; every other mode refuses with
MODE_FAIL. That the entries are written within the entry to FALLBACK, before the mode moves, is the model's choice: a POST in hand
whose entry is among them goes on with its further slots under the mode that is left (R37; log 10). -/
def Obligations.RequestFallbackByMode : Prop :=
  (∀ (s : State) (w : RequestWrite), s.accepts (.requestFallback w) →
    (∀ i ∈ s.buildSlots, (s.slot i).state = .building) →
    s.modes.mode = .run ∨ s.modes.mode = .hold ∨ s.modes.mode = .quiesced → ∃ t, exec (.requestFallback w) s = .next t ∧
    EntersFallback s t (s.fieldsStored w.serve w.permit w.intEnable) .request [] ∧ t.now = s.now) ∧
  (∀ (s : State) (w : RequestWrite), s.accepts (.requestFallback w) →
    ¬ (s.modes.mode = .run ∨ s.modes.mode = .hold ∨ s.modes.mode = .quiesced) → ∃ t, exec (.requestFallback w) s = .next t ∧
    t.modes = s.fieldsStored w.serve w.permit w.intEnable ∧
    (∀ c, t.causeSet c = (s.causeSet c || (decide (c = .modeFail) &&
      decide (s.modes.mode ≠ .fallback ∧ s.modes.mode ≠ .starting)))) ∧
    t.report.enables = s.report.enables ∧ KeepsDelivery s t ∧ OnlyChanges [.modes, .interrupt, .causes] s t)

/-- REQUEST_QUIESCE in each mode (R72, R130, R142): RUN, HOLD and FALLBACK enter QUIESCING and leave a build in flight to its
boundary; with neither a build nor an owed fallback commit they go on to QUIESCED at once, with both MODE events; QUIESCING,
QUIESCED and STARTING stay; CONFIG and ACTIVATING refuse with MODE_FAIL. That the slots of the takes that finish CANCELLED stay
POSTED in QUIESCING until their entries are counted, and that those entries are written within the move to QUIESCED, is the
model's choice (log 10). The takes of a build are those of its build record, in gathered order; the POSTED ones are those of the
POSTED slots, ascending, less those that have finished and whose entries wait (log 10). -/
def Obligations.RequestQuiesceByMode : Prop :=
  (∀ (s : State) (w : RequestWrite), s.accepts (.requestQuiesce w) →
    s.modes.mode = .run ∨ s.modes.mode = .hold ∨ s.modes.mode = .fallback → ∃ t, exec (.requestQuiesce w) s = .next t ∧
    EntersQuiescing s t (s.fieldsStored w.serve w.permit w.intEnable) .request false) ∧
  (∀ (s : State) (w : RequestWrite), s.accepts (.requestQuiesce w) →
    ¬ (s.modes.mode = .run ∨ s.modes.mode = .hold ∨ s.modes.mode = .fallback) → ∃ t, exec (.requestQuiesce w) s = .next t ∧
    t.modes = s.fieldsStored w.serve w.permit w.intEnable ∧
    (∀ c, t.causeSet c = (s.causeSet c || (decide (c = .modeFail) &&
      decide (s.modes.mode = .config ∨ s.modes.mode = .activating)))) ∧
    t.report.enables = s.report.enables ∧ KeepsDelivery s t ∧ OnlyChanges [.modes, .interrupt, .causes] s t) ∧
  ∀ s : State, s.buildSlots = (s.composer.build.map (fun b => b.takes.map (·.slot))).getD [] ∧
    (s.takes.slots.length = Config.slotCount → s.postedSlots = (List.range 16).filter
      (fun i => decide ((s.slot i).state = .posted) && !s.finished i)) ∧
    ∀ i, s.finished i = true ↔ ∃ e ∈ s.report.journalQueue, e.slot = i

/-- REQUEST_CONFIG in each mode (R25, R130, R137, R142, R143): ACTIVATING goes back to CONFIG with nothing brought into force;
RUN, HOLD and FALLBACK refuse with MODE_FAIL and are redirected into QUIESCING; QUIESCING refuses; QUIESCED goes to CONFIG, the
live layout and the pending list cleared, the plan epoch advanced, every port's plan empty and the mirrors' rewrites asked for;
CONFIG and STARTING stay. That the MODE event from QUIESCED meets the filter list as it stood is the model's choice (log 18), and
so are that the slots of the takes that finish CANCELLED stay POSTED in QUIESCING until their entries are counted, and that those
entries are written within the move to QUIESCED (log 10), and that a mirror changes block by block at the grants that follow (log
14). -/
def Obligations.RequestConfigByMode : Prop :=
  ∀ (s : State) (w : RequestWrite), s.accepts (.requestConfig w) →
    ∃ t, exec (.requestConfig w) s = .next t ∧
    (match s.modes.mode with
      | .starting | .config => t.modes = s.fieldsStored w.serve w.permit w.intEnable ∧
          t.report.causes = s.report.causes ∧ t.report.enables = s.report.enables ∧ KeepsDelivery s t ∧
          OnlyChanges [.modes, .interrupt, .causes] s t
      | .activating =>
          t.modes = { s.fieldsStored w.serve w.permit w.intEnable with mode := .config, progress := .none, reading := false } ∧
          t.port.holdArea = none ∧ HandsOn s t [modeEvent .activating .config .request] (fun _ => false) ∧
          t.report.journalPart = s.report.journalPart ∧ OnlyChanges [.modes, .holdArea, .rings, .interrupt, .causes] s t
      | .run | .hold | .fallback =>
          EntersQuiescing s t (s.fieldsStored w.serve w.permit w.intEnable) .redirect true
      | .quiescing => t.modes = s.fieldsStored w.serve w.permit w.intEnable ∧
          (∀ c, t.causeSet c = (s.causeSet c || decide (c = .modeFail))) ∧ t.report.enables = s.report.enables ∧
          KeepsDelivery s t ∧ OnlyChanges [.modes, .interrupt, .causes] s t
      | .quiesced => t.modes = { s.fieldsStored w.serve w.permit w.intEnable with mode := .config } ∧
          t.composer = { s.composer with live := Layout.cleared, pendingEdits := [], epoch := s.composer.epoch + 1 } ∧
          RewritesBegin s t ∧
          t.ports = s.ports.map (fun p => { p with plan := [] }) ∧
          HandsOn s t [modeEvent .quiesced .config .request] (fun _ => false) ∧ t.report.journalPart = s.report.journalPart ∧
          OnlyChanges [.modes, .composer, .ports, .rings, .interrupt, .causes, .status] s t)

/-! Posting, cancelling, releasing (R37 to R44, R151). -/

/-- A POST is taken whole: it serves supervision, and the take engine handles the named slots in ascending order, refusing those
that cannot take it (MODE, BUSY, NO_ROOM in that order), as far as the first whose post checks it starts, for which it reserves
one place of the journal. A mask of 0 changes no slot, and a SLOTREQ write that is neither POST nor CANCEL changes nothing but
supervision (R37, R38, R39, R144). Each slot record that changes is to be copied (R27). That a slot whose take has finished
refuses with BUSY until its entry is counted is the model's choice (log 10), and so is that the new reserved count leaves header
work (log 13). -/
def Obligations.PostHandlesNamedSlots : Prop :=
  (∀ (s : State) (mask : BitVec 16), s.accepts (.post mask) → s.takes.slots.length = Config.slotCount →
    ∃ t, exec (.post mask) s = .next t ∧ HandlesPosts ((List.range 16).filter (fun i => mask.getLsbD i)) s t ∧
    t.modes = { s.modes with supervision := s.servedTimer } ∧
    OnlyChanges [.modes, .takes, .rings, .interrupt, .causes, .status] s t) ∧
  (∀ s : State, s.accepts (.post 0) → ∃ t, exec (.post 0) s = .next t ∧
    t.modes = { s.modes with supervision := s.servedTimer } ∧ OnlyChanges [.modes] s t) ∧
  (∀ (s : State) (action : BitVec 2) (mask : BitVec 16), s.accepts (.slotreqNoAction action mask) →
    ∃ t, exec (.slotreqNoAction action mask) s = .next t ∧ t.modes = { s.modes with supervision := s.servedTimer } ∧
    OnlyChanges [.modes] s t)

/-- POST_CHECKS_COMPLETE ends the post checks of the slot in hand, with the first check that fails (BAD_COUNT, BAD_CHECK,
NO_CHECK, LATE) or none (R37 to R42). A take that is POSTED is handled, and the take engine goes on with the slots that the POST
still names, as the journal and the mode then stand; one that finishes is in hand until its entry is counted (R37, R149, R152;
O50). Each slot record that changes, and the header with the next post sequence, is to be copied (R27). The command comes when
the take reader is granted (R184), behind the commit writer's header writes (R185; O44), its read after a waiting access's turn
(O15), and the accesses that wait are taken in order afterwards (R177; O15). With no post checks in hand, behind a build read
asked for before them (R60), or while the take reader is not granted, it does nothing (log 4). That a slot ends, and the POST
goes on, only when the entry is counted is the model's choice (log 10), and so is the place of the commit writer's writes (log
44). Slot `i` starts 800 x `i` bytes into section 2 of the captured map (R26); without one no post is accepted (R38), and the
address is the model's own. -/
def Obligations.PostChecksOutcome : Prop :=
  (∀ (s : State) (i : Nat) (h : TakeHeader), s.postCheck i h = s.postVerdict (s.slotStart i) h ∧
    s.slotStart i = (match s.modes.captured with
      | none => 0
      | some c => (sectionOf c.map 2).start + 800 * i)) ∧
  (∀ (s : State) (i : Nat), s.takes.checking = some i → s.finished i = false → s.takes.slots.length = Config.slotCount →
    (∀ j ∈ i :: s.takes.toHandle, j < Config.slotCount) →
    let r := s.ctlRead
    let h := Memory.takeHeader r.ram (s.slotStart i)
    ∃ m, ChecksPost i (s.slotStart i) h r m ∧ OnlyChanges [.takes, .rings, .status] r m ∧
    if r.postVerdict (s.slotStart i) h = none ∧ (s.modes.mode = .run ∨ s.modes.mode = .hold)
    then HandlesPosts s.takes.toHandle m s.continuePosts ∧
      OnlyChanges [.takes, .rings, .interrupt, .causes, .status] m s.continuePosts
    else s.continuePosts = m) ∧
  (∀ (s : State) (i : Nat), s.takes.checking = some i → s.finished i = false → s.readerGranted = true →
    ¬ (s.takes.behindBuild = true ∧ ∃ b, s.composer.build = some b ∧ b.status = .running ∧ ∃ k ∈ b.takes, k.result = none) →
    exec .postChecksComplete s = .next s.commitDone.continuePosts.resume ∧
    (s.status.headerWrites = [] → s.port.waiting = [] → exec .postChecksComplete s = .next s.continuePosts)) ∧
  (∀ s : State, (∀ i, s.takes.checking = some i → s.finished i = true) ∨ s.readerGranted = false →
    exec .postChecksComplete s = .next s) ∧
  (∀ (s : State) (b : BuildRecord), s.takes.behindBuild = true → s.composer.build = some b → b.status = .running →
    (∃ k ∈ b.takes, k.result = none) → exec .postChecksComplete s = .next s)

/-- A CANCEL serves supervision and acts on every named slot by its state, in ascending index, each completely before the next
(R37, R44, R144): a POSTED take finishes CANCELLED, and its slot is IDLE with its last refusal reason NONE once its entry,
behind those that wait, is written (O50); a BUILDING one is marked cancel-requested; an IDLE slot refuses with NOT_POSTED and
SLOT_REFUSED, the interrupt delivered (R172). Each slot record that changes is to be copied (R27). That a POSTED slot's entry is
written within the CANCEL, and that a slot whose take has finished and waits for its entry to be counted refuses a cancel as an
IDLE one does, are the model's choices (log 10). -/
def Obligations.CancelActsByState : Prop :=
  (∀ (s : State) (mask : BitVec 16), s.accepts (.cancel mask) → exec (.cancel mask) s = .next
    (((List.range 16).filter (fun i => mask.getLsbD i)).foldl (fun u i => u.cancelSlot i)
      { s with modes := { s.modes with supervision := s.servedTimer } })) ∧
  (∀ (s : State) (i : Nat), s.takes.slots.length = Config.slotCount → i < Config.slotCount →
    ((s.slot i).state = .posted → s.finished i = false → ∃ u, s.cancelSlot i = u.journalDone ∧
      (∀ j, u.slot j = if j = i then { s.slot i with lastRefusal := .none } else s.slot j) ∧
      u.takes = { s.takes with slots := u.takes.slots } ∧ AsksCopies s.status s u ∧
      u.report = s.report.handed [s.entryOf i (plainOutcome .cancelled) false none] ∧
      OnlyChanges [.takes, .rings, .status] s u ∧
      (s.takes.checking = none → ((s.cancelSlot i).slot i).state = .idle ∧ ((s.cancelSlot i).slot i).lastRefusal = .none ∧
        (s.cancelSlot i).finished i = false)) ∧
    ((s.slot i).state = .building → s.finished i = false →
      (∀ j, (s.cancelSlot i).slot j = if j = i then { s.slot i with cancelRequested := true, lastRefusal := .none } else s.slot j) ∧
      (s.cancelSlot i).takes = { s.takes with slots := (s.cancelSlot i).takes.slots } ∧ AsksCopies s.status s (s.cancelSlot i) ∧
      OnlyChanges [.takes, .status] s (s.cancelSlot i)) ∧
    ((s.slot i).state = .idle ∨ s.finished i = true →
      (∀ j, (s.cancelSlot i).slot j = if j = i then { s.slot i with lastRefusal := .notPosted } else s.slot j) ∧
      (s.cancelSlot i).takes = { s.takes with slots := (s.cancelSlot i).takes.slots } ∧ AsksCopies s.status s (s.cancelSlot i) ∧
      (∀ c, (s.cancelSlot i).causeSet c = (s.causeSet c || decide (c = .slotRefused))) ∧
      (s.cancelSlot i).report.enables = s.report.enables ∧ Delivers s (s.cancelSlot i) ∧
      OnlyChanges [.takes, .interrupt, .causes, .status] s (s.cancelSlot i)))

/-- A RELEASE serves supervision; it takes the count, at most the fill count, off the ring it names and advances the release
index by as much; a count above the fill count sets RELEASE_ERROR, a count of 0 changes no ring, and a selector of 3 changes no
ring and sets RELEASE_ERROR (R144, R151). The interrupt is delivered (R172). -/
def Obligations.ReleaseTakesCountOffRing : Prop :=
  (∀ (s : State) (r : RingId) (selector : BitVec 2) (count : BitVec 11), s.accepts (.release selector count) →
    selector.toNat = (match r with | .journal => 0 | .urgent => 1 | .routine => 2) →
    ∃ t, exec (.release selector count) s = .next t ∧ t.modes = { s.modes with supervision := s.servedTimer } ∧
    t.report.ring r = (if count = 0 then s.report.ring r else { s.report.ring r with
      fill := (s.report.ring r).fill - count.toNat
      releaseIndex := ((s.report.ring r).releaseIndex + min count.toNat (s.report.ring r).fill) % (s.report.ring r).capacity
      headerPending := true }) ∧
    (∀ q, q ≠ r → t.report.ring q = s.report.ring q) ∧ t.report.journalQueue = s.report.journalQueue ∧
    t.report.urgentQueue = s.report.urgentQueue ∧ t.report.routineQueue = s.report.routineQueue ∧
    t.report.ringJob = s.report.ringJob ∧
    (∀ c, t.causeSet c = (s.causeSet c || (decide (c = .releaseError) && decide ((s.report.ring r).fill < count.toNat)))) ∧
    t.report.enables = s.report.enables ∧ KeepsDelivery s t ∧ OnlyChanges [.modes, .rings, .interrupt, .causes] s t) ∧
  (∀ (s : State) (count : BitVec 11), s.accepts (.release 3 count) → ∃ t, exec (.release 3 count) s = .next t ∧
    t.modes = { s.modes with supervision := s.servedTimer } ∧
    (∀ c, t.causeSet c = (s.causeSet c || decide (c = .releaseError))) ∧ t.report.enables = s.report.enables ∧
    Delivers s t ∧ OnlyChanges [.modes, .interrupt, .causes] s t)

/-! Causes and enables (R169 to R174, R186). -/

/-- A CAUSE write clears each flag whose position holds 1 and no other, positions without a flag ignored; a flag set by a later
event stays set; a read of CAUSE returns all the flags and changes none; nothing is served (R170). -/
def Obligations.CauseWriteClearsNamedFlags : Prop :=
  (∀ (s : State) (v : Word), s.accepts (.causeWrite v) → ∃ t, exec (.causeWrite v) s = .next t ∧
    (∀ c, t.causeSet c = (s.causeSet c && !v.getLsbD (c.code - 1))) ∧ t.report.enables = s.report.enables ∧
    Delivers s t ∧ OnlyChanges [.interrupt, .causes] s t ∧ (∀ c, (t.raise c).causeSet c = true)) ∧
  (∀ (s : State) (k : Nat), s.registerValue 0x14 = s.report.causes.setWidth 32 ∧
    (s.registerValue 0x14).getLsbD k = s.report.causes.getLsbD k)

/-- A CAUSEEN write stores the fourteen enables and evaluates the interrupt condition; no flag changes (R171, R172). -/
def Obligations.CauseenWriteStoresEnables : Prop :=
  ∀ (s : State) (v : Word), s.accepts (.causeenWrite v) → ∃ t, exec (.causeenWrite v) s = .next t ∧
    (∀ k, t.report.enables.getLsbD k = (decide (k < 14) && v.getLsbD k)) ∧ t.report.causes = s.report.causes ∧
    Delivers s t ∧ OnlyChanges [.interrupt, .causes] s t

/-- A read that touches NEXTCAUSE returns the addressed bytes and pops the flag of the lowest code that is both set and enabled;
with no such flag the code is 0, which is no flag's, and nothing is popped; the read serves nothing (R173, R186). What a read
longer than 4 bytes returns, and that it pops one flag, is the model's choice (log 33). -/
def Obligations.NextcauseReadPopsOneFlag : Prop :=
  ∀ (s : State) (offset length : Nat), s.accepts (.nextcauseRead offset length) → offset < 0x20 → 0x1C < offset + length →
    ∃ t, exec (.nextcauseRead offset length) s = .next t ∧
    t.port.completion = (List.range length).map (fun k =>
      (s.registerValue (4 * ((offset + k) / 4))).extractLsb' (8 * ((offset + k) % 4)) 8) ∧
    s.registerValue 0x1C = BitVec.ofNat 32 s.nextCode ∧
    (∀ c, (s.nextCode = c.code ↔ (s.causeSet c && s.report.enables.getLsbD (c.code - 1)) = true ∧
      ∀ d : Cause, d.code < c.code → (s.causeSet d && s.report.enables.getLsbD (d.code - 1)) = false)) ∧
    ((∀ c : Cause, (s.causeSet c && s.report.enables.getLsbD (c.code - 1)) = false) → s.nextCode = 0 ∧
      t.report.causes = s.report.causes ∧ OnlyChanges [.completion] s t) ∧
    (∀ c : Cause, 1 ≤ c.code ∧ c.code ≤ 14) ∧
    (∀ c, t.causeSet c = (s.causeSet c && decide (c.code ≠ s.nextCode))) ∧ t.report.enables = s.report.enables ∧
    (s.nextCode ≠ 0 → Delivers s t) ∧ OnlyChanges [.completion, .interrupt, .causes] s t

/-- Any write to NEXTCAUSE clears all fourteen flags, whatever it holds; the condition becomes false; the enables, the master
enable, supervision and the other summary bits stay; a flag set by a later event stays set (R174). -/
def Obligations.NextcauseWriteClearsAllFlags : Prop :=
  ∀ (s : State) (v : Word), s.accepts (.nextcauseWrite v) → ∃ t, exec (.nextcauseWrite v) s = .next t ∧
    (∀ c, t.causeSet c = false) ∧ t.report.condition = false ∧ t.report.enables = s.report.enables ∧ t.modes = s.modes ∧
    t.summary = { s.summary with causePending := false } ∧ t.port.line = false ∧ t.port.msiSent = s.port.msiSent ∧
    OnlyChanges [.interrupt, .causes] s t ∧ (∀ c, (t.raise c).causeSet c = true)

/-- A register write that is not 4 aligned bytes, or that goes to IDENT, to STATUS or beyond the registers, sets WRITE_VIOLATION
and has no other effect; it serves nothing and requests nothing (R186). -/
def Obligations.DiscardedRegisterWriteOnlyFlags : Prop :=
  ∀ (s : State) (offset length : Nat), s.accepts (.registerWriteDiscarded offset length) →
    (length ≠ 4 ∨ offset % 4 ≠ 0 ∨ offset = 0x00 ∨ offset = 0x08 ∨ 0x20 ≤ offset) →
    ∃ t, exec (.registerWriteDiscarded offset length) s = .next t ∧
    (∀ c, t.causeSet c = (s.causeSet c || decide (c = .writeViolation))) ∧ t.report.enables = s.report.enables ∧
    Delivers s t ∧ OnlyChanges [.interrupt, .causes] s t

/-! Activation checks (R131 to R135). -/

/-- The activation checks by code and index (R16, R35, R76, R112, R113, R133, R134). A configuration passes exactly when it fails
no check. Else the failure is that of the first code in the order 1 to 13, with the lowest index that fails it: the ring 0 to 2,
the section 1 to 10 against its minimum, the lower sections and the captured map, the source, the filter or 16 for the default
action, the entry of the fallback record, the whole-layout check 1 to 5. The settings that the fallback record is checked with
are those of the configuration. That of two failing rings the lowest gives the index is the model's choice (log 24). -/
def Obligations.ActivationPassesExactly : Prop :=
  ∀ (c : ConfigImage) (old : Option SectionMap), c.filters.length = Config.filterCount →
    (c.failure old = none ↔ ∀ code n, ¬ c.fails old n code) ∧
    (∀ code n, c.failure old = some (code, n) ↔
      c.fails old n code ∧ ∀ d m, c.fails old m d → code.code < d.code ∨ (code = d ∧ n ≤ m)) ∧
    (∀ code : FailCode, code ≠ .none → [FailCode.geometry, .rate, .planLead, .ringParam, .sectionRange, .sectionAlign,
      .sectionSize, .sectionOverlap, .sourceParam, .filterParam, .startLayout, .fallbackEntry, .fallbackLayout][code.code - 1]?
        = some code) ∧
    (∀ i r, c.settings[i]? = some r → i < Config.externalSources → (∀ n, ¬ c.fails old n .sourceParam) →
      c.enabled i = r.enabled ∧ c.classOf i = r.declaredClass) ∧
    (∀ i, Config.externalSources ≤ i → c.enabled i = true ∧ c.classOf i = 1) ∧
    c.geometry = ⟨c.cols, c.rows⟩ ∧
    c.fallbackWindows = (c.fallbackEntries.foldl (fun d e => e.apply d) Layout.cleared).windows

/-- ACTIVATION_CHECKS_COMPLETE of the attempt in hand: on a failure the mode goes back to CONFIG with the code and the index,
ACTIVATION_FAILED and a MODE event; else the progress becomes PASSED with the capture and the fallback plan, and the activation
waits for the boundary. The capture of a configuration that fails no check (R131, R133) holds its section map, its geometry, its
rate, its lead, the capacities and watermarks of its rings, the forty settings records as read, the initial filters and the
default action, the require-checked choice, the supervision interval, at most 600, and the start selector; the fallback plan is
the table that the fallback record gives with its contexts from 0 on (R15, R134; O35, O43). Either way the held area is released,
and the accesses that wait are taken in order (R132, R135, R137, R177; O15). The command comes when the take reader is granted
(R184), behind the commit writer's header writes (R185; O44), its last read after a waiting access's turn (O15). For any other
attempt nothing changes, and nothing while the take reader is not granted (log 4) or while a post is in hand, which stands before
its reads (the model's choice, log 40). The place of the commit writer's writes is the model's choice (log 44). -/
def Obligations.ActivationChecksOutcome : Prop :=
  (∀ (s : State) (image : ConfigImage) (attempt : Nat), s.modes.mode = .activating → s.modes.progress = .checking image →
    s.modes.attempt = attempt → s.takes.checking = none → s.readerGranted = true →
    let m := s.commitDone.ctlRead
    ∃ u, exec (.activationChecksComplete attempt) s = .next u.resume ∧ u.port.holdArea = none ∧
    (m.port.waiting = [] → exec (.activationChecksComplete attempt) s = .next u) ∧ u.lastServed = .controller ∧
    (match image.failure s.map with
      | some (code, index) =>
        u.modes = { s.modes with
          mode := .config, progress := .none, reading := false, failCode := code, failIndex := index } ∧
        HandsOn m u [modeEvent .activating .config .checksFailed] (fun c => decide (c = .activationFailed)) ∧
        u.report.journalPart = m.report.journalPart ∧
        OnlyChanges [.holdArea, .modes, .rings, .interrupt, .causes] m u
      | none => u.modes = { s.modes with progress := .passed image.capture image.fallbackPlan, reading := false } ∧
        OnlyChanges [.holdArea, .modes] m u)) ∧
  (∀ (s : State) (attempt : Nat),
    (∀ image, s.modes.progress ≠ .checking image) ∨ s.modes.attempt ≠ attempt ∨ s.takes.checking ≠ none ∨
      s.readerGranted = false →
    exec (.activationChecksComplete attempt) s = .next s) ∧
  (∀ (c : ConfigImage) (old : Option SectionMap), c.failure old = none →
    let k := c.capture
    (k.map = c.map ∧ k.cols = c.cols ∧ k.rows = c.rows ∧ k.lead = c.lead ∧ k.journal = c.journal ∧ k.urgent = c.urgent ∧
      k.routine = c.routine ∧ k.requireChecked = c.requireChecked ∧ k.supervision = min 600 c.supervision ∧
      (k.startFallback = true ↔ c.startSelector = 1)) ∧
    c.rate = (match k.rate with | .r50000 => 50000 | .r59940 => 59940 | .r60000 => 60000) ∧
    (k.settings.length = c.settings.length ∧ ∀ (i : Nat) (r : RawSettings), c.settings[i]? = some r →
      k.settings[i]? = some ⟨r.enabled, r.declaredClass, if r.backup = 255 then none else some r.backup, r.lossHold⟩) ∧
    (k.filters.length = c.filters.length ∧ ∀ (i : Nat) (f : RawFilter), c.filters[i]? = some f →
      ∃ g : FilterEntry, k.filters[i]? = some g ∧ g.enabled = f.enabled ∧ g.low = f.low ∧ g.high = f.high ∧ g.kinds.toNat = f.kinds.toNat ∧
      filterActionsInOrder[f.action]? = some g.action) ∧
    filterActionsInOrder[c.defaultAction]? = some k.defaultAction ∧
    c.fallbackPlan = assignContexts Layout.cleared.windows c.fallbackWindows)

/-! Plan points and builds (R48 to R59). -/

/-- PLAN_POINT. In a mode other than RUN and FALLBACK it only passes (R48); the same while a fallback commit is owed (log 20).
Else the takes past their deadlines finish EXPIRED in ascending slot order, the gathered ones become BUILDING, and a build with
the pending edits starts unless there is neither a take nor an edit (R49 to R53); its reads stand behind post checks in hand
(R60). Each slot record that changes is to be copied (R27). The clock's value is the model's choice (log 3), and so is that the
slot of an expired take stays POSTED until its entry is counted, and that such a take is not considered again (log 10). A second
one in a frame does nothing (log 4). -/
def Obligations.PlanPointGathersAndBuilds : Prop :=
  (∀ s : State, s.timing.planDone = false →
    ¬ (s.modes.mode = .run ∨ s.modes.mode = .fallback) ∨ s.composer.fallbackOwed = true →
    ∃ t, exec .planPoint s = .next t ∧ t.timing = { s.timing with planDone := true } ∧
    t.now = max s.now s.timing.nextPlan ∧ OnlyChanges [.now, .timing] s t) ∧
  (∀ s : State, s.timing.planDone = false → s.modes.mode = .run ∨ s.modes.mode = .fallback →
    s.composer.fallbackOwed = false → s.takes.slots.length = Config.slotCount →
    let n := s.timing.frame + 1
    let due := fun i => decide ((s.slot i).state = .posted) && passed (s.slot i).due n && !s.finished i
    let late := fun i => due i && (s.slot i).header.deadline != 0 &&
      decide ((s.slot i).header.deadline < (n - (s.slot i).due).toNat)
    let expired := (List.range Config.slotCount).filter late
    let ended := { s with report := s.report.handed (expired.map (fun i => s.entryOf i (plainOutcome .expired) false none)) }
    let l := ended.gathered n
    ∃ t, exec .planPoint s = .next t ∧ t.timing = { s.timing with planDone := true } ∧
    t.now = max s.now s.timing.nextPlan ∧
    (∀ i ∈ l, due i = true ∧ late i = false) ∧
    (∀ i, i < Config.slotCount → t.slot i = if i ∈ l then { s.slot i with state := .building } else s.slot i) ∧
    t.report.journalPart = ended.report.journalPart ∧
    t.report.eventPart = s.report.eventPart ∧
    t.takes = { s.takes with
      slots := t.takes.slots
      behindBuild := if l = [] ∧ s.composer.pendingEdits = [] then s.takes.behindBuild else false } ∧
    (if l = [] ∧ s.composer.pendingEdits = [] then t.composer = s.composer
      else ∃ b, t.composer = { s.composer with build := some b } ∧ b.status = .running ∧ b.target = n ∧ b.named = [] ∧ b.inTake = none ∧
        b.takes = l.map (fun i => ⟨i, none⟩) ∧ b.draft.plans = s.composer.live.plans ∧
        b.draft.filters = s.composer.live.filters ∧
        (b.draft.windows, b.edits) = s.resolveEdits s.composer.live.windows s.composer.pendingEdits) ∧
    AsksCopies s.status s t ∧ OnlyChanges [.now, .timing, .takes, .composer, .rings, .status] s t) ∧
  (∀ s : State, s.timing.planDone = true → exec .planPoint s = .next s)

/-- The takes gathered for boundary `n` are the first six, or all, of the slots that are POSTED and due, in the order of R50:
urgent before routine, then the earlier due frame, then the lower post sequence, then the lower slot. Post sequences are
ordered by serial comparison (R116), so the statement takes those of the slots that are POSTED and due to lie within 32,768 of
each other; where they do not, and compare in a cycle, the order is the model's choice (log 45). That a take which has finished
and whose slot is POSTED until its entry is counted is none of them is the model's choice (log 10). -/
def Obligations.GatheringTakesSixInOrder : Prop :=
  ∀ (s : State) (n : Word) (base : Half), s.takes.slots.length = Config.slotCount →
    let due := fun i => i < Config.slotCount ∧ (s.slot i).state = .posted ∧ s.finished i = false ∧ passed (s.slot i).due n = true
    (∀ i, due i → ((s.slot i).seq - base).toNat < 2 ^ 15) →
    ∃ order : List Nat, s.gathered n = order.take 6 ∧
    (∀ i, i ∈ order ↔ due i) ∧
    order.Pairwise (fun i j =>
      ((s.slot i).header.urgent = true ∧ (s.slot j).header.urgent = false) ∨
      ((s.slot i).header.urgent = (s.slot j).header.urgent ∧ earlier (s.slot i).due (s.slot j).due = true) ∨
      ((s.slot i).header.urgent = (s.slot j).header.urgent ∧ (s.slot i).due = (s.slot j).due ∧
        seqLower (s.slot i).seq (s.slot j).seq = true) ∨
      ((s.slot i).header.urgent = (s.slot j).header.urgent ∧ (s.slot i).due = (s.slot j).due ∧
        (s.slot i).seq = (s.slot j).seq ∧ i < j))

/-- An edit set is resolved edit by edit, in list order, each against the window table that the edits before it leave, and each
edit's outcome is kept (R53, R106). One system edit resolved against a window table (R102 to R105): a stale edit is dropped; a
SUBSTITUTE gives BACKUP with the backup, SLATE with source 40, or NONE with the routed source, or is dropped, as the table of
R103 says; a RESTORE gives NONE when the window is substituted, AUTO and its routed source LOCKED. No other field and no other
window changes, and what is dropped changes nothing. -/
def Obligations.EditsResolveAsTabled : Prop :=
  (∀ (s : State) (ws : List WindowRec) (e : Edit) (es : List Edit),
    let first := s.resolveEdit ws e
    let others := s.resolveEdits first.1 es
    s.resolveEdits ws [] = (ws, []) ∧ s.resolveEdits ws (e :: es) = (others.1, (e, first.2) :: others.2)) ∧
  ∀ (s : State) (ws : List WindowRec) (e : Edit), e.window < ws.length →
    let w := windowAt ws e.window
    let routed := (s.source w.routed).state
    let shown := (s.source w.shown).state
    let becomes := fun (sub : SubState) (i : Nat) =>
      s.resolveEdit ws e = (ws.set e.window { w with sub := sub, shown := i }, .applied w.sub sub i)
    let drop := s.resolveEdit ws e = (ws, .dropped)
    (w.visible = false ∨ w.routed ≠ e.routed → drop) ∧
    (w.visible = true → w.routed = e.routed → e.kind = .substitute →
      (w.sub = .none → routed = .locked ∨ routed = .lossHold → drop) ∧
      (w.sub = .none → routed ≠ .locked → routed ≠ .lossHold → ∀ b, s.fitBackup ws e.window = some b → becomes .backup b) ∧
      (w.sub = .none → routed ≠ .locked → routed ≠ .lossHold → s.fitBackup ws e.window = none → becomes .slate 40) ∧
      (w.sub = .backup → routed = .locked → becomes .none w.routed) ∧
      (w.sub = .backup → routed ≠ .locked → shown = .locked ∨ shown = .lossHold → drop) ∧
      (w.sub = .backup → routed ≠ .locked → shown ≠ .locked → shown ≠ .lossHold → becomes .slate 40) ∧
      (w.sub = .slate → drop)) ∧
    (w.visible = true → w.routed = e.routed → e.kind = .restore →
      (w.sub ≠ .none → w.restore = .auto → routed = .locked → becomes .none w.routed) ∧
      (w.sub = .none ∨ w.restore ≠ .auto ∨ routed ≠ .locked → drop)) ∧
    (∀ b, s.fitBackup ws e.window = some b ↔
      (s.source w.routed).settings.backup = some b ∧ w.loss = .follow ∧ (s.source b).state = .locked ∧
      (∀ tag, w.expectedTag = some tag → (s.source b).qualified.bind (·.tag) = some tag) ∧
      (∀ tile, tile < s.geometry.tiles → w.rect.overlaps (s.geometry.tileRect tile) = true →
        chargeOn s.geometry s.classOf (ws.set e.window { w with sub := .backup, shown := b }) tile ≤ 16))

/-- BUILD_TAKE_CHECK ends the checks of the first take that has no result, entry by entry in list order, each against the draft as
the entries before it leave it, with authority, REQUIRE_LOCKED and the sources as they stand at that entry's check (R29, R34, R54,
R56). The first entry that fails gives a REJECTED result with its reason and index; when all pass, the first whole-layout check
that fails gives one with its reason and tile (R57, R58); either way the draft stays as it was. Else the result is APPLIED, the
draft is the one after the last entry, and the take's windows are named with its driver tag (R13). The other takes' results stay.
Each grant to the take reader before the command checks one more entry. That the entries left are checked with the command is the
model's choice (log 19), and so is that a build asks for one take's read at a time, so that the next one stands behind post checks
in hand (log 40). The command comes when the take reader is granted (R184), behind the commit writer's header writes (R185; O44;
their place is the model's choice, log 44) and a waiting access's turn (O15), and the accesses that wait are taken in order (R177;
O15). Without a running build or a take left to check, behind post checks asked for before it (R60), or while the take reader is
not granted, it does nothing (log 4). -/
def Obligations.BuildTakeCheckIsWholeOrNothing : Prop :=
  (∀ (s : State) (b : BuildRecord) (pre post : List BuildTake) (i : Nat), s.composer.build = some b → b.status = .running →
    b.takes = pre ++ ⟨i, none⟩ :: post → (∀ k ∈ pre, k.result ≠ none) →
    (∀ j, s.takes.checking = some j → s.finished j = true) ∨ s.takes.behindBuild = true →
    let context := fun u : State => ({
      geometry := u.geometry, authority := (u.slot i).header.overrides && u.modes.permit
      requireLocked := (u.slot i).header.requireLocked, sources := u.sources } : EntryContext)
    let entries := fun u : State => Memory.entries u.ram (u.slotStart i) (u.slot i).header.count
    let p := b.inTake.getD ⟨0, b.draft, none⟩
    (s.readerGranted = true →
      let m := s.commitDone.ctlRead
      let left := (entries m).drop p.passed
      let draftAt := fun k => (left.take k).foldl (fun d e => e.apply d) p.draft
      let passes := fun k => ∀ j e, j < k → left[j]? = some e → e.check (context m) (draftAt j).windows = none
      let breaks := LayoutBreaks s.geometry s.classOf (draftAt left.length).windows
      ∃ u b' r, exec .buildTakeCheck s = .next u.resume ∧ (m.port.waiting = [] → exec .buildTakeCheck s = .next u) ∧
      u.composer = { s.composer with build := some b' } ∧
      b' = { b with takes := pre ++ ⟨i, some r⟩ :: post, inTake := none, draft := b'.draft, named := b'.named } ∧
      (∀ why, p.failed = some why → r = ⟨false, why, some p.passed, none⟩) ∧
      (p.failed = none →
        (∀ k e why, passes k → left[k]? = some e → e.check (context m) (draftAt k).windows = some why →
          r = ⟨false, why, some (p.passed + k), none⟩) ∧
        (∀ why tile, passes left.length → FirstOf layoutChecks (fun q => ∃ k, breaks k q) why → breaks tile why →
          r = ⟨false, why, none, tile⟩) ∧
        (passes left.length → (∀ why tile, ¬ breaks tile why) → r = ⟨true, .none, none, none⟩)) ∧
      (r.applied = false → b'.draft = b.draft ∧ b'.named = b.named) ∧
      (r.applied = true → b'.draft = draftAt left.length ∧ b'.named = b.named ++
        ((entries m).filter (fun e => decide (entryKind e.kind ≠ some .filter))).map
          (fun e => (e.window, (s.slot i).header.driverTag))) ∧
      u.takes = { s.takes with behindBuild := false } ∧ OnlyChanges [.composer, .takes] m u) ∧
    (∀ e, p.failed = none → (entries s)[p.passed]? = some e → s.grantTo .takeReader = { s with
      lastServed := .controller
      composer := { s.composer with build := some { b with inTake := some (match e.check (context s) p.draft.windows with
        | some why => { p with failed := some why }
        | none => ⟨p.passed + 1, e.apply p.draft, none⟩) } } }) ∧
    (p.failed ≠ none ∨ (entries s).length ≤ p.passed → s.grantTo .takeReader = { s with lastServed := .controller })) ∧
  (∀ s : State, (∀ b, s.composer.build = some b → b.status ≠ .running ∨ ∀ k ∈ b.takes, k.result ≠ none) ∨
      ((∃ j, s.takes.checking = some j ∧ s.finished j = false) ∧ s.takes.behindBuild = false) →
    exec .buildTakeCheck s = .next s ∧ s.grantTo .takeReader = { s with lastServed := .controller }) ∧
  (∀ s : State, s.readerGranted = false → exec .buildTakeCheck s = .next s)

/-- The checks on one entry, and what one that passed does to a layout (R29 to R36, R55, R56). The kind is checked first; of the
others the first that fails in the order of R55 gives the reason. A FILTER entry replaces one filter entry and no window; every
other kind changes one window alone, in the fields its rule names. Two rectangles overlap when they share a pixel (R5). -/
def Obligations.EntryIsCheckedAndChangesItsFields : Prop :=
  (∀ (e : Entry) (c : EntryContext) (ws : List WindowRec),
    (entryKind e.kind = none → e.check c ws = some .badKind) ∧
    (∀ k, entryKind e.kind = some k → (∀ r, e.check c ws = some r ↔ FirstOf entryChecks (e.breaks c ws k) r) ∧
      (e.check c ws = none ↔ ∀ r, ¬ e.breaks c ws k r)) ∧
    (entryKind e.kind = none ↔ e.kind = 0 ∨ 9 < e.kind)) ∧
  (∀ (c : EntryContext) (i : Nat) (r : SourceRec), c.sources[i]? = some r → c.source i = r) ∧
  (∀ f : RawFilter, f.entry = none ↔ 2 < f.action ∨ f.high < f.low ∨ 63 < f.high ∨ 256 ≤ f.kinds.toNat) ∧
  (∀ a b : Rect, a.overlaps b = true ↔ ∃ x y, a.x ≤ x ∧ x < a.x + a.w ∧ a.y ≤ y ∧ y < a.y + a.h ∧
    b.x ≤ x ∧ x < b.x + b.w ∧ b.y ≤ y ∧ y < b.y + b.h) ∧
  (∀ (e : Entry) (d : Layout) (k : EntryKind), entryKind e.kind = some k →
    (e.apply d).plans = d.plans ∧
    (k = .filter → (e.apply d).windows = d.windows ∧
      ∀ f, e.filter.entry = some f → (e.apply d).filters = d.filters.set e.window f ∧
        f = { enabled := e.filter.enabled, kinds := e.filter.kinds.setWidth 8, low := e.filter.low, high := e.filter.high,
              action := f.action } ∧ filterActionsInOrder[e.filter.action]? = some f.action) ∧
    (k ≠ .filter → e.window < d.windows.length → (e.apply d).filters = d.filters ∧
      ∃ w, (e.apply d).windows = d.windows.set e.window w ∧ w = (
        let old := windowAt d.windows e.window
        match k with
        | .show => { visible := true, routed := e.source, shown := e.source, sub := .none, rect := e.rect, rank := e.rank,
                     native := e.native, prot := e.prot, crop := if e.cropPresent then some e.crop else none,
                     expectedTag := if e.tagPresent then some e.tag else none,
                     loss := if e.follow then .follow else .slate, restore := if e.manual then .manual else .auto,
                     ctx := old.ctx, lastCommitFrame := old.lastCommitFrame, lastTakeTag := old.lastTakeTag }
        | .route => { old with routed := e.source, shown := e.source, sub := .none,
                               expectedTag := if e.tagPresent then some e.tag else none }
        | .place => { old with rect := e.rect }
        | .rerank => { old with rank := e.rank }
        | .crop => { old with crop := if e.cropPresent then some e.crop else none }
        | .hide => { old with visible := false, sub := .none, shown := old.routed }
        | .restore => { old with shown := old.routed, sub := .none }
        | .protect => { old with prot := e.prot }
        | .filter => old)))

/-- BUILD_COMPLETE of the build that is RUNNING, all its takes checked, makes it READY with the draft completed: the filters are
the draft's, each window has the scaler context that the assignment of R15 gives it against the live layout, keeps its other
fields but for the two records of R13, and the plans are those of the new window table with the sources as they stand: for every
tile one fragment for each visible window that touches it, in descending rank, with its charge, its clip and its source
rectangle (R9, R17, R18, R19). The wall has columns x rows tiles, those of the captured geometry and none before the first
capture, and the tile of a row and a column is numbered row x columns + column and covers 1920 by 1080 pixels from there (R16);
the active area of a source is that of its qualified format, or 1920 by 1080 (R18); its declared class is that of its settings,
1 for an internal source (R19, R75), and an activation gives each external source its captured settings (O48, O43). That the
crop is set aside where the shown source is 40 itself is the model's choice (log 23). For another target or attempt, or with no
running build, nothing changes (R59, R67, R73), and while a take of the running build is unchecked neither: the command is then
premature (log 4). -/
def Obligations.BuildCompleteMakesReady : Prop :=
  (∀ (s : State) (b : BuildRecord), s.composer.build = some b → b.status = .running → (∀ k ∈ b.takes, k.result ≠ none) →
    ∃ t d, exec (.buildComplete b.target b.attempt) s = .next t ∧
    t.composer = { s.composer with build := some { b with status := .ready, draft := d } } ∧
    d.filters = b.draft.filters ∧ d.plans = s.plansNow d.windows ∧ d.windows.length = b.draft.windows.length ∧
    (∀ i, i < d.windows.length → windowAt d.windows i = { windowAt b.draft.windows i with
      ctx := (windowAt (assignContexts s.composer.live.windows b.draft.windows) i).ctx
      lastCommitFrame := if (∃ p ∈ b.named, p.1 = i) ∨ (∃ p ∈ b.edits, p.1.window = i ∧ p.2 ≠ .dropped) ∨
          (windowAt d.windows i).ctx ≠ (windowAt s.composer.live.windows i).ctx
        then b.target else (windowAt b.draft.windows i).lastCommitFrame
      lastTakeTag := (((b.named.filter (fun p => p.1 == i)).getLast?).map (·.2)).getD
        (windowAt b.draft.windows i).lastTakeTag }) ∧
    OnlyChanges [.composer] s t) ∧
  (∀ (s : State) (ws : List WindowRec), (s.plansNow ws).length = s.geometry.tiles ∧
    ∀ k p, (s.plansNow ws)[k]? = some p → PlanHolds s.geometry s.classOf s.areaOf ws k p) ∧
  (∀ s : State, (s.modes.captured = none → s.geometry = ⟨0, 0⟩) ∧
    ∀ c, s.modes.captured = some c → s.geometry = ⟨c.cols, c.rows⟩) ∧
  (∀ g : Geometry, g.tiles = g.cols * g.rows ∧ ∀ row column, column < g.cols →
    g.tileRect (row * g.cols + column) = ⟨column * 1920, row * 1080, 1920, 1080⟩) ∧
  (∀ (s : State) (i : Nat), ((s.source i).qualified = none → s.areaOf i = (1920, 1080)) ∧
    (∀ f, (s.source i).qualified = some f → s.areaOf i = (f.width, f.height)) ∧
    s.classOf i = (s.source i).settings.declaredClass ∧ ∀ rate, (SourceRec.internal rate).settings.declaredClass = 1) ∧
  (∀ (s : State) (target : Word) (attempt : Nat),
    (∀ b, s.composer.build = some b → b.status ≠ .running ∨ b.target ≠ target ∨ b.attempt ≠ attempt ∨
      ∃ k ∈ b.takes, k.result = none) →
    exec (.buildComplete target attempt) s = .next s)

/-- The assignment of scaler contexts (R14, R15): a window scaled before and after keeps its context, a window that is not
scaled holds none, every other scaled window, in ascending index, takes the lowest-numbered context that is free by then, every
scaled window of a table that passes the pool's check holds one below 32, and no two windows hold the same one. And every step
keeps the layouts in order: distinct ranks (R5), protected windows on top of what they meet (R6), contexts held by the visible
scaled windows and no other (R14), every tile within both budgets (R20), each external source with its captured settings (R77).
A window is scaled when it is visible and not native; the pool's check fails above 32 scaled windows, or above 28 that are not
protected (R14). -/
def Obligations.ScalerContextsAreExclusive : Prop :=
  (∀ live draft : List WindowRec, live.length = draft.length → scalersExhausted draft = false →
    (∀ i c, (windowAt live i).ctx = some c → c < Config.scalerContexts) →
    (∀ i, (windowAt live i).scaled = true → (windowAt live i).ctx ≠ none) →
    (∀ i j c, (windowAt live i).ctx = some c → (windowAt live j).ctx = some c → i = j) →
    let out := assignContexts live draft
    let kept := fun i => (windowAt live i).scaled = true ∧ (windowAt draft i).scaled = true
    out.length = draft.length ∧
    (∀ i, i < draft.length → kept i → (windowAt out i).ctx = (windowAt live i).ctx) ∧
    (∀ i, i < draft.length → (windowAt draft i).scaled = true → ¬ kept i → ∃ c, (windowAt out i).ctx = some c ∧
      (∀ j, j < i ∨ kept j → (windowAt out j).ctx ≠ some c) ∧
      ∀ d, d < c → ∃ j, (j < i ∨ kept j) ∧ (windowAt out j).ctx = some d) ∧
    (∀ i, i < draft.length → ((windowAt draft i).scaled = true ↔ (windowAt out i).ctx ≠ none)) ∧
    (∀ i c, (windowAt out i).ctx = some c → c < Config.scalerContexts) ∧
    (∀ i j c, (windowAt out i).ctx = some c → (windowAt out j).ctx = some c → i = j)) ∧
  (∀ w : WindowRec, w.scaled = (w.visible && !w.native)) ∧
  (∀ ws : List WindowRec, scalersExhausted ws = true ↔ 32 < (ws.filter (fun w => w.visible && !w.native)).length ∨
    28 < (ws.filter (fun w => w.visible && !w.native && !w.prot)).length) ∧
  (∀ s t : State, s.journalOk → s.tablesOk → s.layoutOk → step s = .next t → t.layoutOk)

/-! Boundaries (R61 to R66, R112 to R114, R135, R136, R140). -/

/-- BOUNDARY with nothing to commit: no build, no fallback commit owed, no activation that has passed, not QUIESCING. The counter
advances, the next boundary is scheduled, every port begins its next frame from the plan it holds, and under a captured map the
current frame is handed to the commit writer; the layout, the takes and the mode stay (R48, R114, R185). The commit writer writes
what was handed to it in order, one header write a grant, or all of it, each at its turn (O15), before the commands of the masters
below it (R184, R185);
SLOT_TABLE_WRITTEN of the header makes a waiting frame's write as soon as no ring write waits. The model's choices: the clock's
value (log 3), the way frames are told apart (log 42), that the crop is set aside where the shown source is 40 itself (log 23),
and when the commit writer has its grants (log 44). -/
def Obligations.BoundaryWithoutBuildOnlyAdvances : Prop :=
  (∀ s : State, s.composer.build = none → s.composer.fallbackOwed = false → s.modes.mode ≠ .quiescing →
    (s.modes.mode = .activating → ∀ c p, s.modes.progress ≠ .passed c p) → s.ports.length = Config.tilePorts →
    ∃ t, exec .boundary s = .next t ∧ t.timing = s.timing.afterBoundary ∧ t.now = max s.now s.timing.nextBoundary ∧
    BeginsFrames s.planOfPort t ∧
    t.status = (if s.map = none then s.status
      else { s.status with headerWrites := s.status.headerWrites ++ [.frame (s.timing.frame + 1)] }) ∧
    OnlyChanges [.now, .timing, .ports, .status] s t) ∧
  (∀ (s : State) (m : SectionMap), s.map = some m →
    (∀ n, s.headerBlock (.frame n) = ((sectionOf m 3).start, bytesWord n)) ∧
    (∀ k, s.headerBlock (.marker k) = ((sectionOf m (mirrorSection k)).start + 4, [1])) ∧
    s.commitDone = { s.ctlWrites (s.status.headerWrites.map s.headerBlock) with status := { s.status with headerWrites := [] } } ∧
    ∀ h l, s.status.headerWrites = h :: l → s.grantTo .commitWriter = { s with
      ram := Memory.write s.ram (s.headerBlock h).1 (s.headerBlock h).2, lastServed := .controller
      status := { s.status with headerWrites := l } }) ∧
  (∀ s : State, s.status.headerWrites = [] → s.commitDone = s ∧ s.grantTo .commitWriter = { s with lastServed := .controller }) ∧
  (∀ w : StatusWriter, w.frameWaits = true ↔ ∃ n, .frame n ∈ w.headerWrites) ∧
  (∀ (s : State) (m : SectionMap), s.map = some m → s.status.frameWaits = true → s.readerGranted = true →
    s.writerGranted = false ∨ (3 ∉ s.status.toRewrite ∧ s.status.slotHeaderDirty = false) →
    exec (.slotTableWritten .header) s = .next s.commitDone.resume)

/-- BOUNDARY with a READY build commits it (R61 to R64): the draft becomes the live layout, the plan epoch advances, the overrun
count becomes 0, the build ends, every take of it finishes APPLIED or REJECTED with its result and the frame N in one journal
entry each, in gathered order; the edit set leaves the pending list, newer edits stay, and the check that follows adds its own
(R63, R97, R101); the edits' events are handed on under the new filter list, one for each applied edit in edit order, with the
window, the states before and after, the shown source, the cause and N, and none for a dropped one (R107); every port takes its
new plan; the mirrors' rewrites begin, and the markers and the current frame are handed to the commit writer (R22, R185), in an
order that R185 leaves open (log 44); and the mode goes from QUIESCING to QUIESCED, every slot then IDLE (R43, R142). No slot
record changes before that. The model's choices: the clock's value (log 3), that the slots stay BUILDING until their entries are
counted, and that the move to QUIESCED writes those (log 10), the way frames are told apart (log 42), that the crop is set aside
where the shown source is 40 itself (log 23), and when the commit writer has its grants (log 44). -/
def Obligations.BoundaryCommitsReadyBuild : Prop :=
  (∀ (b : BuildRecord) (n : Word) (e : Edit) (o : EditOutcome) (es : List (Edit × EditOutcome)),
    ({ b with edits := [] } : BuildRecord).events n = [] ∧
    ({ b with edits := (e, o) :: es } : BuildRecord).events n = (match o with
      | .dropped => []
      | .applied old new shown => [appliedEvent e old new shown n]) ++ ({ b with edits := es } : BuildRecord).events n) ∧
  ∀ (s : State) (b : BuildRecord), s.composer.build = some b → b.status = .ready → s.composer.fallbackOwed = false →
    s.modes.mode ≠ .activating → s.modeOk → s.ports.length = Config.tilePorts → ∃ u t, exec .boundary s = .next t ∧
    u.composer.live = b.draft ∧ u.composer.epoch = s.composer.epoch + 1 ∧ u.composer.overruns = 0 ∧
    u.composer.build = none ∧ u.composer.fallbackOwed = false ∧ u.composer.fallbackPlan = s.composer.fallbackPlan ∧
    EditsAfterCheck (s.composer.pendingEdits.filter (fun e => decide (∀ p ∈ b.edits, p.1.serial ≠ e.serial)))
      s.composer.editSerial u ∧
    u.report.journalPart = (s.report.handed (b.takes.map (fun k =>
      let r := k.result.getD ⟨false, .none, none, none⟩
      s.entryOf k.slot (if r.applied then .applied else .rejected, r.reason, r.failedEntry, r.failedTile)
        (s.slot k.slot).cancelRequested (some (s.timing.frame + 1))))).journalPart ∧
    HandsOn { s with composer := { s.composer with live := b.draft } } u (b.events (s.timing.frame + 1)) (fun _ => false) ∧
    u.status = (if s.map = none then s.status else s.status.replaced) ∧
    OnlyChanges [.now, .interrupt, .composer, .ports, .timing, .rings, .causes, .status] s u ∧
    BoundaryEnds (fun i => b.draft.plans.getD i []) s u t

/-- BOUNDARY with a build still RUNNING is an overrun (R65, R66): the layout and the plan epoch stay, the build ends, each of its
takes returns to POSTED, or finishes CANCELLED where a cancel was requested or the mode is QUIESCING; the overrun count rises, to
at most 255; OVERRUN is set and its event handed on with the build's target; the third in RUN moves the mode to HOLD with
HOLD_ENTERED and supervision restarted (R138, R144), QUIESCING goes to QUIESCED, every slot then IDLE (R43, R142), and the
current frame is handed to the commit writer (R185). Each slot record that changes is to be copied (R27). The model's choices:
the clock's value, at which the timer restarts (log 3), that the slot of a take that finishes stays BUILDING until its entry is
counted, and that the move to QUIESCED writes the entries (log 10), the way frames are told apart (log 42), that the crop is set
aside where the shown source is 40 itself (log 23), and when the commit writer has its grants (log 44). -/
def Obligations.BoundaryOverrunsRunningBuild : Prop :=
  ∀ (s : State) (b : BuildRecord), s.composer.build = some b → b.status = .running → s.composer.fallbackOwed = false →
    s.modes.mode ≠ .activating → s.ports.length = Config.tilePorts → (b.takes.map (·.slot)).Nodup →
    (∀ k ∈ b.takes, k.slot < Config.slotCount) → s.takes.slots.length = Config.slotCount →
    let l := b.takes.map (·.slot)
    let ends := fun i => decide (s.modes.mode = .quiescing) || (s.slot i).cancelRequested
    let count := min 255 (s.composer.overruns + 1)
    let holds := s.modes.mode = .run ∧ 3 ≤ count
    ∃ u t, exec .boundary s = .next t ∧
    u.composer = { s.composer with build := none, overruns := count } ∧
    (∀ i, u.slot i = if i ∈ l ∧ ends i = false then { s.slot i with state := .posted } else s.slot i) ∧
    u.takes = { s.takes with slots := u.takes.slots } ∧ AsksCopies s.status s u ∧
    u.report.journalPart = (s.report.handed ((l.filter ends).map
      (fun i => s.entryOf i (plainOutcome .cancelled) false (some (s.timing.frame + 1))))).journalPart ∧
    HandsOn s u ([overrunEvent b.target count] ++ (if holds then [modeEvent .run .hold .overrunLimit] else []))
      (fun c => decide (c = .overrun) || (decide (c = .holdEntered) && decide holds)) ∧
    u.modes = (if holds then { s.modes with mode := .hold, supervision := s.atBoundary.startedTimer } else s.modes) ∧
    OnlyChanges [.now, .interrupt, .takes, .composer, .timing, .modes, .rings, .causes, .status] s u ∧
    BoundaryEnds s.planOfPort s u t

/-- BOUNDARY with a fallback commit owed (R140): every window takes the captured fallback plan's record or is hidden, a changed
window records the frame N and the tag 0 and an unchanged one keeps both; the epoch advances, the overrun count becomes 0, the
pending edits are those of the check that follows (R101), nothing is owed any more, the ports take the new plans, the mirrors'
rewrites begin, the markers and the current frame are handed to the commit writer (R22, R185; in that order, log 44), and the
mode goes from QUIESCING to QUIESCED, the entries of finished takes written (R43, R142; that they are written here, log 10). No
take changes before that. The model's choices: which windows count as changed, and so record N and 0 (log 34), the clock's value
(log 3), the way frames are told apart (log 42), that the crop is set aside where the shown source is 40 itself (log 23), and
when the commit writer has its grants (log 44). -/
def Obligations.BoundaryMakesFallbackCommit : Prop :=
  ∀ (s : State) (plan : List WindowRec), s.composer.fallbackOwed = true → s.composer.fallbackPlan = some plan → s.modeOk →
    s.ports.length = Config.tilePorts → ∃ u t, exec .boundary s = .next t ∧
    InstallsPlan plan s.composer.live.windows (s.timing.frame + 1) u ∧
    u.composer.live.filters = s.composer.live.filters ∧
    u.composer.epoch = s.composer.epoch + 1 ∧ u.composer.overruns = 0 ∧ u.composer.fallbackOwed = false ∧
    u.composer.fallbackPlan = some plan ∧ u.composer.build = s.composer.build ∧
    EditsAfterCheck [] s.composer.editSerial u ∧ u.status = (if s.map = none then s.status else s.status.replaced) ∧
    OnlyChanges [.now, .composer, .ports, .timing, .status] s u ∧
    BoundaryEnds (fun i => u.composer.live.plans.getD i []) s u t

/-- BOUNDARY of an activation that has passed (R75, R77, R125, R135, R136): the capture comes into force; the mode becomes RUN
with supervision started and MODE_REACHED; the rings are initialised, each with its captured capacity and watermark, its counts,
indices and gap 0, and still to be cleared by the ring writer (R163); the last refusal reasons are cleared; the filter list, the
rate and the lead are the captured ones, a rate that differs returns the reference to FREERUN, and the next boundary and plan
point follow at the new rate and lead; every external source takes its settings and moves as R77 says, and the internal ones
have the wall rate (R75); the start layout is in force with its plans on the ports, the pending edits those of the check that
follows (R101); and the status writer's five sections of the captured map are left to be rewritten whole, the markers and the
current frame handed to the commit writer (R185; in that order, log 44). The ring writer first ends its work for the rings
before them (R149; O51), and what waited for them is lost with them (R163). The events are the TIMING event of a changed rate,
the SOURCE events with the activation mark in ascending source index, and the MODE event. The model's choices: the place of the
TIMING event (log 18), that the sections are written and the ring sections cleared at the grants and commands that follow (logs
15 and 44), the clock's value at which supervision starts (log 3), which windows count as changed (log 34), the way frames are
told apart (log 42), that the crop is set aside where the shown source is 40 itself (log 23), and that header writes of earlier
boundaries not yet granted are dropped (log 15). -/
def Obligations.BoundaryEndsActivation : Prop :=
  ∀ (s : State) (c : Captured) (plan : List WindowRec), s.modes.mode = .activating → s.modes.progress = .passed c plan →
    s.modeOk → s.tablesOk → s.layoutOk →
    let n := s.timing.frame + 1
    let new := fun i => c.settings.getD i ⟨false, 1, none, 0⟩
    let changes := c.rate ≠ s.timing.rate
    let found : Layout := { Layout.cleared with filters := c.filters }
    let ended := ({ s with now := max s.now s.timing.nextBoundary, timing := s.timing.atBoundary } : State).ringsDone
    let started : State := { ended with
      modes := { s.modes with captured := some c }, composer := { s.composer with live := found }
      report := { ended.report with
        journal := Ring.initial c.journal, urgent := Ring.initial c.urgent, routine := Ring.initial c.routine
        journalQueue := [], urgentQueue := [], routineQueue := [] } }
    (∀ p : RingParams, Ring.initial p = { capacity := p.capacity, watermark := p.watermark, fill := 0, writeIndex := 0
                                          releaseIndex := 0, gap := 0, reserved := 0, headerPending := false
                                          initPending := true }) ∧
    (∀ rate : Nat, SourceRec.internal rate = {
      state := .locked, settings := ⟨true, 1, none, 0⟩, stable := 3, qualified := some ⟨1920, 1080, .progressive, none, rate⟩
      measuredClass := some 1, holdEnd := none, lockCount := 0, lossCount := 0, candidate := none, activity := false
      framed := false, watchFrom := 0, latest := none }) ∧
    (WallRate.r50000.millihertz = 50000 ∧ WallRate.r59940.millihertz = 59940 ∧ WallRate.r60000.millihertz = 60000) ∧
    ∃ t, exec .boundary s = .next t ∧ t.now = max s.now s.timing.nextBoundary ∧
    t.modes = { s.modes with mode := .run, progress := .none, captured := some c,
                             supervision := if c.supervision = 0 then none else some (max s.now s.timing.nextBoundary) } ∧
    t.report.journalPart = (Ring.initial c.journal, [], none) ∧
    HandsOn started t (
      (if changes ∧ s.timing.ref ≠ .freerun then [timingEvent s.timing.ref .freerun 0 false false true] else []) ++
      (List.range Config.externalSources).flatMap (fun i => settingEvents i (s.source i) ((s.source i).settingMoves (new i))) ++
      [modeEvent .activating .run .activationDone])
      (fun k => decide (k = .modeReached) ||
      (decide (k = .timingChange) && decide (changes ∧ s.timing.ref ≠ .freerun))) ∧
    t.takes = { ended.takes with slots := ended.takes.slots.map (fun r => { r with lastRefusal := .none }) } ∧
    t.sources.length = Config.allSources ∧
    (∀ i, i < Config.externalSources → t.source i = (s.source i).afterSettings (new i) ∧
      (t.source i).settings = new i ∧ t.classOf i = (new i).declaredClass) ∧
    (∀ i, Config.externalSources ≤ i → i < Config.allSources → t.source i = SourceRec.internal c.rate.millihertz ∧
      t.classOf i = 1) ∧
    t.timing = (if changes then { s.timing with
        lead := c.lead, rate := c.rate, ref := .freerun, goodRun := 0, missingRun := 0, measured := none, intervals := [],
        runIntervals := [], prediction := none, afterNext := none, holdoverStart := none }
      else { s.timing with lead := c.lead }).afterBoundary ∧
    InstallsPlan (if c.startFallback then plan else Layout.cleared.windows) s.composer.live.windows n t ∧
    t.composer.live.filters = c.filters ∧ t.composer.fallbackPlan = some plan ∧ t.composer.overruns = 0 ∧
    t.composer.epoch = s.composer.epoch + 1 ∧ t.composer.build = s.composer.build ∧ t.composer.fallbackOwed = false ∧
    EditsAfterCheck [] s.composer.editSerial t ∧
    BeginsFrames (fun i => t.composer.live.plans.getD i []) t ∧
    t.status = { StatusWriter.reset with
      windowsPending := true, plansPending := true, filtersPending := true, toRewrite := [3, 4, 5, 6, 7]
      headerWrites := [.marker .windowTable, .marker .tilePlans, .marker .filterList, .frame n] } ∧
    OnlyChanges [.interrupt, .takes, .composer, .ports, .sources, .timing, .modes, .rings, .causes, .status] ended t

/-! The status writer and the ring writer (R21, R22, R27, R93, R148 to R156). -/

/-- The status writer's commands end its works with their last writes, after the blocks of the work that still have to be
written: MIRROR_REWRITE_DONE a mirror, with the plan epoch and a clear marker in its header (R21, R22), SOURCE_RECORD_PUBLISHED
the source record that stands next, the waiting ones in index order, with its update count raised, its marker clear, and the
section's change count (R93), SLOT_TABLE_WRITTEN the next post sequence in the slot table header or a slot record (R27); and a
section that a soft reset or an activation left to be rewritten whole, its surplus zero, all its counts 0 (R25, R47, R95, R135,
R161, R189, R190). A block holds what the state shows when it is written, the timer of a source as it stands then (R93). Each
grant without a command writes one block (R184). A command comes when the status writer is granted (R184), behind the commit
writer's header writes (O44), its blocks and those at their turns (O15), and the accesses that wait are taken in order
afterwards (R177; O15). With nothing to write, or not granted, they do nothing (log 4). That a work is rewritten with its
command or at the ticks before it is the model's choice (logs 14, 15, 43 and 44), and so is the order in which it takes up its
works at the ticks: whole sections, mirrors, then, the slot table having nothing to copy, source records (log 44). -/
def Obligations.StatusWriterWritesRecords : Prop :=
  (∀ (s : State) (m : SectionMap) (n : Nat) (c : Instr) (head : List Byte) (w : StatusWriter), s.map = some m →
    s.writerGranted = true → n ∈ s.status.toRewrite →
    (∃ k, c = .mirrorRewriteDone k ∧ n = mirrorSection k ∧ w = s.status.rewritten k ∧
        head = mirrorHeaderBytes s.composer.epoch false) ∨
      (∃ i, c = .sourceRecordPublished i ∧ n = 6 ∧ head = sourceHeaderBytes 0 ∧
        w = { s.status with sourceDirty := 0, updateCounts := List.replicate 44 0, changeCount := 0 }) ∨
      (∃ p, c = .slotTableWritten p ∧ n = 3 ∧ w = { s.status with slotDirty := 0, slotHeaderDirty := false } ∧
        head = slotHeaderBytes s.timing.frame s.takes.nextSeq) →
    exec c s = .next ({ s.ctlWrites (s.status.headerWrites.map s.headerBlock ++ s.statusLeft (.wholeSection n) ++
        [((sectionOf m n).start, head)]) with
      status := { w with toRewrite := s.status.toRewrite.filter (fun k => decide (k ≠ n)), headerWrites := []
                         job := s.status.job.filter (fun k => decide (k.1 ≠ .wholeSection n)) } } : State).resume) ∧
  (∀ (s : State) (m : SectionMap) (k : Mirror), s.map = some m → s.writerGranted = true →
    mirrorSection k ∉ s.status.toRewrite → s.status.rewriting k = true →
    exec (.mirrorRewriteDone k) s = .next ({ s.ctlWrites (s.status.headerWrites.map s.headerBlock ++ s.statusLeft (.mirror k) ++
        [((sectionOf m (mirrorSection k)).start, mirrorHeaderBytes s.composer.epoch false)]) with
      status := { s.status.rewritten k with
        headerWrites := [], job := s.status.job.filter (fun j => decide (j.1 ≠ .mirror k)) } } : State).resume) ∧
  (∀ (s : State) (m : SectionMap) (i : Fin 44), s.map = some m → s.writerGranted = true → 6 ∉ s.status.toRewrite →
    s.status.sourceDirty.getLsbD i.val = true → s.status.nextSource = some i.val →
    let update := s.status.updateCounts.getD i.val 0 + 1
    exec (.sourceRecordPublished i) s = .next ({ s.ctlWrites (s.status.headerWrites.map s.headerBlock ++
        s.statusLeft (.source i.val) ++
        [((sectionOf m 6).start + 64 + 32 * i.val, sourceRecordBytes false (s.source i.val) update s.now),
         ((sectionOf m 6).start, bytesWord (s.status.changeCount + 1))]) with
      status := { s.status with
        sourceDirty := s.status.sourceDirty &&& ~~~(1#44 <<< i.val), updateCounts := s.status.updateCounts.set i.val update
        changeCount := s.status.changeCount + 1, headerWrites := []
        job := s.status.job.filter (fun j => decide (j.1 ≠ .source i.val)) } } : State).resume) ∧
  (∀ (s : State) (m : SectionMap), s.map = some m → s.writerGranted = true → 3 ∉ s.status.toRewrite →
    (s.status.slotHeaderDirty = true → exec (.slotTableWritten .header) s = .next ({ s.ctlWrites
        (s.status.headerWrites.map s.headerBlock ++ [((sectionOf m 3).start + 4, bytesHalf s.takes.nextSeq)]) with
      status := { s.status with slotHeaderDirty := false, headerWrites := [] } } : State).resume) ∧
    (∀ i : Fin 16, s.status.slotDirty.getLsbD i.val = true → exec (.slotTableWritten (.record i)) s = .next ({ s.ctlWrites
        (s.status.headerWrites.map s.headerBlock ++
          [((sectionOf m 3).start + 64 + 16 * i.val, slotRecordBytes (s.slot i.val))]) with
      status := { s.status with slotDirty := s.status.slotDirty &&& ~~~(1#16 <<< i.val), headerWrites := [] } } : State).resume)) ∧
  (∀ (s : State) (m : SectionMap), s.map = some m →
    (∀ k, s.statusBlocks (.mirror k) = ((sectionOf m (mirrorSection k)).start + 4, [1]) ::
      blocksOf ((sectionOf m (mirrorSection k)).start + 64) (mirrorRecords s.composer.live s.geometry.tiles k)) ∧
    (∀ i, s.statusBlocks (.source i) = [((sectionOf m 6).start + 64 + 32 * i, [1]),
      ((sectionOf m 6).start + 64 + 32 * i,
        sourceRecordBytes true (s.source i) (s.status.updateCounts.getD i 0) s.now)]) ∧
    (∀ n bs, (n = 3 ∧ bs = s.takes.slots.flatMap slotRecordBytes) ∨
        (n = 6 ∧ bs = s.sources.flatMap (fun r => sourceRecordBytes false r 0 s.now)) ∨
        (∃ k, n = mirrorSection k ∧ bs = mirrorRecords s.composer.live s.geometry.tiles k) →
      s.statusBlocks (.wholeSection n) = (if n = 3 ∨ n = 6 then [] else [((sectionOf m n).start + 4, [1])]) ++
        blocksOf ((sectionOf m n).start + 64) (bs ++ List.replicate ((sectionOf m n).size - 64 - bs.length) 0)) ∧
    (∀ j n, s.status.job = some (j, n) → s.statusLeft j = (s.statusBlocks j).drop n) ∧
    (∀ j, (∀ n, s.status.job ≠ some (j, n)) → s.statusLeft j = s.statusBlocks j)) ∧
  (∀ (s : State) (j : StatusJob) (n : Nat) (b : Nat × List Byte), s.status.job = some (j, n) ∨
      (s.status.job = none ∧ s.status.next = some j ∧ n = 0) → (s.statusBlocks j)[n]? = some b →
    s.grantTo .statusWriter = { s with
      ram := Memory.write s.ram b.1 b.2, lastServed := .controller, status := { s.status with job := some (j, n + 1) } }) ∧
  (∀ s : State, (s.status.job = none ∧ s.status.next = none) ∨ (∃ j n, (s.status.job = some (j, n) ∨
      (s.status.job = none ∧ s.status.next = some j ∧ n = 0)) ∧ (s.statusBlocks j)[n]? = none) →
    s.grantTo .statusWriter = { s with lastServed := .controller }) ∧
  (mirrorSection .windowTable = 4 ∧ mirrorSection .tilePlans = 5 ∧ mirrorSection .filterList = 7) ∧
  (∀ w : StatusWriter,
    (w.rewriting .windowTable = w.windowsPending ∧ w.rewritten .windowTable = { w with windowsPending := false }) ∧
    (w.rewriting .tilePlans = w.plansPending ∧ w.rewritten .tilePlans = { w with plansPending := false }) ∧
    (w.rewriting .filterList = w.filtersPending ∧ w.rewritten .filterList = { w with filtersPending := false }) ∧
    (∀ n l, w.toRewrite = n :: l → w.next = some (.wholeSection n)) ∧
    (w.toRewrite = [] →
      (w.windowsPending = true → w.next = some (.mirror .windowTable)) ∧
      (w.windowsPending = false → w.plansPending = true → w.next = some (.mirror .tilePlans)) ∧
      (w.windowsPending = false → w.plansPending = false → w.filtersPending = true → w.next = some (.mirror .filterList)) ∧
      (w.windowsPending = false → w.plansPending = false → w.filtersPending = false →
        w.next = if w.slotHeaderDirty = true ∨ w.slotDirty ≠ 0 then none else w.nextSource.map .source))) ∧
  (∀ w : StatusWriter, (∀ i n, w.job = some (.source i, n) → w.nextSource = some i) ∧
    ((∀ i n, w.job ≠ some (.source i, n)) → ∀ i, w.nextSource = some i ↔
      i < 44 ∧ w.sourceDirty.getLsbD i = true ∧ ∀ k, k < i → w.sourceDirty.getLsbD k = false) ∧
    (w.job = none → ∀ i, w.next = some (.source i) → w.nextSource = some i)) ∧
  (∀ s : State,
    (∀ k, s.map = none ∨ s.writerGranted = false ∨ (mirrorSection k ∉ s.status.toRewrite ∧ s.status.rewriting k = false) →
      exec (.mirrorRewriteDone k) s = .next s) ∧
    (∀ i : Fin 44, s.map = none ∨ s.writerGranted = false ∨ (6 ∉ s.status.toRewrite ∧
        (s.status.sourceDirty.getLsbD i.val = false ∨ s.status.nextSource ≠ some i.val)) →
      exec (.sourceRecordPublished i) s = .next s) ∧
    (s.map = none ∨ s.readerGranted = false ∨ (s.status.frameWaits = false ∧
        (s.writerGranted = false ∨ (3 ∉ s.status.toRewrite ∧ s.status.slotHeaderDirty = false))) →
      exec (.slotTableWritten .header) s = .next s) ∧
    (∀ i : Fin 16, s.map = none ∨ s.writerGranted = false ∨
        (3 ∉ s.status.toRewrite ∧ s.status.slotDirty.getLsbD i.val = false) →
      exec (.slotTableWritten (.record i)) s = .next s))

/-- RING_ENTRY_WRITE with an entry waiting writes it at the place the write index names, with the event's gap field the pending
gap, then the header that counts it: the write index and the fill count advance, the journal's reserved count falls by one, an
event ring's pending gap becomes 0, and the watermark cause is set exactly when the fill count reaches the watermark (R149,
R150, R152 to R156). A journal entry carries a copy of the summary as it stands when its bytes are written, at the command or at
a tick before it, but JOURNAL_PENDING set and the take's own slot counted as IDLE (R154; the bits: O2, the bytes: O60). The take
of a journal entry ends with it: its slot becomes IDLE (R43, R154), or, for the post in hand, the take engine goes on with the
slots that the POST still names (R37); that it ends here is the model's choice (log 10). Each slot record that changes is to be
copied (R27). Events that wait for a ring that is now full are lost, one of the pending gap each, with EVENTS_LOST (R155): that
they are lost then is the model's choice (log 11). Header work the ring writer has comes first (O51), each block at its turn
(O15), and of a work begun at grants before, the command writes what is left (R184; log 44). The accesses that wait are taken in
order afterwards (R177; O15). With nothing waiting it does nothing (log 4). What writes every journal entry that waits (O12,
O23, O24, O28) does this entry by entry, the interrupt delivered (R172). The entry of the take in a slot carries the slot, the
outcome, the reason, the failed entry and tile, CANCEL_LATE, the driver tag of the header read at the post, the post sequence
and the frame (R153); a plain outcome has no reason and neither of the two. -/
def Obligations.RingEntryWriteCountsEntry : Prop :=
  (∀ (s : State) (k : RingId),
    (s.report.waitingFor k = 0 → exec (.ringEntryWrite k) s = .next s ∧ s.writeEntry k = s) ∧
    (s.report.waitingFor k ≠ 0 → exec (.ringEntryWrite k) s = .next (s.writeEntry k).resume) ∧
    s.report.waitingFor k = (match k with
      | .journal => s.report.journalQueue.length | .urgent => s.report.urgentQueue.length
      | .routine => s.report.routineQueue.length) ∧
    ((s.report.ring k).initPending = true ∨ (s.report.ring k).headerPending = true →
      s.writeEntry k = (s.flushRing k).writeEntry k ∨ s.report.waitingFor k = 0)) ∧
  (∀ (s : State) (m : SectionMap) (e : JournalEntry) (q : List JournalEntry), s.map = some m →
    s.report.journalQueue = e :: q → s.takes.slots.length = Config.slotCount → e.slot < Config.slotCount →
    (∀ j ∈ s.takes.toHandle, j < Config.slotCount) →
    s.report.journal.initPending = false → s.report.journal.headerPending = false →
    let r := s.report.journal
    let a := (sectionOf m 8).start
    let entry := fun u : State =>
      (a + 64 + r.writeIndex * 32, journalEntryBytes e (e.frame.getD s.timing.frame) (u.summaryCopy e.slot))
    let bytes := entry s.portTurn
    let r1 := { r with writeIndex := (r.writeIndex + 1) % r.capacity, fill := r.fill + 1, reserved := r.reserved - 1 }
    let v := s.ctlWrites ([bytes].drop (s.report.written (.entry .journal)) ++ [(a, ringHeaderBytes r1)])
    let counted := ({ v with report := { v.report with
      journal := r1, journalQueue := q
      ringJob := s.report.ringJob.filter (fun j => decide (j.1 ≠ .entry .journal)) } } : State).raiseIf
        (decide (r.fill + 1 = r.watermark)) .journalWatermark
    let u := s.writeEntry .journal
    s.ringBlocks (.entry .journal) = [entry s] ∧
    (s.takes.checking = some e.slot → HandlesPosts s.takes.toHandle counted u ∧
      OnlyChanges [.takes, .rings, .interrupt, .causes, .status] counted u) ∧
    (s.takes.checking ≠ some e.slot → (∀ i, u.slot i = if i = e.slot then (s.slot i).ended else s.slot i) ∧
      u.takes = { s.takes with slots := u.takes.slots } ∧ AsksCopies s.status counted u ∧
      OnlyChanges [.takes, .status] counted u)) ∧
  (∀ (s : State) (m : SectionMap) (k : RingId) (e : Event) (q : List Event), s.map = some m → k ≠ .journal →
    s.report.queue k = e :: q → (s.report.ring k).initPending = false → (s.report.ring k).headerPending = false →
    let r := s.report.ring k
    let a := (sectionOf m (ringSection k)).start
    let bytes := (a + 64 + r.writeIndex * 16, eventBytes e r.gap (e.frame.getD s.timing.frame))
    let r1 := { r with writeIndex := (r.writeIndex + 1) % r.capacity, fill := r.fill + 1, gap := 0 }
    let v := s.ctlWrites ([bytes].drop (s.report.written (.entry k)) ++ [(a, ringHeaderBytes r1)])
    let full := q ≠ [] ∧ r.capacity ≤ r.fill + 1
    let rest := ({ v.report with ringJob := s.report.ringJob.filter (fun j => decide (j.1 ≠ .entry k)) } : Report)
    let rings := (rest.setRing k (if full then { r1 with gap := min 255 q.length, headerPending := true } else r1)).setQueue k
      (if full then [] else q)
    s.ringBlocks (.entry k) = [bytes] ∧
    s.writeEntry k = (({ v with report := rings } : State).raiseIf (decide (r.fill + 1 = r.watermark))
      (ringWatermarkCause k)).raiseIf (decide full) .eventsLost) ∧
  (∀ (s : State) (slot : Nat),
    s.summaryCopy slot = { s.summary with journalPending := true, slotsBusy := (s.summaryCopy slot).slotsBusy } ∧
    ((s.summaryCopy slot).slotsBusy = true ↔ ∃ i, i ≠ slot ∧ ((s.slot i).state = .posted ∨ (s.slot i).state = .building))) ∧
  (∀ (s : State) (i : Nat) (o : TakeOutcome) (r : Reason) (entry tile : Option Nat) (late : Bool) (frame : Option Word),
    s.entryOf i (o, r, entry, tile) late frame = {
      slot := i, outcome := o, reason := r, failedEntry := entry, failedTile := tile, cancelLate := late
      driverTag := (s.slot i).header.driverTag, seq := (s.slot i).seq, frame := frame } ∧
    plainOutcome o = (o, .none, none, none)) ∧
  (ringWatermarkCause .journal = .journalWatermark ∧ ringWatermarkCause .urgent = .urgentWatermark ∧
    ringWatermarkCause .routine = .routineWatermark) ∧
  (∀ s : State, KeepsDelivery s s.journalDone) ∧
  (∀ s : State, (s.report.journalQueue = [] → s.journalDone = s) ∧
    (s.report.journalQueue ≠ [] → s.journalDone = (s.writeEntry .journal).journalDone) ∧
    s.journalDone.report.journalQueue = [] ∧
    OnlyChanges [.ram, .lastServed, .waiting, .blocks, .completion, .interrupt, .takes, .rings, .causes, .status] s s.journalDone) ∧
  (∀ (s : State) (b : Bool) (c : Cause), let t := s.raiseIf b c
    (∀ d, t.causeSet d = (s.causeSet d || (b && decide (d = c)))) ∧ t.report.enables = s.report.enables ∧
    (b = true → Delivers s t ∧ s.raise c = t) ∧ (b = false → t = s) ∧ OnlyChanges [.interrupt, .causes] s t)

/-- RING_HEADER_REWRITE with header work for a ring writes its 64-byte header, after clearing what is left to clear of the
section where the ring is still to be initialised, and no other byte; the counts stay and nothing is flagged (R148, R151, R163,
R164). Before a map is captured no byte is written. Which changes leave header work is the model's choice (log 13), and so is
that the section is cleared at the grants and with the command that follow, not at the boundary or the soft reset (log 15). Each
block has its turn, and the accesses that wait are taken in order afterwards (R177, R184; O15). With no work it does nothing (log
4). At the boundary that ends an activation the ring writer does all its work for each ring, entries before the header (R149;
O48). A grant to the ring writer without a command writes one block of at most 64 bytes: of the work in hand, else of the first
ring that has work, in the order journal, urgent, routine (R149, R184); the header write that ends a work comes with its command
(log 44). Blocks read as the bytes they are cut from. -/
def Obligations.RingHeaderRewriteWritesHeader : Prop :=
  (∀ (s : State) (m : SectionMap) (k : RingId), s.map = some m →
    (s.report.ring k).initPending = true ∨ (s.report.ring k).headerPending = true →
    let r := s.report.ring k
    let c := sectionOf m (ringSection k)
    let r1 := { r with initPending := false, headerPending := false }
    let left := if r.initPending then s.ringLeft (.clear k) else []
    let v := s.ctlWrites (left ++ [(c.start, ringHeaderBytes r1)])
    exec (.ringHeaderRewrite k) s = .next (s.flushRing k).resume ∧
    s.flushRing k = { v with report := { v.report.setRing k r1 with
      ringJob := s.report.ringJob.filter (fun j => !r.initPending || decide (j.1 ≠ .clear k)) } }) ∧
  (∀ (s : State) (k : RingId), s.map = none → (s.report.ring k).initPending = false →
    (s.report.ring k).headerPending = true → exec (.ringHeaderRewrite k) s = .next
      ({ s with report := s.report.setRing k { s.report.ring k with headerPending := false } } : State).resume) ∧
  (∀ (s : State) (k : RingId), (s.report.ring k).initPending = false → (s.report.ring k).headerPending = false →
    exec (.ringHeaderRewrite k) s = .next s ∧ s.flushRing k = s) ∧
  (∀ (s : State) (m : SectionMap) (k : RingId), s.map = some m →
    let c := sectionOf m (ringSection k)
    let clear := blocksOf (c.start + 64) (List.replicate (c.size - 64) 0)
    s.ringBlocks (.clear k) = clear ∧ (s.ringBlocks (.entry k)).length = 1) ∧
  (∀ (s : State) (j : RingJob), s.ringLeft j = (s.ringBlocks j).drop (s.report.written j) ∧
    (∀ n, s.report.ringJob = some (j, n) → s.report.written j = n) ∧
    ((∀ n, s.report.ringJob ≠ some (j, n)) → s.report.written j = 0)) ∧
  (∀ (s : State) (k : RingId),
    (s.report.waitingFor k = 0 → s.ringDone k = s.flushRing k) ∧
    (s.report.waitingFor k ≠ 0 → s.ringDone k = (s.writeEntry k).ringDone k) ∧
    s.ringsDone = ((s.ringDone .journal).ringDone .urgent).ringDone .routine) ∧
  (∀ (ram : Memory) (a x : Nat) (bs : List Byte),
    Memory.read (Memory.writes ram (blocksOf a bs)) x = Memory.read (Memory.write ram a bs) x ∧
    ∀ b ∈ blocksOf a bs, b.2 ≠ [] ∧ b.1 % 64 + b.2.length ≤ 64) ∧
  (∀ (s : State) (j : RingJob) (n : Nat) (b : Nat × List Byte), s.report.ringJob = some (j, n) ∨
      (s.report.ringJob = none ∧ s.report.nextRingJob = some j ∧ n = 0) → (s.ringBlocks j)[n]? = some b →
    s.grantTo .ringWriter = { s with
      ram := Memory.write s.ram b.1 b.2, lastServed := .controller
      report := { s.report with ringJob := some (j, n + 1) } }) ∧
  (∀ s : State, (s.report.ringJob = none ∧ s.report.nextRingJob = none) ∨ (∃ j n, (s.report.ringJob = some (j, n) ∨
      (s.report.ringJob = none ∧ s.report.nextRingJob = some j ∧ n = 0)) ∧ (s.ringBlocks j)[n]? = none) →
    s.grantTo .ringWriter = { s with lastServed := .controller }) ∧
  (ringSection .journal = 8 ∧ ringSection .urgent = 9 ∧ ringSection .routine = 10) ∧
  (∀ (r : Report) (v : Ring) (q : List Event),
    (r.ring .journal = r.journal ∧ r.ring .urgent = r.urgent ∧ r.ring .routine = r.routine) ∧
    (r.queue .journal = [] ∧ r.queue .urgent = r.urgentQueue ∧ r.queue .routine = r.routineQueue) ∧
    (r.setRing .journal v = { r with journal := v } ∧ r.setRing .urgent v = { r with urgent := v } ∧
      r.setRing .routine v = { r with routine := v }) ∧
    (r.setQueue .journal q = r ∧ r.setQueue .urgent q = { r with urgentQueue := q } ∧
      r.setQueue .routine q = { r with routineQueue := q }) ∧
    ∀ k, r.ringWork k = true ↔ (r.ring k).initPending = true ∨ (r.ring k).headerPending = true ∨ r.waitingFor k ≠ 0) ∧
  (∀ (s : State) (j : RingJob), s.report.nextRingJob = some j ↔ ∃ k, s.report.ringWork k = true ∧
    (∀ o, ringSection o < ringSection k → s.report.ringWork o = false) ∧
    if (s.report.ring k).initPending then j = .clear k else (s.report.ring k).headerPending = false ∧ j = .entry k)

/-! Sources (R78 to R92). -/

/-- ACTIVITY_ARRIVAL and ACTIVITY_LOSS (R78, R83 to R89). An arrival notes the activity, and takes an ABSENT source to ACQUIRING;
a loss notes it, takes ACQUIRING and OVERCLASS to ABSENT, and LOCKED to LOSS_HOLD with its timer started, or, where the loss hold
is 0, to ABSENT with the loss count raised. In any other state only the lane's activity is noted. A change of state is to be
published (R90, R93); that the record's writing marker is set only when the status writer begins with it is the model's choice
(log 43), and so is that a whole section being rewritten is begun anew (log 15). A change that is not one does nothing (log 4). -/
def Obligations.ActivityMovesSources : Prop :=
  ∀ (s : State) (lane : Fin 40), s.sources.length = Config.allSources →
    let i := lane.val
    let r := s.source i
    (r.activity = false → ∃ t, exec (.activityArrival lane) s = .next t ∧
      let r1 := { r with activity := true, framed := false, watchFrom := s.now }
      if r.state = .absent then
        ChangesSource i (r1.without .acquiring 0 none) [changeEvent i r (r1.without .acquiring 0 none) false] s t ∧
          OnlyChanges sourceParts s t
      else t.sources = s.sources.set i r1 ∧ OnlyChanges [.sources] s t) ∧
    (r.activity = true → exec (.activityArrival lane) s = .next s) ∧
    (r.activity = true → ∃ t, exec (.activityLoss lane) s = .next t ∧
      let r1 := { r with activity := false, framed := false }
      match r1.afterLoss s.now with
      | some r2 => ChangesSource i r2 [changeEvent i r r2 false] s t ∧ OnlyChanges sourceParts s t
      | none => t.sources = s.sources.set i r1 ∧ OnlyChanges [.sources] s t) ∧
    (r.activity = false → exec (.activityLoss lane) s = .next s)

/-- FRAME_ARRIVAL on a lane with activity (R24, R78, R79, R80, R83 to R87, R89, R92). The frame is the most recent one of the
lane; its period is left out in the first frame after an activity arrival, and is there in every later one. DISABLED only notes
the frame; ABSENT starts to qualify; ACQUIRING counts a frame that matches its candidate and qualifies at the third, LOCKED or
OVERCLASS by the measured class; a frame that matches changes nothing in LOCKED and OVERCLASS and ends LOSS_HOLD with the glitch
mark; one that does not starts qualification again, from LOCKED with a FORMAT event first. Frames match when their sizes, scans
and tags are equal, an absent tag only to an absent one, and their periods, where both are present, lie within 1 % of the earlier
(R79). The measured class (R81) is 8 outside 64 to 4096 by 36 to 2160, and else 1, 2, 4 or 8 by the product of width, height and
rate; the spec's worked values of it, and of the rate of a period of 40,000 µs (R80), hold. The formula of R80 gives 59,941 for
the worked 16,683 µs: that it holds there is the model's choice (log 41), and so are the number that tells frames apart (log 42),
when the writing marker is set (log 43), that a whole section being rewritten is begun anew (log 15), a first period disregarded
(log 47), and the free rate of a qualifying frame without a period, which no lane reports (log 21). Without activity, or without
a period where one is due, no frame is taken (log 4). -/
def Obligations.FrameArrivalMovesSources : Prop :=
  (∀ (s : State) (lane : Fin 40) (reported : Measurement), s.sources.length = Config.allSources →
    let i := lane.val
    let r := s.source i
    let m := if r.framed then reported else { reported with period := none }
    let r1 := { r with framed := true, watchFrom := s.now
                       latest := some ⟨(r.latest.map (·.number)).getD 0 + 1, reported.scan⟩ }
    let again := r1.without .acquiring 1 (some m)
    let restarts := fun t : State => ChangesSource i again [changeEvent i r again false] s t ∧ OnlyChanges sourceParts s t
    let notes := fun t : State => t.sources = s.sources.set i r1 ∧ OnlyChanges [.sources] s t
    (r.activity = true → r.framed = false ∨ reported.period ≠ none → ∃ t, exec (.frameArrival lane reported) s = .next t ∧
      (match r.state with
        | .disabled => notes t
        | .absent => restarts t
        | .acquiring =>
          if r.stableAfter m < 3 then
            t.sources = s.sources.set i { r1 with stable := r.stableAfter m, candidate := some m } ∧
              (if r.stableAfter m = r.stable then OnlyChanges [.sources] s t
               else AsksRewrite i s t ∧ OnlyChanges [.sources, .status] s t)
          else ∃ rate, (∀ p, m.period = some p → 0 < p → rate = (2000000000 + p) / (2 * p)) ∧
            ChangesSource i (r1.qualifiedBy m rate) [changeEvent i r (r1.qualifiedBy m rate) false] s t ∧
            t.freeIdx = (if m.period = none ∨ m.period = some 0 then s.freeIdx + 1 else s.freeIdx) ∧
            OnlyChanges (.freeIdx :: sourceParts) s t
        | .locked =>
          if r.frameMatches m then notes t
          else match r.qualified with
            | none => restarts t
            | some f => ChangesSource i again [formatEvent i (decide (f.width ≠ m.width.toNat ∨ f.height ≠ m.height.toNat))
                (!f.rateMatches m.period) (decide (f.scan ≠ m.scan)) (decide (f.tag ≠ m.tag)), changeEvent i r again false] s t ∧
                OnlyChanges sourceParts s t
        | .overclass => if r.frameMatches m then notes t else restarts t
        | .lossHold =>
          if r.frameMatches m then
            ChangesSource i { r1 with state := .locked, holdEnd := none }
              [changeEvent i r { r1 with state := .locked, holdEnd := none } true] s t ∧ OnlyChanges sourceParts s t
          else restarts t)) ∧
    (r.activity = false ∨ (r.framed = true ∧ reported.period = none) → exec (.frameArrival lane reported) s = .next s)) ∧
  (∀ c m : Measurement, candidateMatches c m = true ↔ c.width = m.width ∧ c.height = m.height ∧ c.scan = m.scan ∧
    c.tag = m.tag ∧ ∀ p q, c.period = some p → m.period = some q → 100 * (p - q) ≤ p ∧ 100 * (q - p) ≤ p) ∧
  (∀ (f : Format) (p : Nat), f.rateMatches none = true ∧ (f.rateMatches (some p) = true ↔
    99 * 1000000000 ≤ 100 * (p * f.rate) ∧ 100 * (p * f.rate) ≤ 101 * 1000000000)) ∧
  (∀ (r : SourceRec) (m : Measurement), r.frameMatches m = true ↔ ∃ f, r.qualified = some f ∧ f.width = m.width.toNat ∧
    f.height = m.height.toNat ∧ f.scan = m.scan ∧ f.tag = m.tag ∧ f.rateMatches m.period = true) ∧
  (∀ w h rate : Nat,
    (w < 64 ∨ 4096 < w ∨ h < 36 ∨ 2160 < h → measuredClassOf w h rate = 8) ∧
    (64 ≤ w → w ≤ 4096 → 36 ≤ h → h ≤ 2160 →
      (w * h * rate ≤ 75000000000 → measuredClassOf w h rate = 1) ∧
      (75000000000 < w * h * rate → w * h * rate ≤ 150000000000 → measuredClassOf w h rate = 2) ∧
      (150000000000 < w * h * rate → w * h * rate ≤ 600000000000 → measuredClassOf w h rate = 4) ∧
      (600000000000 < w * h * rate → measuredClassOf w h rate = 8))) ∧
  (rateOfPeriod 40000 = 25000 ∧
    measuredClassOf 1280 720 60000 = 1 ∧ measuredClassOf 1920 1080 30000 = 1 ∧ measuredClassOf 1920 1080 59940 = 2 ∧
    measuredClassOf 1920 1200 60000 = 2 ∧ measuredClassOf 2560 1440 60000 = 4 ∧ measuredClassOf 3840 2160 60000 = 4 ∧
    measuredClassOf 3840 2160 120000 = 8 ∧ measuredClassOf 5120 2160 30000 = 8)

/-- FRAME_TIMEOUT on a lane with activity, and LOSS_HOLD_EXPIRY (R84 to R88): a timeout clears the count and the candidate in
ACQUIRING, is handled as a loss in LOCKED and OVERCLASS, and is not counted in any other state; the expiry takes LOSS_HOLD to
ABSENT with the loss count raised. Both come at their due times, which is the model's choice (log 3), and so are when the writing
marker is set (log 43) and that a whole section being rewritten is begun anew (log 15); where none is due nothing changes
(log 4). -/
def Obligations.TimeoutsMoveSources : Prop :=
  ∀ (s : State) (lane : Fin 40), s.sources.length = Config.allSources →
    let i := lane.val
    let r := s.source i
    let due := r.watchFrom + 10000000
    (r.activity = true → r.state = .acquiring → ∃ t, exec (.frameTimeout lane) s = .next t ∧ t.now = max s.now due ∧
      t.sources = s.sources.set i { r with stable := 0, candidate := none, watchFrom := due } ∧
      (if r.stable = 0 then OnlyChanges [.now, .sources] s t
       else AsksRewrite i s t ∧ OnlyChanges [.now, .sources, .status] s t)) ∧
    (r.activity = true → r.state = .locked ∨ r.state = .overclass → ∃ t, exec (.frameTimeout lane) s = .next t ∧
      t.now = max s.now due ∧ (∀ r2, r.afterLoss (max s.now due) = some r2 →
        ChangesSource i r2 [changeEvent i r r2 false] s t) ∧ OnlyChanges (.now :: sourceParts) s t) ∧
    (r.activity = false ∨ r.state = .disabled ∨ r.state = .absent ∨ r.state = .lossHold →
      exec (.frameTimeout lane) s = .next s) ∧
    (∀ e, r.state = .lossHold → r.holdEnd = some e → ∃ t, exec (.lossHoldExpiry lane) s = .next t ∧ t.now = max s.now e ∧
      ChangesSource i r.holdExpired [changeEvent i r r.holdExpired false] s t ∧ OnlyChanges (.now :: sourceParts) s t) ∧
    (r.state ≠ .lossHold ∨ r.holdEnd = none → exec (.lossHoldExpiry lane) s = .next s)

/-! Wall timing (R117 to R124). -/

/-- REFERENCE_ARRIVAL that does not move the reference state (R117 to R119). In FREERUN and HOLDOVER it counts a good interval
or ends the run. In LOCKED one outside the window changes nothing but the time it was seen; one inside is the expected arrival:
its interval joins the eight latest where it is good and no pulse was missing, the measured period is their mean, and the
boundary it falls nearest to is corrected. An interval is good within 0.5 % of the nominal period of the rate (R112, R117), a
mean is rounded to the nearest 0.1 µs, a half up (R118), and one period is the nominal one in FREERUN, the measured one in
LOCKED and HOLDOVER (R112). The clock's value is the model's choice (log 3), and so is that the correction uses the mean with
the arrival's own interval in it (log 46). -/
def Obligations.ReferenceArrivalTracks : Prop :=
  (WallRate.r50000.nominal = 200000 ∧ WallRate.r59940.nominal = 166833 ∧ WallRate.r60000.nominal = 166667) ∧
  (∀ iv : Nat, (goodInterval .r50000 iv = true ↔ 199000 ≤ iv ∧ iv ≤ 201000) ∧
    (goodInterval .r59940 iv = true ↔ 165999 ≤ iv ∧ iv ≤ 167667) ∧
    (goodInterval .r60000 iv = true ↔ 165834 ≤ iv ∧ iv ≤ 167500)) ∧
  (∀ l : List Nat, l ≠ [] → 2 * meanInterval l * l.length ≤ 2 * l.sum + l.length ∧
    2 * l.sum + l.length < 2 * (meanInterval l + 1) * l.length) ∧
  (∀ t : Timing, (t.ref = .freerun → t.period = t.rate.nominal) ∧
    (t.ref = .locked ∨ t.ref = .holdover → ∀ p, t.measured = some p → t.period = p) ∧
    (t.measured = none → t.period = t.rate.nominal)) ∧
  (∀ a b : Time, distance a b = (a - b) + (b - a)) ∧
  (∀ (s : State) (time : Time), s.timing.ref ≠ .locked → (s.timing.runAfter time).1 < 8 →
    ∃ t, exec (.referenceArrival time) s = .next t ∧ t.now = max s.now time ∧
    t.timing = { s.timing with prevArrival := some time, goodRun := (s.timing.runAfter time).1,
                               runIntervals := (s.timing.runAfter time).2 } ∧ OnlyChanges [.now, .timing] s t) ∧
  (∀ (s : State) (time : Time), s.timing.ref = .locked →
    let t0 := s.timing
    let p0 := t0.measured.getD t0.rate.nominal
    ((∀ q, t0.prediction = some q → p0 < 200 * distance time q) → ∃ t, exec (.referenceArrival time) s = .next t ∧
      t.now = max s.now time ∧ t.timing = { t0 with prevArrival := some time } ∧ OnlyChanges [.now, .timing] s t) ∧
    (∀ q, t0.prediction = some q → 200 * distance time q ≤ p0 → ∃ t, exec (.referenceArrival time) s = .next t ∧
      t.now = max s.now time ∧ OnlyChanges [.now, .timing] s t ∧
      let joins := t0.missingRun = 0 ∧ t0.prevExpected.any (fun e => goodInterval t0.rate (time - e)) = true
      let l := t0.intervals ++ [time - t0.prevExpected.getD 0]
      let l8 := l.drop (l.length - 8)
      let p := if joins then meanInterval l8 else p0
      let before := distance time t0.lastBoundary ≤ distance time t0.nextBoundary
      t.timing = { t0 with
        prevArrival := some time, prevExpected := some time, missingRun := 0, prediction := some (time + p)
        intervals := if joins then l8 else t0.intervals, measured := if joins then some p else t0.measured
        nextBoundary := if before then time + p else t0.nextBoundary
        nextPlan := if before ∧ t0.planDone = false then time + p - t0.lead * 10 else t0.nextPlan
        afterNext := if before then t0.afterNext else some (time + p) }))

/-- REFERENCE_ARRIVAL that brings the good run to 8 moves FREERUN and HOLDOVER to LOCKED, with the mean of the eight intervals
as the measured period, one TIMING event and TIMING_CHANGE (R118, R121, R124). From HOLDOVER within 0.5 % it corrects the
schedule; else it realigns: less than half a period after the last boundary the frame is lengthened, and from half a period on
the boundary next scheduled is taken at the pulse, its plan point first where it has not occurred (R122), each as its command
takes it. The last clause leaves out only an activation that has passed its checks and so ends at that boundary. That the
locking arrival is an expected one for the interval after it is the model's choice (log 26), and so are that the good run, and
where it realigns the missing run, are 0 after the move from HOLDOVER too, of which R121 names neither (log 49), the clock's
value (log 3) and that the plan point and the boundary are taken inside the arrival (log 17). -/
def Obligations.ReferenceLocks : Prop :=
  (∀ s : State, exec .boundary s = .next ({ s with now := max s.now s.timing.nextBoundary } : State).boundary ∧
    (s.timing.planDone = false → exec .planPoint s = .next ({ s with now := max s.now s.timing.nextPlan } : State).planPoint)) ∧
  ∀ (s : State) (time : Time), s.timing.ref ≠ .locked → 8 ≤ (s.timing.runAfter time).1 →
    let old := s.timing.ref
    let t1 := s.timing.lockedAt time
    let p := meanInterval (s.timing.runAfter time).2
    let e := time - s.timing.lastBoundary
    let near := old = .holdover ∧
      200 * min (distance time s.timing.lastBoundary) (distance time s.timing.nextBoundary) ≤ p
    let toNext := { t1 with nextBoundary := time + p
                            nextPlan := if t1.planDone then t1.nextPlan else time + p - t1.lead * 10 }
    (near → ∃ t, exec (.referenceArrival time) s = .next t ∧ t.now = max s.now time ∧
      t.timing = (if distance time s.timing.lastBoundary ≤ distance time s.timing.nextBoundary then toNext
        else { t1 with afterNext := some (time + p) }) ∧
      ChangesReference old .locked 0 false false s t ∧ OnlyChanges [.now, .timing, .rings, .interrupt, .causes] s t) ∧
    (¬ near → 2 * e < p → ∃ t, exec (.referenceArrival time) s = .next t ∧ t.now = max s.now time ∧ t.timing = toNext ∧
      ChangesReference old .locked ((e + 5) / 10) true false s t ∧
      OnlyChanges [.now, .timing, .rings, .interrupt, .causes] s t) ∧
    (¬ near → p ≤ 2 * e → (∀ c plan, s.modes.progress ≠ .passed c plan) →
      let moved := { s with now := max s.now time, timing := { t1 with nextBoundary := time } }
      let taken := (if s.timing.planDone then moved else moved.planPoint).boundary
      ∃ t, exec (.referenceArrival time) s = .next t ∧ t.timing = moved.timing.afterBoundary ∧
      ChangesReference old .locked ((s.timing.nextBoundary - time + 5) / 10) true true taken t ∧
      OnlyChanges [.rings, .interrupt, .causes] taken t)

/-- MISSING_PULSE in LOCKED (R120): the prediction moves on one measured period and the missing run rises; the second one running
moves the state to HOLDOVER and starts its timer. HOLDOVER_EXPIRY (R121) moves HOLDOVER to FREERUN and clears the measured period,
the intervals and the run; the boundary next scheduled keeps its time. Each change of state gives a TIMING event and
TIMING_CHANGE (R124). That the expiry also clears the missing run and the previous expected arrival is the model's choice
(log 27), and so is the clock's value (log 3). Where neither is due nothing changes (log 4). -/
def Obligations.ReferenceLossAndHoldover : Prop :=
  (∀ (s : State) (q : Time), s.timing.ref = .locked → s.timing.prediction = some q →
    let p := s.timing.measured.getD s.timing.rate.nominal
    let now := max s.now (q + p / 200)
    ∃ t, exec .missingPulse s = .next t ∧ t.now = now ∧
    (s.timing.missingRun = 0 → t.timing = { s.timing with missingRun := 1, prediction := some (q + p) } ∧
      OnlyChanges [.now, .timing] s t) ∧
    (1 ≤ s.timing.missingRun → t.timing = { s.timing with
        missingRun := 2, ref := .holdover, prediction := none, goodRun := 0, runIntervals := [], holdoverStart := some now } ∧
      ChangesReference .locked .holdover 0 false false s t ∧ OnlyChanges [.now, .timing, .rings, .interrupt, .causes] s t)) ∧
  (∀ s : State, s.timing.ref ≠ .locked ∨ s.timing.prediction = none → exec .missingPulse s = .next s) ∧
  (∀ (s : State) (start : Time), s.timing.ref = .holdover → s.timing.holdoverStart = some start →
    ∃ t, exec .holdoverExpiry s = .next t ∧ t.now = max s.now (start + 100000000) ∧
    t.timing = { s.timing with ref := .freerun, goodRun := 0, missingRun := 0, measured := none, intervals := [],
                               runIntervals := [], prediction := none, prevExpected := none, holdoverStart := none } ∧
    ChangesReference .holdover .freerun 0 false false s t ∧ OnlyChanges [.now, .timing, .rings, .interrupt, .causes] s t) ∧
  (∀ s : State, s.timing.ref ≠ .holdover ∨ s.timing.holdoverStart = none → exec .holdoverExpiry s = .next s)

/-! Supervision (R144, R145). -/

/-- SUPERVISION_EXPIRY with the timer running enters FALLBACK as a request does (R139): a SUPERVISION event with the interval,
then a MODE event with that trigger, FALLBACK_ENTERED, a build discarded, the takes of the build and then the POSTED ones
finished ABANDONED, each slot IDLE as its entry is counted (R43; O50), the timer stopped and the fallback commit owed. The
clock's value is the model's choice (log 3), and so is that the entries are written within the entry to FALLBACK, before the mode
moves: a POST in hand whose entry is among them goes on with its further slots under the mode that is left (R37; log 10). With
the timer stopped there is no expiry (log 4). -/
def Obligations.SupervisionExpiryEntersFallback : Prop :=
  (∀ (s : State) (start : Time) (c : Captured), s.modes.supervision = some start → s.modes.captured = some c →
    (∀ i ∈ s.buildSlots, (s.slot i).state = .building) →
    ∃ t, exec .supervisionExpiry s = .next t ∧ t.now = max s.now (start + c.supervision * 1000000) ∧
    EntersFallback s t s.modes .supervision [supervisionEvent s.modes.mode c.supervision]) ∧
  (∀ s : State, s.modes.supervision = none → exec .supervisionExpiry s = .next s)

/-! Comparisons (R116), and the layouts of records (R40, R190 to R193). -/

/-- Serial comparison (R116): a frame is passed when it is one of the 2^31 frames that end at the counter's value; a frame is
earlier than another when it differs from it and is passed at it; any two frames passed at the same value are ordered; the
deadline test counts the frames between; of two different post sequences exactly one is lower; and LATE is the same comparison. -/
def Obligations.SerialComparisonOrders : Prop :=
  (∀ f c : Word, (passed f c = true ↔ (c - f).toNat < 2 ^ 31) ∧
    (passed f c = true ↔ ∃ k, k < 2 ^ 31 ∧ f = c - BitVec.ofNat 32 k) ∧
    passed c c = true ∧ passed (c + 1) c = false) ∧
  (∀ f g : Word, earlier f g = true ↔ f ≠ g ∧ passed f g = true) ∧
  (∀ f g n : Word, passed f n = true → passed g n = true → f ≠ g → (earlier f g = true ↔ earlier g f = false)) ∧
  (∀ (r : SlotRec) (n : Word), r.pastDeadline n = true ↔
    r.header.deadline ≠ 0 ∧ r.header.deadline < (n.toNat + 2 ^ 32 - r.due.toNat) % 2 ^ 32) ∧
  (∀ a b : Half, (seqLower a b = true ↔ (1 ≤ (b - a).toNat ∧ (b - a).toNat ≤ 32767) ∨
      ((b - a).toNat = 32768 ∧ a.toNat < b.toNat)) ∧ (a ≠ b → (seqLower a b = true ↔ seqLower b a = false))) ∧
  (∀ (s : State) (i : Nat) (h : TakeHeader), s.postCheck i h = some .late →
    h.dueAt = true ∧ passed h.dueFrame s.timing.frame = true) ∧
  (∀ (s : State) (i : Nat) (h : TakeHeader), s.postCheck i h = none → h.dueAt = true → passed h.dueFrame s.timing.frame = false)

/-- The byte layouts of chapter 11, field by field: the offset, the width and the encoding of each field of each record the part
writes (R190, R193), little-endian, unused bytes 0, an absent index 0xFF, the value fields of an absent crop, tag or format 0; of
each record it reads (R40, R190, R191, R192), only the bytes and bits listed, the entries of the fallback record only for a count
of 1 to 64 (R181), an entry's bytes 8 to 23 also as a filter entry; and of each event (R157, R193; that of an edit stands in O45).
A tile block has room for 8 fragments, of which a plan has no more (R20). The check code (R40) runs over the header, its bytes 12
and 13 read as 0, and the counted entries, each byte taken into the upper half of a register that begins as 0xFFFF, and eight
steps after it; nine bytes and one give the spec's worked values. A remaining loss hold time is counted in steps of 10 ms that
have not yet passed whole (R86). -/
def Obligations.RecordsFollowTheirLayouts : Prop :=
  ((∀ v : Word, RecordHas (bytesWord v) 4 [(0, 4, v.toNat)]) ∧ ∀ v : Half, RecordHas (bytesHalf v) 2 [(0, 2, v.toNat)]) ∧
  (∀ r : Ring, RecordHas (ringHeaderBytes r) 64 [(0, 2, r.capacity), (2, 2, r.fill), (4, 2, r.writeIndex), (6, 2, r.releaseIndex),
    (8, 2, r.watermark), (10, 1, r.gap), (11, 1, r.reserved)]) ∧
  (∀ (e : JournalEntry) (frame : Word) (b : Summary), RecordHas (journalEntryBytes e frame b) 32 [(0, 1, e.slot),
    (1, 1, outcomesInOrder.idxOf e.outcome + 1), (2, 1, reasonsInOrder.idxOf e.reason), (3, 1, e.failedEntry.getD 255),
    (4, 1, e.failedTile.getD 255), (5, 1, e.cancelLate.toNat), (6, 2, e.seq.toNat), (8, 4, e.driverTag.toNat),
    (12, 4, frame.toNat), (16, 2, b.journalPending.toNat + 2 * b.urgentPending.toNat + 4 * b.routinePending.toNat +
      8 * b.slotsBusy.toNat + 16 * b.sourceTrouble.toNat + 32 * b.substituting.toNat + 64 * b.timingUnlocked.toNat +
      128 * b.notRun.toNat + 256 * b.causePending.toNat)]) ∧
  (∀ (e : Event) (gap : Nat) (frame : Word), RecordHas (eventBytes e gap frame) 16 [(0, 1, eventKindsInOrder.idxOf e.kind + 1),
    (1, 1, e.index), (2, 1, e.oldState.toNat), (3, 1, e.newState.toNat), (4, 1, gap), (8, 4, e.detail.toNat),
    (12, 4, frame.toNat)]) ∧
  (∀ (frame : Word) (seq : Half), RecordHas (slotHeaderBytes frame seq) 64 [(0, 4, frame.toNat), (4, 2, seq.toNat)]) ∧
  (∀ r : SlotRec, RecordHas (slotRecordBytes r) 16 [(0, 1, slotStatesInOrder.idxOf r.state),
    (1, 1, refusalsInOrder.idxOf r.lastRefusal), (2, 1, r.cancelRequested.toNat), (4, 2, r.seq.toNat), (8, 4, r.due.toNat)]) ∧
  (∀ w : WindowRec, RecordHas (windowRecordBytes w) 64 ([(0, 1, w.visible.toNat), (1, 1, w.routed), (2, 1, w.shown),
    (3, 1, subStatesInOrder.idxOf w.sub), (4, 1, w.rank), (5, 1, w.native.toNat), (6, 1, w.prot.toNat), (7, 1, w.ctx.getD 255),
    (8, 1, if w.loss = .follow then 1 else 0), (9, 1, if w.restore = .manual then 1 else 0), (10, 1, w.crop.isSome.toNat),
    (11, 1, w.expectedTag.isSome.toNat), (28, 4, (w.expectedTag.getD 0).toNat), (32, 4, w.lastCommitFrame.toNat),
    (36, 4, w.lastTakeTag.toNat)] ++ rectFields 12 w.rect ++ rectFields 20 (w.crop.getD ⟨0, 0, 0, 0⟩))) ∧
  (∀ f : Fragment, RecordHas (fragmentBytes f) 32 ([(0, 1, f.window), (1, 1, f.shown), (2, 1, f.charge),
    (3, 1, f.ctx.getD 255)] ++ rectFields 4 f.clip ++ rectFields 12 f.src)) ∧
  (∀ p : List Fragment, p.length ≤ 8 → let bs := tileBlockBytes p
    bs.length = 272 ∧ RecordHas (bs.take 16) 16 [(0, 1, p.length), (1, 1, (p.map (·.charge)).sum)] ∧
    (∀ k f, p[k]? = some f → (bs.drop (16 + 32 * k)).take 32 = fragmentBytes f) ∧
    ∀ i, 16 + 32 * p.length ≤ i → bs.getD i 0 = 0) ∧
  (∀ f : FilterEntry, RecordHas (filterEntryBytes f) 16 [(0, 1, f.enabled.toNat), (1, 1, filterActionsInOrder.idxOf f.action),
    (2, 1, f.low), (3, 1, f.high), (4, 2, f.kinds.toNat)]) ∧
  (∀ (epoch : Word) (writing : Bool), RecordHas (mirrorHeaderBytes epoch writing) 64 [(0, 4, epoch.toNat),
    (4, 1, writing.toNat)]) ∧
  (∀ change : Word, RecordHas (sourceHeaderBytes change) 64 [(0, 4, change.toNat)]) ∧
  (∀ (writing : Bool) (r : SourceRec) (update : Half) (now : Time),
    let f := r.qualified.getD ⟨0, 0, .progressive, none, 0⟩
    let left := match r.holdEnd with
      | none => 0
      | some t => (t - now + 99999) / 100000
    RecordHas (sourceRecordBytes writing r update now) 32 [(0, 1, writing.toNat), (1, 1, sourceStatesInOrder.idxOf r.state),
      (2, 2, update.toNat), (4, 1, r.settings.enabled.toNat), (5, 1, r.settings.declaredClass),
      (6, 1, r.settings.backup.getD 255), (7, 1, r.stable), (8, 2, r.settings.lossHold), (10, 2, left),
      (12, 1, r.qualified.isSome.toNat), (13, 1, if f.scan = .interlaced then 1 else 0), (14, 1, r.measuredClass.getD 0),
      (15, 1, f.tag.isSome.toNat), (16, 2, f.width), (18, 2, f.height), (20, 4, f.rate), (24, 4, (f.tag.getD 0).toNat),
      (28, 2, r.lockCount), (30, 2, r.lossCount)]) ∧
  (∀ (l : Layout) (tiles : Nat), mirrorRecords l tiles .windowTable = l.windows.flatMap windowRecordBytes ∧
    mirrorRecords l tiles .tilePlans = (List.range tiles).flatMap (fun t => tileBlockBytes (l.plans.getD t [])) ∧
    mirrorRecords l tiles .filterList = l.filters.flatMap filterEntryBytes) ∧
  (∀ (m : Memory) (a : Nat),
    let v := fun off n => leValue (fun i => Memory.read m (a + i)) off n
    let bit := fun off k => (Memory.read m (a + off)).getLsbD k
    let rect := fun off => (⟨v off 2, v (off + 2) 2, v (off + 4) 2, v (off + 6) 2⟩ : Rect)
    Memory.takeHeader m a = {
      driverTag := BitVec.ofNat 32 (v 0 4), urgent := decide (v 4 1 = 1), checked := bit 5 0, overrides := bit 5 1
      dueAt := bit 5 2, requireLocked := bit 5 3, deadline := v 6 1, count := v 7 1, dueFrame := BitVec.ofNat 32 (v 8 4)
      checkCode := BitVec.ofNat 16 (v 12 2) } ∧
    Memory.rawFilter m a = {
      enabled := bit 0 0, action := v 1 1, low := v 2 1, high := v 3 1, kinds := BitVec.ofNat 16 (v 4 2) } ∧
    Memory.entry m a = {
      kind := v 0 1, window := v 1 1, source := v 2 1, rank := v 3 1, native := bit 4 0, prot := bit 4 1, cropPresent := bit 4 2
      tagPresent := bit 4 3, follow := bit 4 4, manual := bit 4 5, rect := rect 8, crop := rect 16
      tag := BitVec.ofNat 32 (v 24 4), filter := Memory.rawFilter m (a + 8) } ∧
    ∀ n, Memory.entries m a n = (List.range n).map (fun k => Memory.entry m (a + 32 + 32 * k)) ∧
      Memory.checkCode m a n = crc ((List.range (32 + 32 * n)).map
        (fun i => if i = 12 ∨ i = 13 then 0 else Memory.read m (a + i)))) ∧
  (∀ m : Memory,
    let v := fun off n => leValue (Memory.read m) off n
    let bit := fun off k => (Memory.read m off).getLsbD k
    let ring := fun off => (⟨v off 2, v (off + 2) 2⟩ : RingParams)
    let map := (List.range 10).map (fun n => (⟨v (0x040 + 8 * n) 4, v (0x044 + 8 * n) 4⟩ : Section))
    let record := (sectionOf map 1).start
    let count := v record 2
    Memory.configImage m = {
      cols := v 0x000 1, rows := v 0x001 1, lead := v 0x002 2, rate := v 0x004 4, journal := ring 0x008, urgent := ring 0x00C
      routine := ring 0x010, supervision := v 0x014 2, requireChecked := bit 0x016 0, startSelector := v 0x017 1
      defaultAction := v 0x018 1, map := map
      filters := (List.range 16).map (fun i => Memory.rawFilter m (0x100 + 16 * i))
      settings := (List.range 40).map (fun i => let a := 0x200 + 16 * i
        ⟨bit a 0, v (a + 1) 1, v (a + 2) 1, v (a + 4) 2⟩)
      fallbackCount := count
      fallbackEntries := if 1 ≤ count ∧ count ≤ 64 then Memory.entries m record count else [] }) ∧
  (∀ (n : Nat) (k : EntryKind), entryKind n = some k ↔ 1 ≤ n ∧ entryKindsInOrder[n - 1]? = some k) ∧
  (crc [] = 0xFFFF#16 ∧ ∀ (bs : List Byte) (b : Byte),
    let step := fun r : Half => if r.getLsbD 15 then (r <<< 1) ^^^ 0x1021#16 else r <<< 1
    crc (bs ++ [b]) = (List.range 8).foldl (fun r _ => step r) (crc bs ^^^ (b.setWidth 16 <<< 8))) ∧
  (crc [0x31, 0x32, 0x33, 0x34, 0x35, 0x36, 0x37, 0x38, 0x39] = 0x29B1#16 ∧ crc [0] = 0xE1F0#16) ∧
  (∀ (old new : Mode) (t : Trigger), modeEvent old new t = {
    kind := .mode, index := 0, oldState := BitVec.ofNat 8 (modesInOrder.idxOf old)
    newState := BitVec.ofNat 8 (modesInOrder.idxOf new), detail := BitVec.ofNat 32 (triggersInOrder.idxOf t + 1)
    frame := none }) ∧
  (∀ (old : Mode) (interval : Nat), supervisionEvent old interval = {
    kind := .supervision, index := 0, oldState := BitVec.ofNat 8 (modesInOrder.idxOf old)
    newState := BitVec.ofNat 8 (modesInOrder.idxOf .fallback), detail := BitVec.ofNat 32 interval, frame := none }) ∧
  (∀ (target : Word) (count : Nat), overrunEvent target count = {
    kind := .overrun, index := 0, oldState := 0, newState := 0, detail := BitVec.ofNat 32 count, frame := some target }) ∧
  (∀ (old new : RefState) (amount : Nat) (realigned shortened activation : Bool),
    timingEvent old new amount realigned shortened activation = {
      kind := .timing, index := 0, oldState := BitVec.ofNat 8 (refStatesInOrder.idxOf old)
      newState := BitVec.ofNat 8 (refStatesInOrder.idxOf new)
      detail := BitVec.ofNat 32
        (amount % 2 ^ 16 + 2 ^ 16 * realigned.toNat + 2 ^ 17 * shortened.toNat + 2 ^ 18 * activation.toNat)
      frame := none }) ∧
  (∀ (i : Nat) (old new : SourceState) (cls : Option Nat) (glitch activation : Bool),
    sourceEvent i old new cls glitch activation = {
      kind := .source, index := i, oldState := BitVec.ofNat 8 (sourceStatesInOrder.idxOf old)
      newState := BitVec.ofNat 8 (sourceStatesInOrder.idxOf new)
      detail := BitVec.ofNat 32 (cls.getD 0 % 2 ^ 4 + 2 ^ 8 * glitch.toNat + 2 ^ 9 * activation.toNat), frame := none }) ∧
  ∀ (i : Nat) (size rate scan tag : Bool), formatEvent i size rate scan tag = {
    kind := .format, index := i, oldState := BitVec.ofNat 8 (sourceStatesInOrder.idxOf .locked)
    newState := BitVec.ofNat 8 (sourceStatesInOrder.idxOf .acquiring)
    detail := BitVec.ofNat 32 (size.toNat + 2 * rate.toNat + 4 * scan.toNat + 8 * tag.toNat), frame := none }
end

