-- ==== Sys2Proof/Laws/Memory.lean ====
section
/-! SUPPORT. The Exchange RAM: its operations keep the canonical form, and what a byte reads as after each of them. -/

namespace Sys2Proof.Machine

/-! Reading through appends and filters. -/

theorem Memory.read_of_absent {m : Memory} {a : Nat} (h : ∀ c ∈ m, c.1 ≠ a) : Memory.read m a = Memory.unlisted := by
  induction m with
  | nil => rfl
  | cons c m ih =>
    have hc : c.1 ≠ a := h c (by simp)
    simp only [Memory.read, if_neg hc]
    exact ih (fun d hd => h d (by simp [hd]))

theorem Memory.read_append_right {m n : Memory} {a : Nat} (h : ∀ c ∈ m, c.1 ≠ a) :
    Memory.read (m ++ n) a = Memory.read n a := by
  induction m with
  | nil => rfl
  | cons c m ih =>
    have hc : c.1 ≠ a := h c (by simp)
    simp only [List.cons_append, Memory.read, if_neg hc]
    exact ih (fun d hd => h d (by simp [hd]))

theorem Memory.read_append_left {m n : Memory} {a : Nat} (h : ∀ c ∈ n, c.1 ≠ a) :
    Memory.read (m ++ n) a = Memory.read m a := by
  induction m with
  | nil => exact Memory.read_of_absent h
  | cons c m ih => simp only [List.cons_append, Memory.read, ih]

theorem Memory.read_filter_keep {m : Memory} {p : Host.Cell → Bool} {a : Nat} (h : ∀ b, p (a, b) = true) :
    Memory.read (m.filter p) a = Memory.read m a := by
  induction m with
  | nil => rfl
  | cons c m ih =>
    by_cases hp : p c = true
    · simp only [List.filter_cons_of_pos hp, Memory.read, ih]
    · have hc : c.1 ≠ a := by
        rintro rfl
        exact hp (h c.2)
      simp only [List.filter_cons_of_neg hp, Memory.read, if_neg hc, ih]

/-! The cells of consecutive bytes. -/

theorem Memory.cells_range {a : Nat} {bs : List Byte} {c : Host.Cell} (h : c ∈ Memory.cells a bs) :
    a ≤ c.1 ∧ c.1 < a + bs.length := by
  induction bs generalizing a with
  | nil => simp [Memory.cells] at h
  | cons b bs ih =>
    simp only [Memory.cells] at h
    simp only [List.length_cons]
    split at h
    · have := ih h; omega
    · rcases List.mem_cons.mp h with rfl | h
      · simp only; omega
      · have := ih h; omega

theorem Memory.cells_listed {a : Nat} {bs : List Byte} {c : Host.Cell} (h : c ∈ Memory.cells a bs) :
    c.2 ≠ Memory.unlisted := by
  induction bs generalizing a with
  | nil => simp [Memory.cells] at h
  | cons b bs ih =>
    simp only [Memory.cells] at h
    split at h
    · exact ih h
    · rename_i hb
      rcases List.mem_cons.mp h with rfl | h
      · exact hb
      · exact ih h

theorem Memory.cells_wf (a : Nat) (bs : List Byte) : Memory.wf (Memory.cells a bs) := by
  refine ⟨?_, fun c hc => Memory.cells_listed hc⟩
  induction bs generalizing a with
  | nil => simp [Memory.cells]
  | cons b bs ih =>
    simp only [Memory.cells]
    split
    · exact ih (a + 1)
    · refine List.pairwise_cons.mpr ⟨fun c hc => ?_, ih (a + 1)⟩
      have := Memory.cells_range hc
      simp only; omega

theorem Memory.read_cells (a : Nat) (bs : List Byte) (i : Nat) (h : i < bs.length) :
    Memory.read (Memory.cells a bs) (a + i) = bs[i] := by
  induction bs generalizing a i with
  | nil => simp at h
  | cons b bs ih =>
    cases i with
    | zero =>
      simp only [Memory.cells, Nat.add_zero, List.getElem_cons_zero]
      split
      · rename_i hb
        rw [hb]
        refine Memory.read_of_absent (fun c hc => ?_)
        have := Memory.cells_range hc
        omega
      · simp [Memory.read]
    | succ i =>
      have hi : i < bs.length := by simpa using h
      have e := ih (a + 1) i hi
      have ha : a + 1 + i = a + (i + 1) := by omega
      rw [ha] at e
      simp only [Memory.cells, List.getElem_cons_succ]
      split
      · exact e
      · have hne : ¬ a = a + (i + 1) := by omega
        simp only [Memory.read, if_neg hne, e]

/-! The operations keep the canonical form. -/

theorem Memory.wf_nil : Memory.wf ([] : Memory) := by simp [Memory.wf]

theorem Memory.wf_filter {m : Memory} (p : Host.Cell → Bool) (h : Memory.wf m) : Memory.wf (m.filter p) :=
  ⟨h.1.filter p, fun c hc => h.2 c (List.mem_filter.mp hc).1⟩

theorem Memory.wf_write {m : Memory} (a : Nat) (bs : List Byte) (h : Memory.wf m) : Memory.wf (Memory.write m a bs) := by
  have hl := Memory.wf_filter (fun c => decide (c.1 < a)) h
  have hr := Memory.wf_filter (fun c => decide (a + bs.length ≤ c.1)) h
  have hc := Memory.cells_wf a bs
  refine ⟨?_, fun c hm => ?_⟩
  · unfold Memory.write
    rw [List.pairwise_append, List.pairwise_append]
    refine ⟨⟨hl.1, hc.1, fun c hcl d hd => ?_⟩, hr.1, fun c hcm d hd => ?_⟩
    · have h1 := (List.mem_filter.mp hcl).2
      have h2 := Memory.cells_range hd
      simp only [decide_eq_true_eq] at h1
      omega
    · have h2 := (List.mem_filter.mp hd).2
      simp only [decide_eq_true_eq] at h2
      rcases List.mem_append.mp hcm with hcl | hcm
      · have h1 := (List.mem_filter.mp hcl).2
        simp only [decide_eq_true_eq] at h1
        omega
      · have h1 := Memory.cells_range hcm
        omega
  · unfold Memory.write at hm
    rcases List.mem_append.mp hm with hm | hm
    · rcases List.mem_append.mp hm with hm | hm
      · exact hl.2 c hm
      · exact hc.2 c hm
    · exact hr.2 c hm

/-! What a byte reads as after an operation. -/

theorem Memory.read_write_inside (m : Memory) (a : Nat) (bs : List Byte) (i : Nat) (h : i < bs.length) :
    Memory.read (Memory.write m a bs) (a + i) = bs[i] := by
  unfold Memory.write
  rw [Memory.read_append_left, Memory.read_append_right, Memory.read_cells a bs i h]
  · intro c hc
    have h1 := (List.mem_filter.mp hc).2
    simp only [decide_eq_true_eq] at h1
    omega
  · intro c hc
    have h1 := (List.mem_filter.mp hc).2
    simp only [decide_eq_true_eq] at h1
    omega

theorem Memory.read_write_outside (m : Memory) (a : Nat) (bs : List Byte) (x : Nat) (h : x < a ∨ a + bs.length ≤ x) :
    Memory.read (Memory.write m a bs) x = Memory.read m x := by
  unfold Memory.write
  have hcells : ∀ c ∈ Memory.cells a bs, c.1 ≠ x := by
    intro c hc
    have := Memory.cells_range hc
    omega
  rcases h with h | h
  · rw [Memory.read_append_left, Memory.read_append_left hcells, Memory.read_filter_keep]
    · intro b; simpa using h
    · intro c hc
      have h1 := (List.mem_filter.mp hc).2
      simp only [decide_eq_true_eq] at h1
      omega
  · rw [List.append_assoc, Memory.read_append_right, Memory.read_append_right hcells, Memory.read_filter_keep]
    · intro b; simpa using h
    · intro c hc
      have h1 := (List.mem_filter.mp hc).2
      simp only [decide_eq_true_eq] at h1
      omega

/-! Blocks (R184). -/

theorem Memory.wf_writes {m : Memory} (l : Blocks) (h : Memory.wf m) : Memory.wf (Memory.writes m l) := by
  induction l generalizing m with
  | nil => exact h
  | cons b l ih => exact ih (Memory.wf_write b.1 b.2 h)

/-- Bytes written block by block read as the same bytes written at once. -/
theorem Memory.read_splitBlocks (fuel : Nat) (m : Memory) (a : Nat) (bs : List Byte) (x : Nat) (h : bs.length ≤ fuel) :
    Memory.read (Memory.writes m (splitBlocks fuel a bs)) x = Memory.read (Memory.write m a bs) x := by
  induction fuel generalizing m a bs with
  | zero =>
    have : bs = [] := List.length_eq_zero_iff.mp (by omega)
    subst this
    exact (Memory.read_write_outside m a [] x (by simp; omega)).symm
  | succ fuel ih =>
    unfold splitBlocks
    split
    · rename_i he
      have : bs = [] := List.isEmpty_iff.mp he
      subst this
      exact (Memory.read_write_outside m a [] x (by simp; omega)).symm
    · have hk : 0 < 64 - a % 64 := by omega
      generalize 64 - a % 64 = k at hk ⊢
      have hd : (bs.drop k).length ≤ fuel := by simp only [List.length_drop]; omega
      refine (ih (Memory.write m a (bs.take k)) (a + k) (bs.drop k) hd).trans ?_
      by_cases hin : a ≤ x ∧ x < a + bs.length
      · obtain ⟨i, rfl⟩ : ∃ i, x = a + i := ⟨x - a, by omega⟩
        have hi : i < bs.length := by omega
        rw [Memory.read_write_inside m a bs i hi]
        by_cases hlt : i < k
        · rw [Memory.read_write_outside _ _ _ _ (.inl (by omega)),
            Memory.read_write_inside m a (bs.take k) i (by simp only [List.length_take]; omega)]
          simp
        · obtain ⟨j, rfl⟩ : ∃ j, i = k + j := ⟨i - k, by omega⟩
          have e := Memory.read_write_inside (Memory.write m a (bs.take k)) (a + k) (bs.drop k) j
            (by simp only [List.length_drop]; omega)
          rw [Nat.add_assoc] at e
          rw [e]
          simp
      · rw [Memory.read_write_outside m a bs x (by omega),
          Memory.read_write_outside _ _ _ _ (by simp only [List.length_drop]; omega),
          Memory.read_write_outside _ _ _ _ (by simp only [List.length_take]; omega)]

/-- Bytes written block by block read as the same bytes written at once. -/
theorem Memory.read_blocksOf (m : Memory) (a : Nat) (bs : List Byte) (x : Nat) :
    Memory.read (Memory.writes m (blocksOf a bs)) x = Memory.read (Memory.write m a bs) x :=
  Memory.read_splitBlocks bs.length m a bs x (Nat.le_refl _)

theorem Memory.bytes_length (m : Memory) (a n : Nat) : (Memory.bytes m a n).length = n := by simp [Memory.bytes]

end Sys2Proof.Machine
end

