-- ==== Sys2Proof/Laws/State.lean ====
section
/-! SUPPORT. One lemma for each part of the state and each update of a part: an update gives its own part the new value and
leaves every other part. -/

namespace Sys2Proof.Machine.State

/-! `setPending`. -/

@[simp] theorem setPending_pending (s : State) (v : List Instr) : (s.setPending v).pending = v := rfl
@[simp] theorem setPending_now (s : State) (v : List Instr) : (s.setPending v).now = s.now := rfl
@[simp] theorem setPending_freeIdx (s : State) (v : List Instr) : (s.setPending v).freeIdx = s.freeIdx := rfl
@[simp] theorem setPending_ram (s : State) (v : List Instr) : (s.setPending v).ram = s.ram := rfl
@[simp] theorem setPending_lastServed (s : State) (v : List Instr) : (s.setPending v).lastServed = s.lastServed := rfl
@[simp] theorem setPending_port (s : State) (v : List Instr) : (s.setPending v).port = s.port := rfl
@[simp] theorem setPending_takes (s : State) (v : List Instr) : (s.setPending v).takes = s.takes := rfl
@[simp] theorem setPending_composer (s : State) (v : List Instr) : (s.setPending v).composer = s.composer := rfl
@[simp] theorem setPending_ports (s : State) (v : List Instr) : (s.setPending v).ports = s.ports := rfl
@[simp] theorem setPending_sources (s : State) (v : List Instr) : (s.setPending v).sources = s.sources := rfl
@[simp] theorem setPending_timing (s : State) (v : List Instr) : (s.setPending v).timing = s.timing := rfl
@[simp] theorem setPending_modes (s : State) (v : List Instr) : (s.setPending v).modes = s.modes := rfl
@[simp] theorem setPending_report (s : State) (v : List Instr) : (s.setPending v).report = s.report := rfl
@[simp] theorem setPending_status (s : State) (v : List Instr) : (s.setPending v).status = s.status := rfl

/-! `setNow`. -/

@[simp] theorem setNow_pending (s : State) (v : Time) : (s.setNow v).pending = s.pending := rfl
@[simp] theorem setNow_now (s : State) (v : Time) : (s.setNow v).now = v := rfl
@[simp] theorem setNow_freeIdx (s : State) (v : Time) : (s.setNow v).freeIdx = s.freeIdx := rfl
@[simp] theorem setNow_ram (s : State) (v : Time) : (s.setNow v).ram = s.ram := rfl
@[simp] theorem setNow_lastServed (s : State) (v : Time) : (s.setNow v).lastServed = s.lastServed := rfl
@[simp] theorem setNow_port (s : State) (v : Time) : (s.setNow v).port = s.port := rfl
@[simp] theorem setNow_takes (s : State) (v : Time) : (s.setNow v).takes = s.takes := rfl
@[simp] theorem setNow_composer (s : State) (v : Time) : (s.setNow v).composer = s.composer := rfl
@[simp] theorem setNow_ports (s : State) (v : Time) : (s.setNow v).ports = s.ports := rfl
@[simp] theorem setNow_sources (s : State) (v : Time) : (s.setNow v).sources = s.sources := rfl
@[simp] theorem setNow_timing (s : State) (v : Time) : (s.setNow v).timing = s.timing := rfl
@[simp] theorem setNow_modes (s : State) (v : Time) : (s.setNow v).modes = s.modes := rfl
@[simp] theorem setNow_report (s : State) (v : Time) : (s.setNow v).report = s.report := rfl
@[simp] theorem setNow_status (s : State) (v : Time) : (s.setNow v).status = s.status := rfl

/-! `setFreeIdx`. -/

@[simp] theorem setFreeIdx_pending (s : State) (v : Nat) : (s.setFreeIdx v).pending = s.pending := rfl
@[simp] theorem setFreeIdx_now (s : State) (v : Nat) : (s.setFreeIdx v).now = s.now := rfl
@[simp] theorem setFreeIdx_freeIdx (s : State) (v : Nat) : (s.setFreeIdx v).freeIdx = v := rfl
@[simp] theorem setFreeIdx_ram (s : State) (v : Nat) : (s.setFreeIdx v).ram = s.ram := rfl
@[simp] theorem setFreeIdx_lastServed (s : State) (v : Nat) : (s.setFreeIdx v).lastServed = s.lastServed := rfl
@[simp] theorem setFreeIdx_port (s : State) (v : Nat) : (s.setFreeIdx v).port = s.port := rfl
@[simp] theorem setFreeIdx_takes (s : State) (v : Nat) : (s.setFreeIdx v).takes = s.takes := rfl
@[simp] theorem setFreeIdx_composer (s : State) (v : Nat) : (s.setFreeIdx v).composer = s.composer := rfl
@[simp] theorem setFreeIdx_ports (s : State) (v : Nat) : (s.setFreeIdx v).ports = s.ports := rfl
@[simp] theorem setFreeIdx_sources (s : State) (v : Nat) : (s.setFreeIdx v).sources = s.sources := rfl
@[simp] theorem setFreeIdx_timing (s : State) (v : Nat) : (s.setFreeIdx v).timing = s.timing := rfl
@[simp] theorem setFreeIdx_modes (s : State) (v : Nat) : (s.setFreeIdx v).modes = s.modes := rfl
@[simp] theorem setFreeIdx_report (s : State) (v : Nat) : (s.setFreeIdx v).report = s.report := rfl
@[simp] theorem setFreeIdx_status (s : State) (v : Nat) : (s.setFreeIdx v).status = s.status := rfl

/-! `setRam`. -/

@[simp] theorem setRam_pending (s : State) (v : List Host.Cell) : (s.setRam v).pending = s.pending := rfl
@[simp] theorem setRam_now (s : State) (v : List Host.Cell) : (s.setRam v).now = s.now := rfl
@[simp] theorem setRam_freeIdx (s : State) (v : List Host.Cell) : (s.setRam v).freeIdx = s.freeIdx := rfl
@[simp] theorem setRam_ram (s : State) (v : List Host.Cell) : (s.setRam v).ram = v := rfl
@[simp] theorem setRam_lastServed (s : State) (v : List Host.Cell) : (s.setRam v).lastServed = s.lastServed := rfl
@[simp] theorem setRam_port (s : State) (v : List Host.Cell) : (s.setRam v).port = s.port := rfl
@[simp] theorem setRam_takes (s : State) (v : List Host.Cell) : (s.setRam v).takes = s.takes := rfl
@[simp] theorem setRam_composer (s : State) (v : List Host.Cell) : (s.setRam v).composer = s.composer := rfl
@[simp] theorem setRam_ports (s : State) (v : List Host.Cell) : (s.setRam v).ports = s.ports := rfl
@[simp] theorem setRam_sources (s : State) (v : List Host.Cell) : (s.setRam v).sources = s.sources := rfl
@[simp] theorem setRam_timing (s : State) (v : List Host.Cell) : (s.setRam v).timing = s.timing := rfl
@[simp] theorem setRam_modes (s : State) (v : List Host.Cell) : (s.setRam v).modes = s.modes := rfl
@[simp] theorem setRam_report (s : State) (v : List Host.Cell) : (s.setRam v).report = s.report := rfl
@[simp] theorem setRam_status (s : State) (v : List Host.Cell) : (s.setRam v).status = s.status := rfl

/-! `setLastServed`. -/

@[simp] theorem setLastServed_pending (s : State) (v : Side) : (s.setLastServed v).pending = s.pending := rfl
@[simp] theorem setLastServed_now (s : State) (v : Side) : (s.setLastServed v).now = s.now := rfl
@[simp] theorem setLastServed_freeIdx (s : State) (v : Side) : (s.setLastServed v).freeIdx = s.freeIdx := rfl
@[simp] theorem setLastServed_ram (s : State) (v : Side) : (s.setLastServed v).ram = s.ram := rfl
@[simp] theorem setLastServed_lastServed (s : State) (v : Side) : (s.setLastServed v).lastServed = v := rfl
@[simp] theorem setLastServed_port (s : State) (v : Side) : (s.setLastServed v).port = s.port := rfl
@[simp] theorem setLastServed_takes (s : State) (v : Side) : (s.setLastServed v).takes = s.takes := rfl
@[simp] theorem setLastServed_composer (s : State) (v : Side) : (s.setLastServed v).composer = s.composer := rfl
@[simp] theorem setLastServed_ports (s : State) (v : Side) : (s.setLastServed v).ports = s.ports := rfl
@[simp] theorem setLastServed_sources (s : State) (v : Side) : (s.setLastServed v).sources = s.sources := rfl
@[simp] theorem setLastServed_timing (s : State) (v : Side) : (s.setLastServed v).timing = s.timing := rfl
@[simp] theorem setLastServed_modes (s : State) (v : Side) : (s.setLastServed v).modes = s.modes := rfl
@[simp] theorem setLastServed_report (s : State) (v : Side) : (s.setLastServed v).report = s.report := rfl
@[simp] theorem setLastServed_status (s : State) (v : Side) : (s.setLastServed v).status = s.status := rfl

/-! `setPort`. -/

@[simp] theorem setPort_pending (s : State) (v : ExchangePort) : (s.setPort v).pending = s.pending := rfl
@[simp] theorem setPort_now (s : State) (v : ExchangePort) : (s.setPort v).now = s.now := rfl
@[simp] theorem setPort_freeIdx (s : State) (v : ExchangePort) : (s.setPort v).freeIdx = s.freeIdx := rfl
@[simp] theorem setPort_ram (s : State) (v : ExchangePort) : (s.setPort v).ram = s.ram := rfl
@[simp] theorem setPort_lastServed (s : State) (v : ExchangePort) : (s.setPort v).lastServed = s.lastServed := rfl
@[simp] theorem setPort_port (s : State) (v : ExchangePort) : (s.setPort v).port = v := rfl
@[simp] theorem setPort_takes (s : State) (v : ExchangePort) : (s.setPort v).takes = s.takes := rfl
@[simp] theorem setPort_composer (s : State) (v : ExchangePort) : (s.setPort v).composer = s.composer := rfl
@[simp] theorem setPort_ports (s : State) (v : ExchangePort) : (s.setPort v).ports = s.ports := rfl
@[simp] theorem setPort_sources (s : State) (v : ExchangePort) : (s.setPort v).sources = s.sources := rfl
@[simp] theorem setPort_timing (s : State) (v : ExchangePort) : (s.setPort v).timing = s.timing := rfl
@[simp] theorem setPort_modes (s : State) (v : ExchangePort) : (s.setPort v).modes = s.modes := rfl
@[simp] theorem setPort_report (s : State) (v : ExchangePort) : (s.setPort v).report = s.report := rfl
@[simp] theorem setPort_status (s : State) (v : ExchangePort) : (s.setPort v).status = s.status := rfl

/-! `setTakes`. -/

@[simp] theorem setTakes_pending (s : State) (v : TakeEngine) : (s.setTakes v).pending = s.pending := rfl
@[simp] theorem setTakes_now (s : State) (v : TakeEngine) : (s.setTakes v).now = s.now := rfl
@[simp] theorem setTakes_freeIdx (s : State) (v : TakeEngine) : (s.setTakes v).freeIdx = s.freeIdx := rfl
@[simp] theorem setTakes_ram (s : State) (v : TakeEngine) : (s.setTakes v).ram = s.ram := rfl
@[simp] theorem setTakes_lastServed (s : State) (v : TakeEngine) : (s.setTakes v).lastServed = s.lastServed := rfl
@[simp] theorem setTakes_port (s : State) (v : TakeEngine) : (s.setTakes v).port = s.port := rfl
@[simp] theorem setTakes_takes (s : State) (v : TakeEngine) : (s.setTakes v).takes = v := rfl
@[simp] theorem setTakes_composer (s : State) (v : TakeEngine) : (s.setTakes v).composer = s.composer := rfl
@[simp] theorem setTakes_ports (s : State) (v : TakeEngine) : (s.setTakes v).ports = s.ports := rfl
@[simp] theorem setTakes_sources (s : State) (v : TakeEngine) : (s.setTakes v).sources = s.sources := rfl
@[simp] theorem setTakes_timing (s : State) (v : TakeEngine) : (s.setTakes v).timing = s.timing := rfl
@[simp] theorem setTakes_modes (s : State) (v : TakeEngine) : (s.setTakes v).modes = s.modes := rfl
@[simp] theorem setTakes_report (s : State) (v : TakeEngine) : (s.setTakes v).report = s.report := rfl
@[simp] theorem setTakes_status (s : State) (v : TakeEngine) : (s.setTakes v).status = s.status := rfl

/-! `setComposer`. -/

@[simp] theorem setComposer_pending (s : State) (v : Composer) : (s.setComposer v).pending = s.pending := rfl
@[simp] theorem setComposer_now (s : State) (v : Composer) : (s.setComposer v).now = s.now := rfl
@[simp] theorem setComposer_freeIdx (s : State) (v : Composer) : (s.setComposer v).freeIdx = s.freeIdx := rfl
@[simp] theorem setComposer_ram (s : State) (v : Composer) : (s.setComposer v).ram = s.ram := rfl
@[simp] theorem setComposer_lastServed (s : State) (v : Composer) : (s.setComposer v).lastServed = s.lastServed := rfl
@[simp] theorem setComposer_port (s : State) (v : Composer) : (s.setComposer v).port = s.port := rfl
@[simp] theorem setComposer_takes (s : State) (v : Composer) : (s.setComposer v).takes = s.takes := rfl
@[simp] theorem setComposer_composer (s : State) (v : Composer) : (s.setComposer v).composer = v := rfl
@[simp] theorem setComposer_ports (s : State) (v : Composer) : (s.setComposer v).ports = s.ports := rfl
@[simp] theorem setComposer_sources (s : State) (v : Composer) : (s.setComposer v).sources = s.sources := rfl
@[simp] theorem setComposer_timing (s : State) (v : Composer) : (s.setComposer v).timing = s.timing := rfl
@[simp] theorem setComposer_modes (s : State) (v : Composer) : (s.setComposer v).modes = s.modes := rfl
@[simp] theorem setComposer_report (s : State) (v : Composer) : (s.setComposer v).report = s.report := rfl
@[simp] theorem setComposer_status (s : State) (v : Composer) : (s.setComposer v).status = s.status := rfl

/-! `setPorts`. -/

@[simp] theorem setPorts_pending (s : State) (v : List TilePort) : (s.setPorts v).pending = s.pending := rfl
@[simp] theorem setPorts_now (s : State) (v : List TilePort) : (s.setPorts v).now = s.now := rfl
@[simp] theorem setPorts_freeIdx (s : State) (v : List TilePort) : (s.setPorts v).freeIdx = s.freeIdx := rfl
@[simp] theorem setPorts_ram (s : State) (v : List TilePort) : (s.setPorts v).ram = s.ram := rfl
@[simp] theorem setPorts_lastServed (s : State) (v : List TilePort) : (s.setPorts v).lastServed = s.lastServed := rfl
@[simp] theorem setPorts_port (s : State) (v : List TilePort) : (s.setPorts v).port = s.port := rfl
@[simp] theorem setPorts_takes (s : State) (v : List TilePort) : (s.setPorts v).takes = s.takes := rfl
@[simp] theorem setPorts_composer (s : State) (v : List TilePort) : (s.setPorts v).composer = s.composer := rfl
@[simp] theorem setPorts_ports (s : State) (v : List TilePort) : (s.setPorts v).ports = v := rfl
@[simp] theorem setPorts_sources (s : State) (v : List TilePort) : (s.setPorts v).sources = s.sources := rfl
@[simp] theorem setPorts_timing (s : State) (v : List TilePort) : (s.setPorts v).timing = s.timing := rfl
@[simp] theorem setPorts_modes (s : State) (v : List TilePort) : (s.setPorts v).modes = s.modes := rfl
@[simp] theorem setPorts_report (s : State) (v : List TilePort) : (s.setPorts v).report = s.report := rfl
@[simp] theorem setPorts_status (s : State) (v : List TilePort) : (s.setPorts v).status = s.status := rfl

/-! `setSources`. -/

@[simp] theorem setSources_pending (s : State) (v : List SourceRec) : (s.setSources v).pending = s.pending := rfl
@[simp] theorem setSources_now (s : State) (v : List SourceRec) : (s.setSources v).now = s.now := rfl
@[simp] theorem setSources_freeIdx (s : State) (v : List SourceRec) : (s.setSources v).freeIdx = s.freeIdx := rfl
@[simp] theorem setSources_ram (s : State) (v : List SourceRec) : (s.setSources v).ram = s.ram := rfl
@[simp] theorem setSources_lastServed (s : State) (v : List SourceRec) : (s.setSources v).lastServed = s.lastServed := rfl
@[simp] theorem setSources_port (s : State) (v : List SourceRec) : (s.setSources v).port = s.port := rfl
@[simp] theorem setSources_takes (s : State) (v : List SourceRec) : (s.setSources v).takes = s.takes := rfl
@[simp] theorem setSources_composer (s : State) (v : List SourceRec) : (s.setSources v).composer = s.composer := rfl
@[simp] theorem setSources_ports (s : State) (v : List SourceRec) : (s.setSources v).ports = s.ports := rfl
@[simp] theorem setSources_sources (s : State) (v : List SourceRec) : (s.setSources v).sources = v := rfl
@[simp] theorem setSources_timing (s : State) (v : List SourceRec) : (s.setSources v).timing = s.timing := rfl
@[simp] theorem setSources_modes (s : State) (v : List SourceRec) : (s.setSources v).modes = s.modes := rfl
@[simp] theorem setSources_report (s : State) (v : List SourceRec) : (s.setSources v).report = s.report := rfl
@[simp] theorem setSources_status (s : State) (v : List SourceRec) : (s.setSources v).status = s.status := rfl

/-! `setTiming`. -/

@[simp] theorem setTiming_pending (s : State) (v : Timing) : (s.setTiming v).pending = s.pending := rfl
@[simp] theorem setTiming_now (s : State) (v : Timing) : (s.setTiming v).now = s.now := rfl
@[simp] theorem setTiming_freeIdx (s : State) (v : Timing) : (s.setTiming v).freeIdx = s.freeIdx := rfl
@[simp] theorem setTiming_ram (s : State) (v : Timing) : (s.setTiming v).ram = s.ram := rfl
@[simp] theorem setTiming_lastServed (s : State) (v : Timing) : (s.setTiming v).lastServed = s.lastServed := rfl
@[simp] theorem setTiming_port (s : State) (v : Timing) : (s.setTiming v).port = s.port := rfl
@[simp] theorem setTiming_takes (s : State) (v : Timing) : (s.setTiming v).takes = s.takes := rfl
@[simp] theorem setTiming_composer (s : State) (v : Timing) : (s.setTiming v).composer = s.composer := rfl
@[simp] theorem setTiming_ports (s : State) (v : Timing) : (s.setTiming v).ports = s.ports := rfl
@[simp] theorem setTiming_sources (s : State) (v : Timing) : (s.setTiming v).sources = s.sources := rfl
@[simp] theorem setTiming_timing (s : State) (v : Timing) : (s.setTiming v).timing = v := rfl
@[simp] theorem setTiming_modes (s : State) (v : Timing) : (s.setTiming v).modes = s.modes := rfl
@[simp] theorem setTiming_report (s : State) (v : Timing) : (s.setTiming v).report = s.report := rfl
@[simp] theorem setTiming_status (s : State) (v : Timing) : (s.setTiming v).status = s.status := rfl

/-! `setModes`. -/

@[simp] theorem setModes_pending (s : State) (v : ModeCtl) : (s.setModes v).pending = s.pending := rfl
@[simp] theorem setModes_now (s : State) (v : ModeCtl) : (s.setModes v).now = s.now := rfl
@[simp] theorem setModes_freeIdx (s : State) (v : ModeCtl) : (s.setModes v).freeIdx = s.freeIdx := rfl
@[simp] theorem setModes_ram (s : State) (v : ModeCtl) : (s.setModes v).ram = s.ram := rfl
@[simp] theorem setModes_lastServed (s : State) (v : ModeCtl) : (s.setModes v).lastServed = s.lastServed := rfl
@[simp] theorem setModes_port (s : State) (v : ModeCtl) : (s.setModes v).port = s.port := rfl
@[simp] theorem setModes_takes (s : State) (v : ModeCtl) : (s.setModes v).takes = s.takes := rfl
@[simp] theorem setModes_composer (s : State) (v : ModeCtl) : (s.setModes v).composer = s.composer := rfl
@[simp] theorem setModes_ports (s : State) (v : ModeCtl) : (s.setModes v).ports = s.ports := rfl
@[simp] theorem setModes_sources (s : State) (v : ModeCtl) : (s.setModes v).sources = s.sources := rfl
@[simp] theorem setModes_timing (s : State) (v : ModeCtl) : (s.setModes v).timing = s.timing := rfl
@[simp] theorem setModes_modes (s : State) (v : ModeCtl) : (s.setModes v).modes = v := rfl
@[simp] theorem setModes_report (s : State) (v : ModeCtl) : (s.setModes v).report = s.report := rfl
@[simp] theorem setModes_status (s : State) (v : ModeCtl) : (s.setModes v).status = s.status := rfl

/-! `setReport`. -/

@[simp] theorem setReport_pending (s : State) (v : Report) : (s.setReport v).pending = s.pending := rfl
@[simp] theorem setReport_now (s : State) (v : Report) : (s.setReport v).now = s.now := rfl
@[simp] theorem setReport_freeIdx (s : State) (v : Report) : (s.setReport v).freeIdx = s.freeIdx := rfl
@[simp] theorem setReport_ram (s : State) (v : Report) : (s.setReport v).ram = s.ram := rfl
@[simp] theorem setReport_lastServed (s : State) (v : Report) : (s.setReport v).lastServed = s.lastServed := rfl
@[simp] theorem setReport_port (s : State) (v : Report) : (s.setReport v).port = s.port := rfl
@[simp] theorem setReport_takes (s : State) (v : Report) : (s.setReport v).takes = s.takes := rfl
@[simp] theorem setReport_composer (s : State) (v : Report) : (s.setReport v).composer = s.composer := rfl
@[simp] theorem setReport_ports (s : State) (v : Report) : (s.setReport v).ports = s.ports := rfl
@[simp] theorem setReport_sources (s : State) (v : Report) : (s.setReport v).sources = s.sources := rfl
@[simp] theorem setReport_timing (s : State) (v : Report) : (s.setReport v).timing = s.timing := rfl
@[simp] theorem setReport_modes (s : State) (v : Report) : (s.setReport v).modes = s.modes := rfl
@[simp] theorem setReport_report (s : State) (v : Report) : (s.setReport v).report = v := rfl
@[simp] theorem setReport_status (s : State) (v : Report) : (s.setReport v).status = s.status := rfl

/-! `setStatus`. -/

@[simp] theorem setStatus_pending (s : State) (v : StatusWriter) : (s.setStatus v).pending = s.pending := rfl
@[simp] theorem setStatus_now (s : State) (v : StatusWriter) : (s.setStatus v).now = s.now := rfl
@[simp] theorem setStatus_freeIdx (s : State) (v : StatusWriter) : (s.setStatus v).freeIdx = s.freeIdx := rfl
@[simp] theorem setStatus_ram (s : State) (v : StatusWriter) : (s.setStatus v).ram = s.ram := rfl
@[simp] theorem setStatus_lastServed (s : State) (v : StatusWriter) : (s.setStatus v).lastServed = s.lastServed := rfl
@[simp] theorem setStatus_port (s : State) (v : StatusWriter) : (s.setStatus v).port = s.port := rfl
@[simp] theorem setStatus_takes (s : State) (v : StatusWriter) : (s.setStatus v).takes = s.takes := rfl
@[simp] theorem setStatus_composer (s : State) (v : StatusWriter) : (s.setStatus v).composer = s.composer := rfl
@[simp] theorem setStatus_ports (s : State) (v : StatusWriter) : (s.setStatus v).ports = s.ports := rfl
@[simp] theorem setStatus_sources (s : State) (v : StatusWriter) : (s.setStatus v).sources = s.sources := rfl
@[simp] theorem setStatus_timing (s : State) (v : StatusWriter) : (s.setStatus v).timing = s.timing := rfl
@[simp] theorem setStatus_modes (s : State) (v : StatusWriter) : (s.setStatus v).modes = s.modes := rfl
@[simp] theorem setStatus_report (s : State) (v : StatusWriter) : (s.setStatus v).report = s.report := rfl
@[simp] theorem setStatus_status (s : State) (v : StatusWriter) : (s.setStatus v).status = v := rfl

/-! Reading the state after a change of one part. -/

@[simp] theorem modPort_pending (s : State) (f : ExchangePort → ExchangePort) : (s.modPort f).pending = s.pending := rfl
@[simp] theorem modPort_now (s : State) (f : ExchangePort → ExchangePort) : (s.modPort f).now = s.now := rfl
@[simp] theorem modPort_freeIdx (s : State) (f : ExchangePort → ExchangePort) : (s.modPort f).freeIdx = s.freeIdx := rfl
@[simp] theorem modPort_ram (s : State) (f : ExchangePort → ExchangePort) : (s.modPort f).ram = s.ram := rfl
@[simp] theorem modPort_lastServed (s : State) (f : ExchangePort → ExchangePort) : (s.modPort f).lastServed = s.lastServed := rfl
@[simp] theorem modPort_port (s : State) (f : ExchangePort → ExchangePort) : (s.modPort f).port = f s.port := rfl
@[simp] theorem modPort_takes (s : State) (f : ExchangePort → ExchangePort) : (s.modPort f).takes = s.takes := rfl
@[simp] theorem modPort_composer (s : State) (f : ExchangePort → ExchangePort) : (s.modPort f).composer = s.composer := rfl
@[simp] theorem modPort_ports (s : State) (f : ExchangePort → ExchangePort) : (s.modPort f).ports = s.ports := rfl
@[simp] theorem modPort_sources (s : State) (f : ExchangePort → ExchangePort) : (s.modPort f).sources = s.sources := rfl
@[simp] theorem modPort_timing (s : State) (f : ExchangePort → ExchangePort) : (s.modPort f).timing = s.timing := rfl
@[simp] theorem modPort_modes (s : State) (f : ExchangePort → ExchangePort) : (s.modPort f).modes = s.modes := rfl
@[simp] theorem modPort_report (s : State) (f : ExchangePort → ExchangePort) : (s.modPort f).report = s.report := rfl
@[simp] theorem modPort_status (s : State) (f : ExchangePort → ExchangePort) : (s.modPort f).status = s.status := rfl
@[simp] theorem modTakes_pending (s : State) (f : TakeEngine → TakeEngine) : (s.modTakes f).pending = s.pending := rfl
@[simp] theorem modTakes_now (s : State) (f : TakeEngine → TakeEngine) : (s.modTakes f).now = s.now := rfl
@[simp] theorem modTakes_freeIdx (s : State) (f : TakeEngine → TakeEngine) : (s.modTakes f).freeIdx = s.freeIdx := rfl
@[simp] theorem modTakes_ram (s : State) (f : TakeEngine → TakeEngine) : (s.modTakes f).ram = s.ram := rfl
@[simp] theorem modTakes_lastServed (s : State) (f : TakeEngine → TakeEngine) : (s.modTakes f).lastServed = s.lastServed := rfl
@[simp] theorem modTakes_port (s : State) (f : TakeEngine → TakeEngine) : (s.modTakes f).port = s.port := rfl
@[simp] theorem modTakes_takes (s : State) (f : TakeEngine → TakeEngine) : (s.modTakes f).takes = f s.takes := rfl
@[simp] theorem modTakes_composer (s : State) (f : TakeEngine → TakeEngine) : (s.modTakes f).composer = s.composer := rfl
@[simp] theorem modTakes_ports (s : State) (f : TakeEngine → TakeEngine) : (s.modTakes f).ports = s.ports := rfl
@[simp] theorem modTakes_sources (s : State) (f : TakeEngine → TakeEngine) : (s.modTakes f).sources = s.sources := rfl
@[simp] theorem modTakes_timing (s : State) (f : TakeEngine → TakeEngine) : (s.modTakes f).timing = s.timing := rfl
@[simp] theorem modTakes_modes (s : State) (f : TakeEngine → TakeEngine) : (s.modTakes f).modes = s.modes := rfl
@[simp] theorem modTakes_report (s : State) (f : TakeEngine → TakeEngine) : (s.modTakes f).report = s.report := rfl
@[simp] theorem modTakes_status (s : State) (f : TakeEngine → TakeEngine) : (s.modTakes f).status = s.status := rfl
@[simp] theorem modComposer_pending (s : State) (f : Composer → Composer) : (s.modComposer f).pending = s.pending := rfl
@[simp] theorem modComposer_now (s : State) (f : Composer → Composer) : (s.modComposer f).now = s.now := rfl
@[simp] theorem modComposer_freeIdx (s : State) (f : Composer → Composer) : (s.modComposer f).freeIdx = s.freeIdx := rfl
@[simp] theorem modComposer_ram (s : State) (f : Composer → Composer) : (s.modComposer f).ram = s.ram := rfl
@[simp] theorem modComposer_lastServed (s : State) (f : Composer → Composer) : (s.modComposer f).lastServed = s.lastServed := rfl
@[simp] theorem modComposer_port (s : State) (f : Composer → Composer) : (s.modComposer f).port = s.port := rfl
@[simp] theorem modComposer_takes (s : State) (f : Composer → Composer) : (s.modComposer f).takes = s.takes := rfl
@[simp] theorem modComposer_composer (s : State) (f : Composer → Composer) : (s.modComposer f).composer = f s.composer := rfl
@[simp] theorem modComposer_ports (s : State) (f : Composer → Composer) : (s.modComposer f).ports = s.ports := rfl
@[simp] theorem modComposer_sources (s : State) (f : Composer → Composer) : (s.modComposer f).sources = s.sources := rfl
@[simp] theorem modComposer_timing (s : State) (f : Composer → Composer) : (s.modComposer f).timing = s.timing := rfl
@[simp] theorem modComposer_modes (s : State) (f : Composer → Composer) : (s.modComposer f).modes = s.modes := rfl
@[simp] theorem modComposer_report (s : State) (f : Composer → Composer) : (s.modComposer f).report = s.report := rfl
@[simp] theorem modComposer_status (s : State) (f : Composer → Composer) : (s.modComposer f).status = s.status := rfl
@[simp] theorem modTiming_pending (s : State) (f : Timing → Timing) : (s.modTiming f).pending = s.pending := rfl
@[simp] theorem modTiming_now (s : State) (f : Timing → Timing) : (s.modTiming f).now = s.now := rfl
@[simp] theorem modTiming_freeIdx (s : State) (f : Timing → Timing) : (s.modTiming f).freeIdx = s.freeIdx := rfl
@[simp] theorem modTiming_ram (s : State) (f : Timing → Timing) : (s.modTiming f).ram = s.ram := rfl
@[simp] theorem modTiming_lastServed (s : State) (f : Timing → Timing) : (s.modTiming f).lastServed = s.lastServed := rfl
@[simp] theorem modTiming_port (s : State) (f : Timing → Timing) : (s.modTiming f).port = s.port := rfl
@[simp] theorem modTiming_takes (s : State) (f : Timing → Timing) : (s.modTiming f).takes = s.takes := rfl
@[simp] theorem modTiming_composer (s : State) (f : Timing → Timing) : (s.modTiming f).composer = s.composer := rfl
@[simp] theorem modTiming_ports (s : State) (f : Timing → Timing) : (s.modTiming f).ports = s.ports := rfl
@[simp] theorem modTiming_sources (s : State) (f : Timing → Timing) : (s.modTiming f).sources = s.sources := rfl
@[simp] theorem modTiming_timing (s : State) (f : Timing → Timing) : (s.modTiming f).timing = f s.timing := rfl
@[simp] theorem modTiming_modes (s : State) (f : Timing → Timing) : (s.modTiming f).modes = s.modes := rfl
@[simp] theorem modTiming_report (s : State) (f : Timing → Timing) : (s.modTiming f).report = s.report := rfl
@[simp] theorem modTiming_status (s : State) (f : Timing → Timing) : (s.modTiming f).status = s.status := rfl
@[simp] theorem modModes_pending (s : State) (f : ModeCtl → ModeCtl) : (s.modModes f).pending = s.pending := rfl
@[simp] theorem modModes_now (s : State) (f : ModeCtl → ModeCtl) : (s.modModes f).now = s.now := rfl
@[simp] theorem modModes_freeIdx (s : State) (f : ModeCtl → ModeCtl) : (s.modModes f).freeIdx = s.freeIdx := rfl
@[simp] theorem modModes_ram (s : State) (f : ModeCtl → ModeCtl) : (s.modModes f).ram = s.ram := rfl
@[simp] theorem modModes_lastServed (s : State) (f : ModeCtl → ModeCtl) : (s.modModes f).lastServed = s.lastServed := rfl
@[simp] theorem modModes_port (s : State) (f : ModeCtl → ModeCtl) : (s.modModes f).port = s.port := rfl
@[simp] theorem modModes_takes (s : State) (f : ModeCtl → ModeCtl) : (s.modModes f).takes = s.takes := rfl
@[simp] theorem modModes_composer (s : State) (f : ModeCtl → ModeCtl) : (s.modModes f).composer = s.composer := rfl
@[simp] theorem modModes_ports (s : State) (f : ModeCtl → ModeCtl) : (s.modModes f).ports = s.ports := rfl
@[simp] theorem modModes_sources (s : State) (f : ModeCtl → ModeCtl) : (s.modModes f).sources = s.sources := rfl
@[simp] theorem modModes_timing (s : State) (f : ModeCtl → ModeCtl) : (s.modModes f).timing = s.timing := rfl
@[simp] theorem modModes_modes (s : State) (f : ModeCtl → ModeCtl) : (s.modModes f).modes = f s.modes := rfl
@[simp] theorem modModes_report (s : State) (f : ModeCtl → ModeCtl) : (s.modModes f).report = s.report := rfl
@[simp] theorem modModes_status (s : State) (f : ModeCtl → ModeCtl) : (s.modModes f).status = s.status := rfl
@[simp] theorem modReport_pending (s : State) (f : Report → Report) : (s.modReport f).pending = s.pending := rfl
@[simp] theorem modReport_now (s : State) (f : Report → Report) : (s.modReport f).now = s.now := rfl
@[simp] theorem modReport_freeIdx (s : State) (f : Report → Report) : (s.modReport f).freeIdx = s.freeIdx := rfl
@[simp] theorem modReport_ram (s : State) (f : Report → Report) : (s.modReport f).ram = s.ram := rfl
@[simp] theorem modReport_lastServed (s : State) (f : Report → Report) : (s.modReport f).lastServed = s.lastServed := rfl
@[simp] theorem modReport_port (s : State) (f : Report → Report) : (s.modReport f).port = s.port := rfl
@[simp] theorem modReport_takes (s : State) (f : Report → Report) : (s.modReport f).takes = s.takes := rfl
@[simp] theorem modReport_composer (s : State) (f : Report → Report) : (s.modReport f).composer = s.composer := rfl
@[simp] theorem modReport_ports (s : State) (f : Report → Report) : (s.modReport f).ports = s.ports := rfl
@[simp] theorem modReport_sources (s : State) (f : Report → Report) : (s.modReport f).sources = s.sources := rfl
@[simp] theorem modReport_timing (s : State) (f : Report → Report) : (s.modReport f).timing = s.timing := rfl
@[simp] theorem modReport_modes (s : State) (f : Report → Report) : (s.modReport f).modes = s.modes := rfl
@[simp] theorem modReport_report (s : State) (f : Report → Report) : (s.modReport f).report = f s.report := rfl
@[simp] theorem modReport_status (s : State) (f : Report → Report) : (s.modReport f).status = s.status := rfl
@[simp] theorem modStatus_pending (s : State) (f : StatusWriter → StatusWriter) : (s.modStatus f).pending = s.pending := rfl
@[simp] theorem modStatus_now (s : State) (f : StatusWriter → StatusWriter) : (s.modStatus f).now = s.now := rfl
@[simp] theorem modStatus_freeIdx (s : State) (f : StatusWriter → StatusWriter) : (s.modStatus f).freeIdx = s.freeIdx := rfl
@[simp] theorem modStatus_ram (s : State) (f : StatusWriter → StatusWriter) : (s.modStatus f).ram = s.ram := rfl
@[simp] theorem modStatus_lastServed (s : State) (f : StatusWriter → StatusWriter) : (s.modStatus f).lastServed = s.lastServed := rfl
@[simp] theorem modStatus_port (s : State) (f : StatusWriter → StatusWriter) : (s.modStatus f).port = s.port := rfl
@[simp] theorem modStatus_takes (s : State) (f : StatusWriter → StatusWriter) : (s.modStatus f).takes = s.takes := rfl
@[simp] theorem modStatus_composer (s : State) (f : StatusWriter → StatusWriter) : (s.modStatus f).composer = s.composer := rfl
@[simp] theorem modStatus_ports (s : State) (f : StatusWriter → StatusWriter) : (s.modStatus f).ports = s.ports := rfl
@[simp] theorem modStatus_sources (s : State) (f : StatusWriter → StatusWriter) : (s.modStatus f).sources = s.sources := rfl
@[simp] theorem modStatus_timing (s : State) (f : StatusWriter → StatusWriter) : (s.modStatus f).timing = s.timing := rfl
@[simp] theorem modStatus_modes (s : State) (f : StatusWriter → StatusWriter) : (s.modStatus f).modes = s.modes := rfl
@[simp] theorem modStatus_report (s : State) (f : StatusWriter → StatusWriter) : (s.modStatus f).report = s.report := rfl
@[simp] theorem modStatus_status (s : State) (f : StatusWriter → StatusWriter) : (s.modStatus f).status = f s.status := rfl

/-- Going on from a state is applying what follows to it. -/
theorem andThen_eq {α : Type} (s : State) (f : State → α) : s.andThen f = f s := rfl

end Sys2Proof.Machine.State
end

