-- ==== Sys2Proof/Laws/Frames.lean ====
section
/-! SUPPORT. What each shared operation can change: one lemma for each, by which any other part reads as before. -/

namespace Sys2Proof.Machine

/-! The relation. -/

theorem OnlyChanges.refl (l : List Part) (s : State) : OnlyChanges l s s := by constructor <;> simp

theorem OnlyChanges.trans {l : List Part} {s t u : State} (h : OnlyChanges l s t) (k : OnlyChanges l t u) :
    OnlyChanges l s u where
  pending := (h.pending.elim .inl fun a => k.pending.elim .inl fun b => .inr (b.trans a))
  now := (h.now.elim .inl fun a => k.now.elim .inl fun b => .inr (b.trans a))
  freeIdx := (h.freeIdx.elim .inl fun a => k.freeIdx.elim .inl fun b => .inr (b.trans a))
  ram := (h.ram.elim .inl fun a => k.ram.elim .inl fun b => .inr (b.trans a))
  lastServed := (h.lastServed.elim .inl fun a => k.lastServed.elim .inl fun b => .inr (b.trans a))
  link := (h.link.elim .inl fun a => k.link.elim .inl fun b => .inr ⟨b.1.trans a.1, b.2.trans a.2⟩)
  holdArea := (h.holdArea.elim .inl fun a => k.holdArea.elim .inl fun b => .inr (b.trans a))
  waiting := (h.waiting.elim .inl fun a => k.waiting.elim .inl fun b => .inr (b.trans a))
  blocks := (h.blocks.elim .inl fun a => k.blocks.elim .inl fun b => .inr ⟨b.1.trans a.1, b.2.trans a.2⟩)
  completion := (h.completion.elim .inl fun a => k.completion.elim .inl fun b => .inr (b.trans a))
  interrupt := (h.interrupt.elim .inl fun a => k.interrupt.elim .inl fun b => .inr ⟨b.1.trans a.1, b.2.trans a.2⟩)
  takes := (h.takes.elim .inl fun a => k.takes.elim .inl fun b => .inr (b.trans a))
  composer := (h.composer.elim .inl fun a => k.composer.elim .inl fun b => .inr (b.trans a))
  ports := (h.ports.elim .inl fun a => k.ports.elim .inl fun b => .inr (b.trans a))
  sources := (h.sources.elim .inl fun a => k.sources.elim .inl fun b => .inr (b.trans a))
  timing := (h.timing.elim .inl fun a => k.timing.elim .inl fun b => .inr (b.trans a))
  modes := (h.modes.elim .inl fun a => k.modes.elim .inl fun b => .inr (b.trans a))
  rings := (h.rings.elim .inl fun a => k.rings.elim .inl fun b => .inr (b.trans a))
  causes := (h.causes.elim .inl fun a => k.causes.elim .inl fun b => .inr (b.trans a))
  status := (h.status.elim .inl fun a => k.status.elim .inl fun b => .inr (b.trans a))

theorem OnlyChanges.mono {l k : List Part} {s t : State} (h : OnlyChanges l s t) (hk : l ⊆ k) : OnlyChanges k s t where
  pending := h.pending.imp (fun m => hk m) id
  now := h.now.imp (fun m => hk m) id
  freeIdx := h.freeIdx.imp (fun m => hk m) id
  ram := h.ram.imp (fun m => hk m) id
  lastServed := h.lastServed.imp (fun m => hk m) id
  link := h.link.imp (fun m => hk m) id
  holdArea := h.holdArea.imp (fun m => hk m) id
  waiting := h.waiting.imp (fun m => hk m) id
  blocks := h.blocks.imp (fun m => hk m) id
  completion := h.completion.imp (fun m => hk m) id
  interrupt := h.interrupt.imp (fun m => hk m) id
  takes := h.takes.imp (fun m => hk m) id
  composer := h.composer.imp (fun m => hk m) id
  ports := h.ports.imp (fun m => hk m) id
  sources := h.sources.imp (fun m => hk m) id
  timing := h.timing.imp (fun m => hk m) id
  modes := h.modes.imp (fun m => hk m) id
  rings := h.rings.imp (fun m => hk m) id
  causes := h.causes.imp (fun m => hk m) id
  status := h.status.imp (fun m => hk m) id

/-- A change followed by a smaller one. -/
theorem OnlyChanges.next {l k : List Part} {s t u : State} (h : OnlyChanges l s t) (c : OnlyChanges k t u) (hk : k ⊆ l) :
    OnlyChanges l s u := h.trans (c.mono hk)

/-- One operation after another: the second may start from any state the first can leave. -/
theorem OnlyChanges.andThen {l : List Part} {s t : State} {f : State → State} (h : OnlyChanges l s t)
    (k : ∀ u, OnlyChanges l s u → OnlyChanges l s (f u)) : OnlyChanges l s (t.andThen f) := k t h

theorem OnlyChanges.foldl {α : Type} {l : List Part} {f : State → α → State} (hf : ∀ s a, OnlyChanges l s (f s a))
    (as : List α) (s : State) : OnlyChanges l s (as.foldl f s) := by
  induction as generalizing s with
  | nil => exact OnlyChanges.refl l s
  | cons a as ih => exact (hf s a).trans (ih (f s a))

/-! Reading a part that did not change. -/

theorem OnlyChanges.pending_eq {l : List Part} {s t : State} (h : OnlyChanges l s t) (hp : Part.pending ∉ l := by decide) :
    t.pending = s.pending := h.pending.resolve_left hp

theorem OnlyChanges.now_eq {l : List Part} {s t : State} (h : OnlyChanges l s t) (hp : Part.now ∉ l := by decide) :
    t.now = s.now := h.now.resolve_left hp

theorem OnlyChanges.freeIdx_eq {l : List Part} {s t : State} (h : OnlyChanges l s t) (hp : Part.freeIdx ∉ l := by decide) :
    t.freeIdx = s.freeIdx := h.freeIdx.resolve_left hp

theorem OnlyChanges.ram_eq {l : List Part} {s t : State} (h : OnlyChanges l s t) (hp : Part.ram ∉ l := by decide) :
    t.ram = s.ram := h.ram.resolve_left hp

theorem OnlyChanges.lastServed_eq {l : List Part} {s t : State} (h : OnlyChanges l s t) (hp : Part.lastServed ∉ l := by decide) :
    t.lastServed = s.lastServed := h.lastServed.resolve_left hp

theorem OnlyChanges.link_eq {l : List Part} {s t : State} (h : OnlyChanges l s t) (hp : Part.link ∉ l := by decide) :
    t.port.linkUp = s.port.linkUp ∧ t.port.pcie = s.port.pcie := h.link.resolve_left hp

theorem OnlyChanges.holdArea_eq {l : List Part} {s t : State} (h : OnlyChanges l s t) (hp : Part.holdArea ∉ l := by decide) :
    t.port.holdArea = s.port.holdArea := h.holdArea.resolve_left hp

theorem OnlyChanges.waiting_eq {l : List Part} {s t : State} (h : OnlyChanges l s t) (hp : Part.waiting ∉ l := by decide) :
    t.port.waiting = s.port.waiting := h.waiting.resolve_left hp

theorem OnlyChanges.blocks_eq {l : List Part} {s t : State} (h : OnlyChanges l s t) (hp : Part.blocks ∉ l := by decide) :
    t.port.partRead = s.port.partRead ∧ t.port.partLost = s.port.partLost := h.blocks.resolve_left hp

theorem OnlyChanges.completion_eq {l : List Part} {s t : State} (h : OnlyChanges l s t) (hp : Part.completion ∉ l := by decide) :
    t.port.completion = s.port.completion := h.completion.resolve_left hp

theorem OnlyChanges.interrupt_eq {l : List Part} {s t : State} (h : OnlyChanges l s t) (hp : Part.interrupt ∉ l := by decide) :
    t.port.line = s.port.line ∧ t.port.msiSent = s.port.msiSent := h.interrupt.resolve_left hp

theorem OnlyChanges.takes_eq {l : List Part} {s t : State} (h : OnlyChanges l s t) (hp : Part.takes ∉ l := by decide) :
    t.takes = s.takes := h.takes.resolve_left hp

theorem OnlyChanges.composer_eq {l : List Part} {s t : State} (h : OnlyChanges l s t) (hp : Part.composer ∉ l := by decide) :
    t.composer = s.composer := h.composer.resolve_left hp

theorem OnlyChanges.ports_eq {l : List Part} {s t : State} (h : OnlyChanges l s t) (hp : Part.ports ∉ l := by decide) :
    t.ports = s.ports := h.ports.resolve_left hp

theorem OnlyChanges.sources_eq {l : List Part} {s t : State} (h : OnlyChanges l s t) (hp : Part.sources ∉ l := by decide) :
    t.sources = s.sources := h.sources.resolve_left hp

theorem OnlyChanges.timing_eq {l : List Part} {s t : State} (h : OnlyChanges l s t) (hp : Part.timing ∉ l := by decide) :
    t.timing = s.timing := h.timing.resolve_left hp

theorem OnlyChanges.modes_eq {l : List Part} {s t : State} (h : OnlyChanges l s t) (hp : Part.modes ∉ l := by decide) :
    t.modes = s.modes := h.modes.resolve_left hp

theorem OnlyChanges.rings_eq {l : List Part} {s t : State} (h : OnlyChanges l s t) (hp : Part.rings ∉ l := by decide) :
    t.report.ringPart = s.report.ringPart := h.rings.resolve_left hp

theorem OnlyChanges.causes_eq {l : List Part} {s t : State} (h : OnlyChanges l s t) (hp : Part.causes ∉ l := by decide) :
    t.report.causePart = s.report.causePart := h.causes.resolve_left hp

theorem OnlyChanges.status_eq {l : List Part} {s t : State} (h : OnlyChanges l s t) (hp : Part.status ∉ l := by decide) :
    t.status = s.status := h.status.resolve_left hp

/-! The updates of a part. -/

theorem State.setPending_only (s : State) (v : List Instr) : OnlyChanges [.pending] s (s.setPending v) := by constructor <;> simp

theorem State.setNow_only (s : State) (v : Time) : OnlyChanges [.now] s (s.setNow v) := by constructor <;> simp

theorem State.setFreeIdx_only (s : State) (v : Nat) : OnlyChanges [.freeIdx] s (s.setFreeIdx v) := by constructor <;> simp

theorem State.setRam_only (s : State) (v : List Host.Cell) : OnlyChanges [.ram] s (s.setRam v) := by constructor <;> simp

theorem State.setLastServed_only (s : State) (v : Side) :
    OnlyChanges [.lastServed] s (s.setLastServed v) := by constructor <;> simp

theorem State.setTakes_only (s : State) (v : TakeEngine) : OnlyChanges [.takes] s (s.setTakes v) := by constructor <;> simp

theorem State.setComposer_only (s : State) (v : Composer) : OnlyChanges [.composer] s (s.setComposer v) := by constructor <;> simp

theorem State.setPorts_only (s : State) (v : List TilePort) : OnlyChanges [.ports] s (s.setPorts v) := by constructor <;> simp

theorem State.setSources_only (s : State) (v : List SourceRec) :
    OnlyChanges [.sources] s (s.setSources v) := by constructor <;> simp

theorem State.setTiming_only (s : State) (v : Timing) : OnlyChanges [.timing] s (s.setTiming v) := by constructor <;> simp

theorem State.setModes_only (s : State) (v : ModeCtl) : OnlyChanges [.modes] s (s.setModes v) := by constructor <;> simp

theorem State.setStatus_only (s : State) (v : StatusWriter) : OnlyChanges [.status] s (s.setStatus v) := by constructor <;> simp

theorem State.modTakes_only (s : State) (f : TakeEngine → TakeEngine) :
    OnlyChanges [.takes] s (s.modTakes f) := by constructor <;> simp

theorem State.modComposer_only (s : State) (f : Composer → Composer) :
    OnlyChanges [.composer] s (s.modComposer f) := by constructor <;> simp

theorem State.modTiming_only (s : State) (f : Timing → Timing) :
    OnlyChanges [.timing] s (s.modTiming f) := by constructor <;> simp

theorem State.modModes_only (s : State) (f : ModeCtl → ModeCtl) : OnlyChanges [.modes] s (s.modModes f) := by constructor <;> simp

theorem State.modStatus_only (s : State) (f : StatusWriter → StatusWriter) :
    OnlyChanges [.status] s (s.modStatus f) := by constructor <;> simp

theorem State.setReport_only (s : State) (v : Report) : OnlyChanges [.rings, .causes] s (s.setReport v) := by
  constructor <;> simp

/-- A replacement of the reporting unit's record that keeps its flags touches the rings only. -/
theorem State.setReport_rings (s : State) (v : Report) (h : v.causePart = s.report.causePart) :
    OnlyChanges [.rings] s (s.setReport v) := by constructor <;> simp_all

/-- A replacement of the reporting unit's record that keeps its rings touches the flags only. -/
theorem State.setReport_causes (s : State) (v : Report) (h : v.ringPart = s.report.ringPart) :
    OnlyChanges [.causes] s (s.setReport v) := by constructor <;> simp_all

/-- A change of the reporting unit's record that keeps its flags touches the rings only. -/
theorem State.modReport_rings (s : State) (f : Report → Report) (h : (f s.report).causePart = s.report.causePart := by rfl) :
    OnlyChanges [.rings] s (s.modReport f) := by constructor <;> simp_all

/-- A change of the reporting unit's record that keeps its rings touches the flags only. -/
theorem State.modReport_causes (s : State) (f : Report → Report) (h : (f s.report).ringPart = s.report.ringPart := by rfl) :
    OnlyChanges [.causes] s (s.modReport f) := by constructor <;> simp_all

theorem State.modPort_interrupt (s : State) (l : ExchangePort → Bool) (n : ExchangePort → Nat) :
    OnlyChanges [.interrupt] s (s.modPort (fun p => { p with line := l p, msiSent := n p })) := by constructor <;> simp

theorem State.modPort_line (s : State) (l : Bool) :
    OnlyChanges [.interrupt] s (s.modPort (fun p => { p with line := l })) := by constructor <;> simp

theorem State.modPort_holdArea (s : State) (v : Option Section) :
    OnlyChanges [.holdArea] s (s.modPort (fun p => { p with holdArea := v })) := by constructor <;> simp

theorem State.modPort_release (s : State) (v : Option Section) (l : Bool) :
    OnlyChanges [.holdArea, .interrupt] s (s.modPort (fun p => { p with holdArea := v, line := l })) := by
  constructor <;> simp

theorem State.modPort_completion (s : State) (v : List Byte) :
    OnlyChanges [.completion] s (s.modPort (fun p => { p with completion := v })) := by constructor <;> simp

theorem State.modPort_partRead (s : State) (f : ExchangePort → List Byte) :
    OnlyChanges [.blocks] s (s.modPort (fun p => { p with partRead := f p })) := by constructor <;> simp

theorem State.modPort_partLost (s : State) (f : ExchangePort → Bool) :
    OnlyChanges [.blocks] s (s.modPort (fun p => { p with partLost := f p })) := by constructor <;> simp

theorem State.modPort_waiting (s : State) (v : List Instr) :
    OnlyChanges [.waiting] s (s.modPort (fun p => { p with waiting := v })) := by constructor <;> simp

theorem State.modPort_switches (s : State) (v : PcieSwitches) (l : Bool) :
    OnlyChanges [.link, .interrupt] s (s.modPort (fun p => { p with pcie := v, line := l })) := by constructor <;> simp

theorem State.setPort_linkReset (s : State) :
    OnlyChanges [.link, .waiting, .blocks] s (s.setPort s.port.linkReset) := by constructor <;> simp [ExchangePort.linkReset]

@[simp] theorem Report.causePart_setRing (r : Report) (i : RingId) (v : Ring) : (r.setRing i v).causePart = r.causePart := by
  cases i <;> rfl

@[simp] theorem Report.causePart_setQueue (r : Report) (i : RingId) (q : List Event) :
    (r.setQueue i q).causePart = r.causePart := by cases i <;> rfl

theorem State.setReport_ring (s : State) (i : RingId) (v : Ring) :
    OnlyChanges [.rings] s (s.setReport (s.report.setRing i v)) := s.setReport_rings _ (by simp)

theorem State.setReport_queue (s : State) (i : RingId) (q : List Event) :
    OnlyChanges [.rings] s (s.setReport (s.report.setQueue i q)) := s.setReport_rings _ (by simp)

/-! The shared operations, in the order of their files. -/

theorem State.reach_only (s : State) (t : Time) :
    OnlyChanges [.now] s (s.reach t) := by
  unfold State.reach
  repeat' first
    | with_reducible assumption | with_reducible exact OnlyChanges.refl _ _ | with_reducible apply OnlyChanges.andThen
    | decide | intro u hu | split | with_reducible apply OnlyChanges.next (c := State.setNow_only _ _)

theorem State.putBlock_only (s : State) (a : Nat) (bs : List Byte) :
    OnlyChanges [.ram, .lastServed] s (s.putBlock a bs) := by
  unfold State.putBlock
  repeat' first
    | with_reducible assumption | with_reducible exact OnlyChanges.refl _ _ | with_reducible apply OnlyChanges.andThen
    | decide | intro u hu | split | with_reducible apply OnlyChanges.next (c := State.setRam_only _ _)
    | with_reducible apply OnlyChanges.next (c := State.setLastServed_only _ _)

theorem State.setSlot_only (s : State) (i : Nat) (r : SlotRec) :
    OnlyChanges [.takes, .status] s (s.setSlot i r) := by
  unfold State.setSlot
  repeat' first
    | with_reducible assumption | with_reducible exact OnlyChanges.refl _ _ | with_reducible apply OnlyChanges.andThen
    | decide | intro u hu | split | with_reducible apply OnlyChanges.next (c := State.modTakes_only _ _)
    | with_reducible apply OnlyChanges.next (c := State.modStatus_only _ _)

theorem State.markSlotHeader_only (s : State) :
    OnlyChanges [.status] s (s.markSlotHeader) := by
  unfold State.markSlotHeader
  repeat' first
    | with_reducible assumption | with_reducible exact OnlyChanges.refl _ _ | with_reducible apply OnlyChanges.andThen
    | decide | intro u hu | split | with_reducible apply OnlyChanges.next (c := State.modStatus_only _ _)

theorem State.setSource_only (s : State) (i : Nat) (r : SourceRec) :
    OnlyChanges [.sources, .status] s (s.setSource i r) := by
  unfold State.setSource
  repeat' first
    | with_reducible assumption | with_reducible exact OnlyChanges.refl _ _ | with_reducible apply OnlyChanges.andThen
    | decide | intro u hu | split
    | with_reducible apply OnlyChanges.next (c := State.setSources_only _ _)
    | with_reducible apply OnlyChanges.next (c := State.modStatus_only _ _)

theorem State.evaluate_only (s : State) :
    OnlyChanges [.interrupt, .causes] s (s.evaluate) := by
  unfold State.evaluate
  constructor <;> simp [Report.ringPart, Report.causePart]

theorem State.setCauses_only (s : State) (v : BitVec 14) :
    OnlyChanges [.interrupt, .causes] s (s.setCauses v) := by
  unfold State.setCauses
  repeat' first
    | with_reducible assumption | with_reducible exact OnlyChanges.refl _ _ | with_reducible apply OnlyChanges.andThen
    | decide | intro u hu | split | with_reducible apply OnlyChanges.next (c := State.modReport_rings _ _ rfl)
    | with_reducible apply OnlyChanges.next (c := State.modReport_causes _ _ rfl)
    | with_reducible apply OnlyChanges.next (c := State.evaluate_only _)

theorem State.raise_only (s : State) (c : Cause) :
    OnlyChanges [.interrupt, .causes] s (s.raise c) := by
  unfold State.raise
  repeat' first
    | with_reducible assumption | with_reducible exact OnlyChanges.refl _ _ | with_reducible apply OnlyChanges.andThen
    | decide | intro u hu | split | with_reducible apply OnlyChanges.next (c := State.setCauses_only _ _)

theorem State.raiseIf_only (s : State) (b : Bool) (c : Cause) :
    OnlyChanges [.interrupt, .causes] s (s.raiseIf b c) := by
  unfold State.raiseIf
  repeat' first
    | with_reducible assumption | with_reducible exact OnlyChanges.refl _ _ | with_reducible apply OnlyChanges.andThen
    | decide | intro u hu | split | with_reducible apply OnlyChanges.next (c := State.raise_only _ _)

theorem State.clearInterrupt_only (s : State) :
    OnlyChanges [.interrupt, .causes] s (s.clearInterrupt) := by
  unfold State.clearInterrupt
  repeat' first
    | with_reducible assumption | with_reducible exact OnlyChanges.refl _ _ | with_reducible apply OnlyChanges.andThen
    | decide | intro u hu | split | with_reducible apply OnlyChanges.next (c := State.modReport_rings _ _ rfl)
    | with_reducible apply OnlyChanges.next (c := State.modReport_causes _ _ rfl)
    | with_reducible apply OnlyChanges.next (c := State.modPort_holdArea _ _)
    | with_reducible apply OnlyChanges.next (c := State.modPort_line _ _)

/-! The port's blocks, and a controller master's grants (R184). -/

theorem State.storePart_only (s : State) (offset : Nat) (data : List Byte) :
    OnlyChanges [.ram, .lastServed, .blocks] s (s.storePart offset data) := by
  unfold State.storePart
  repeat' first
    | with_reducible assumption | with_reducible exact OnlyChanges.refl _ _ | with_reducible apply OnlyChanges.andThen
    | decide | intro u hu | split
    | with_reducible apply OnlyChanges.next (c := State.setRam_only _ _)
    | with_reducible apply OnlyChanges.next (c := State.setLastServed_only _ _)
    | with_reducible apply OnlyChanges.next (c := State.modPort_partLost _ (fun p => _))

theorem State.takeBar0Write_only (s : State) (offset : Nat) (data : List Byte) :
    OnlyChanges [.ram, .lastServed, .blocks, .interrupt, .causes] s (s.takeBar0Write offset data) := by
  unfold State.takeBar0Write
  repeat' first
    | with_reducible assumption | with_reducible exact OnlyChanges.refl _ _ | with_reducible apply OnlyChanges.andThen
    | decide | intro u hu | split
    | with_reducible apply OnlyChanges.next (c := State.raise_only _ _)
    | with_reducible apply OnlyChanges.next (c := State.storePart_only _ _ _)
    | with_reducible apply OnlyChanges.next (c := State.modPort_partLost _ (fun p => _))
    | with_reducible apply OnlyChanges.next (c := State.raiseIf_only _ _ _)

theorem State.complete_only (s : State) (bs : List Byte) :
    OnlyChanges [.completion] s (s.complete bs) := by
  unfold State.complete
  repeat' first
    | with_reducible assumption | with_reducible exact OnlyChanges.refl _ _ | with_reducible apply OnlyChanges.andThen
    | decide | intro u hu | split | with_reducible apply OnlyChanges.next (c := State.modPort_holdArea _ _)
    | with_reducible apply OnlyChanges.next (c := State.modPort_line _ _)
    | with_reducible apply OnlyChanges.next (c := State.modPort_release _ _ _)
    | with_reducible apply OnlyChanges.next (c := State.modPort_completion _ _)

theorem State.readPart_only (s : State) (offset length : Nat) :
    OnlyChanges [.lastServed, .blocks] s (s.readPart offset length) := by
  unfold State.readPart
  repeat' first
    | with_reducible assumption | with_reducible exact OnlyChanges.refl _ _ | with_reducible apply OnlyChanges.andThen
    | decide | intro u hu | split
    | with_reducible apply OnlyChanges.next (c := State.setLastServed_only _ _)
    | with_reducible apply OnlyChanges.next (c := State.modPort_partRead _ (fun p => _))

theorem State.takeBar0Read_only (s : State) (offset length : Nat) :
    OnlyChanges [.lastServed, .blocks, .completion] s (s.takeBar0Read offset length) := by
  unfold State.takeBar0Read
  repeat' first
    | with_reducible assumption | with_reducible exact OnlyChanges.refl _ _ | with_reducible apply OnlyChanges.andThen
    | decide | intro u hu | split
    | with_reducible apply OnlyChanges.next (c := State.complete_only _ _)
    | with_reducible apply OnlyChanges.next (c := State.readPart_only _ _ _)
    | with_reducible apply OnlyChanges.next (c := State.modPort_partRead _ (fun p => _))

theorem servePart_only (i : Instr) (s : State) : OnlyChanges [.ram, .lastServed, .blocks] s (servePart i s) := by
  unfold servePart
  repeat' first
    | with_reducible exact OnlyChanges.refl _ _ | decide | split
    | with_reducible apply OnlyChanges.next (c := State.storePart_only _ _ _)
    | with_reducible apply OnlyChanges.next (c := State.readPart_only _ _ _)

theorem State.setWaiting_only (s : State) (q : List Instr) :
    OnlyChanges [.waiting] s (s.setWaiting q) := by
  unfold State.setWaiting
  repeat' first
    | with_reducible assumption | with_reducible exact OnlyChanges.refl _ _ | with_reducible apply OnlyChanges.andThen
    | decide | intro u hu | split | with_reducible apply OnlyChanges.next (c := State.modPort_holdArea _ _)
    | with_reducible apply OnlyChanges.next (c := State.modPort_line _ _)
    | with_reducible apply OnlyChanges.next (c := State.modPort_release _ _ _)
    | with_reducible apply OnlyChanges.next (c := State.modPort_completion _ _)
    | with_reducible apply OnlyChanges.next (c := State.modPort_waiting _ _)

theorem takeRamAccess_only (i : Instr) (s : State) :
    OnlyChanges [.ram, .lastServed, .blocks, .completion, .interrupt, .causes] s (takeRamAccess i s) := by
  unfold takeRamAccess
  repeat' first
    | with_reducible assumption | with_reducible exact OnlyChanges.refl _ _ | with_reducible apply OnlyChanges.andThen
    | decide | intro u hu | split
    | with_reducible apply OnlyChanges.next (c := State.takeBar0Write_only _ _ _)
    | with_reducible apply OnlyChanges.next (c := State.takeBar0Read_only _ _ _)

theorem State.serveBlock_only (s : State) (i : Instr) (r : List Instr) :
    OnlyChanges [.ram, .lastServed, .waiting, .blocks, .completion, .interrupt, .causes] s (s.serveBlock i r) := by
  unfold State.serveBlock
  repeat' first
    | with_reducible assumption | with_reducible exact OnlyChanges.refl _ _ | with_reducible apply OnlyChanges.andThen
    | decide | intro u hu | split
    | with_reducible apply OnlyChanges.next (c := takeRamAccess_only _ _)
    | with_reducible apply OnlyChanges.next (c := servePart_only _ _)
    | with_reducible apply OnlyChanges.next (c := State.setWaiting_only _ _)

theorem State.portTurn_only (s : State) :
    OnlyChanges [.ram, .lastServed, .waiting, .blocks, .completion, .interrupt, .causes] s (s.portTurn) := by
  unfold State.portTurn
  repeat' first
    | with_reducible assumption | with_reducible exact OnlyChanges.refl _ _ | with_reducible apply OnlyChanges.andThen
    | decide | intro u hu | split
    | with_reducible apply OnlyChanges.next (c := State.serveBlock_only _ _ _)

theorem State.ctlRead_only (s : State) :
    OnlyChanges [.ram, .lastServed, .waiting, .blocks, .completion, .interrupt, .causes] s (s.ctlRead) := by
  unfold State.ctlRead
  repeat' first
    | with_reducible assumption | with_reducible exact OnlyChanges.refl _ _ | with_reducible apply OnlyChanges.andThen
    | decide | intro u hu | split
    | with_reducible apply OnlyChanges.next (c := State.portTurn_only _)
    | with_reducible apply OnlyChanges.next (c := State.setLastServed_only _ _)

theorem State.ctlWrite_only (s : State) (a : Nat) (bs : List Byte) :
    OnlyChanges [.ram, .lastServed, .waiting, .blocks, .completion, .interrupt, .causes] s (s.ctlWrite a bs) := by
  unfold State.ctlWrite
  repeat' first
    | with_reducible assumption | with_reducible exact OnlyChanges.refl _ _ | with_reducible apply OnlyChanges.andThen
    | decide | intro u hu | split
    | with_reducible apply OnlyChanges.next (c := State.portTurn_only _)
    | with_reducible apply OnlyChanges.next (c := State.putBlock_only _ _ _)

theorem State.ctlWrites_only (s : State) (l : Blocks) :
    OnlyChanges [.ram, .lastServed, .waiting, .blocks, .completion, .interrupt, .causes] s (s.ctlWrites l) := by
  unfold State.ctlWrites
  repeat' first
    | with_reducible assumption | with_reducible exact OnlyChanges.refl _ _ | with_reducible apply OnlyChanges.andThen
    | decide | intro u hu | split
    | with_reducible apply OnlyChanges.next (c := State.ctlWrite_only _ _ _)
    | with_reducible refine OnlyChanges.trans ?_ (OnlyChanges.foldl (fun s a => ?_) _ _)

theorem State.loseEvents_only (s : State) (i : RingId) (n : Nat) :
    OnlyChanges [.interrupt, .rings, .causes] s (s.loseEvents i n) := by
  unfold State.loseEvents
  repeat' first
    | with_reducible assumption | with_reducible exact OnlyChanges.refl _ _ | with_reducible apply OnlyChanges.andThen
    | decide | intro u hu | split | with_reducible apply OnlyChanges.next (c := State.setReport_ring _ _ _)
    | with_reducible apply OnlyChanges.next (c := State.setReport_queue _ _ _)
    | with_reducible apply OnlyChanges.next (c := State.setReport_only _ _)
    | with_reducible apply OnlyChanges.next (c := State.raise_only _ _)

theorem State.sendEvent_only (s : State) (i : RingId) (e : Event) :
    OnlyChanges [.interrupt, .rings, .causes] s (s.sendEvent i e) := by
  unfold State.sendEvent
  repeat' first
    | with_reducible assumption | with_reducible exact OnlyChanges.refl _ _ | with_reducible apply OnlyChanges.andThen
    | decide | intro u hu | split | with_reducible apply OnlyChanges.next (c := State.loseEvents_only _ _ _)
    | with_reducible apply OnlyChanges.next (c := State.setReport_ring _ _ _)
    | with_reducible apply OnlyChanges.next (c := State.setReport_queue _ _ _)

theorem State.handEvent_only (s : State) (e : Event) :
    OnlyChanges [.interrupt, .rings, .causes] s (s.handEvent e) := by
  unfold State.handEvent
  repeat' first
    | with_reducible assumption | with_reducible exact OnlyChanges.refl _ _ | with_reducible apply OnlyChanges.andThen
    | decide | intro u hu | split | with_reducible apply OnlyChanges.next (c := State.sendEvent_only _ _ _)

theorem State.handEvents_only (s : State) (es : List Event) :
    OnlyChanges [.interrupt, .rings, .causes] s (s.handEvents es) := by
  unfold State.handEvents
  repeat' first
    | with_reducible assumption | with_reducible exact OnlyChanges.refl _ _ | with_reducible apply OnlyChanges.andThen
    | decide | intro u hu | split | with_reducible apply OnlyChanges.next (c := State.handEvent_only _ _)
    | with_reducible refine OnlyChanges.trans ?_ (OnlyChanges.foldl (fun s a => ?_) _ _)

theorem State.handEntry_only (s : State) (e : JournalEntry) :
    OnlyChanges [.rings] s (s.handEntry e) := by
  unfold State.handEntry
  repeat' first
    | with_reducible assumption | with_reducible exact OnlyChanges.refl _ _ | with_reducible apply OnlyChanges.andThen
    | decide | intro u hu | split | with_reducible apply OnlyChanges.next (c := State.modReport_rings _ _ rfl)

theorem State.commitCheck_only (s : State) :
    OnlyChanges [.composer] s (s.commitCheck) := by
  unfold State.commitCheck
  repeat' first
    | with_reducible assumption | with_reducible exact OnlyChanges.refl _ _ | with_reducible apply OnlyChanges.andThen
    | decide | intro u hu | split | with_reducible apply OnlyChanges.next (c := State.setComposer_only _ _)

theorem State.finishTake_only (s : State) (i : Nat) (res : TakeOutcome × Reason × Option Nat × Option Nat)
    (cancelLate : Bool) (frame : Option Word) :
    OnlyChanges [.rings] s (s.finishTake i res cancelLate frame) := by
  unfold State.finishTake
  repeat' first
    | with_reducible assumption | with_reducible exact OnlyChanges.refl _ _ | with_reducible apply OnlyChanges.andThen
    | decide | intro u hu | split | with_reducible apply OnlyChanges.next (c := State.handEntry_only _ _)

theorem State.cancelTakes_only (s : State) (l : List Nat) (frame : Option Word) :
    OnlyChanges [.rings] s (s.cancelTakes l frame) := by
  unfold State.cancelTakes
  repeat' first
    | with_reducible assumption | with_reducible exact OnlyChanges.refl _ _ | with_reducible apply OnlyChanges.andThen
    | decide | intro u hu | split | with_reducible apply OnlyChanges.next (c := State.finishTake_only _ _ _ _ _)
    | with_reducible refine OnlyChanges.trans ?_ (OnlyChanges.foldl (fun s a => ?_) _ _)

theorem State.abandonTakes_only (s : State) (l : List Nat) :
    OnlyChanges [.rings] s (s.abandonTakes l) := by
  unfold State.abandonTakes
  repeat' first
    | with_reducible assumption | with_reducible exact OnlyChanges.refl _ _ | with_reducible apply OnlyChanges.andThen
    | decide | intro u hu | split | with_reducible apply OnlyChanges.next (c := State.finishTake_only _ _ _ _ _)
    | with_reducible refine OnlyChanges.trans ?_ (OnlyChanges.foldl (fun s a => ?_) _ _)

theorem State.returnTake_only (s : State) (frame : Option Word) (i : Nat) :
    OnlyChanges [.takes, .rings, .status] s (s.returnTake frame i) := by
  unfold State.returnTake
  repeat' first
    | with_reducible assumption | with_reducible exact OnlyChanges.refl _ _ | with_reducible apply OnlyChanges.andThen
    | decide | intro u hu | split | with_reducible apply OnlyChanges.next (c := State.finishTake_only _ _ _ _ _)
    | with_reducible apply OnlyChanges.next (c := State.setSlot_only _ _ _)

theorem State.recordRefusal_only (s : State) (i : Nat) (r : RefusalReason) :
    OnlyChanges [.takes, .status] s (s.recordRefusal i r) := by
  unfold State.recordRefusal
  repeat' first
    | with_reducible assumption | with_reducible exact OnlyChanges.refl _ _ | with_reducible apply OnlyChanges.andThen
    | decide | intro u hu | split | with_reducible apply OnlyChanges.next (c := State.setSlot_only _ _ _)

theorem State.refuse_only (s : State) (i : Nat) (r : RefusalReason) :
    OnlyChanges [.interrupt, .takes, .causes, .status] s (s.refuse i r) := by
  unfold State.refuse
  repeat' first
    | with_reducible assumption | with_reducible exact OnlyChanges.refl _ _ | with_reducible apply OnlyChanges.andThen
    | decide | intro u hu | split | with_reducible apply OnlyChanges.next (c := State.recordRefusal_only _ _ _)
    | with_reducible apply OnlyChanges.next (c := State.raise_only _ _)

theorem State.reserve_only (s : State) :
    OnlyChanges [.rings] s (s.reserve) := by
  unfold State.reserve
  repeat' first
    | with_reducible assumption | with_reducible exact OnlyChanges.refl _ _ | with_reducible apply OnlyChanges.andThen
    | decide | intro u hu | split | with_reducible apply OnlyChanges.next (c := State.modReport_rings _ _ rfl)

theorem State.acceptPost_only (s : State) (i : Nat) :
    OnlyChanges [.takes, .rings, .status] s (s.acceptPost i) := by
  unfold State.acceptPost
  repeat' first
    | with_reducible assumption | with_reducible exact OnlyChanges.refl _ _ | with_reducible apply OnlyChanges.andThen
    | decide | intro u hu | split | with_reducible apply OnlyChanges.next (c := State.recordRefusal_only _ _ _)
    | with_reducible apply OnlyChanges.next (c := State.reserve_only _)
    | with_reducible apply OnlyChanges.next (c := State.modTakes_only _ _)

theorem State.handlePosts_only (s : State) (l : List Nat) :
    OnlyChanges [.interrupt, .takes, .rings, .causes, .status] s (s.handlePosts l) := by
  induction l generalizing s with
  | nil => exact OnlyChanges.next (OnlyChanges.refl _ _) (State.modTakes_only _ _) (by decide)
  | cons i l ih =>
    unfold State.handlePosts
    split
    · exact OnlyChanges.trans (OnlyChanges.next (OnlyChanges.refl _ _) (State.refuse_only _ _ _) (by decide)) (ih _)
    · exact OnlyChanges.next (OnlyChanges.next (OnlyChanges.refl _ _) (State.acceptPost_only _ _) (by decide))
        (State.modTakes_only _ _) (by decide)

theorem State.rejectPost_only (s : State) (i : Nat) (h : TakeHeader) (r : Reason) :
    OnlyChanges [.rings] s (s.rejectPost i h r) := by
  unfold State.rejectPost
  repeat' first
    | with_reducible assumption | with_reducible exact OnlyChanges.refl _ _ | with_reducible apply OnlyChanges.andThen
    | decide | intro u hu | split | with_reducible apply OnlyChanges.next (c := State.handEntry_only _ _)

theorem State.recordPost_only (s : State) (i : Nat) (h : TakeHeader) :
    OnlyChanges [.takes, .status] s (s.recordPost i h) := by
  unfold State.recordPost
  repeat' first
    | with_reducible assumption | with_reducible exact OnlyChanges.refl _ _ | with_reducible apply OnlyChanges.andThen
    | decide | intro u hu | split | with_reducible apply OnlyChanges.next (c := State.setSlot_only _ _ _)
    | with_reducible apply OnlyChanges.next (c := State.modTakes_only _ _)
    | with_reducible apply OnlyChanges.next (c := State.markSlotHeader_only _)

theorem State.finishChecks_only (s : State) (i : Nat) :
    OnlyChanges [.ram, .lastServed, .waiting, .blocks, .completion, .interrupt, .takes, .rings, .causes,
      .status] s (s.finishChecks i) := by
  unfold State.finishChecks
  repeat' first
    | with_reducible assumption | with_reducible exact OnlyChanges.refl _ _ | with_reducible apply OnlyChanges.andThen
    | decide | intro u hu | split | extract_lets | with_reducible apply OnlyChanges.next (c := State.modTakes_only _ _)
    | with_reducible apply OnlyChanges.next (c := State.setLastServed_only _ _)
    | with_reducible apply OnlyChanges.next (c := State.rejectPost_only _ _ _ _)
    | with_reducible apply OnlyChanges.next (c := State.recordPost_only _ _ _)
    | with_reducible apply OnlyChanges.next (c := State.finishTake_only _ _ _ _ _)
    | with_reducible apply OnlyChanges.next (c := State.ctlRead_only _)

theorem State.continuePosts_only (s : State) :
    OnlyChanges [.ram, .lastServed, .waiting, .blocks, .completion, .interrupt, .takes, .rings, .causes,
      .status] s (s.continuePosts) := by
  unfold State.continuePosts
  repeat' first
    | with_reducible assumption | with_reducible exact OnlyChanges.refl _ _ | with_reducible apply OnlyChanges.andThen
    | decide | intro u hu | split | with_reducible apply OnlyChanges.next (c := State.finishChecks_only _ _)
    | with_reducible apply OnlyChanges.next (c := State.handlePosts_only _ _)
    | with_reducible apply OnlyChanges.next (c := State.modTakes_only _ _)

/-! The ring writer. -/

theorem State.setRingJob_only (s : State) (j : Option (RingJob × Nat)) :
    OnlyChanges [.rings] s (s.setRingJob j) := by
  unfold State.setRingJob
  repeat' first
    | with_reducible assumption | with_reducible exact OnlyChanges.refl _ _ | with_reducible apply OnlyChanges.andThen
    | decide | intro u hu | split
    | with_reducible apply OnlyChanges.next (c := State.modReport_rings _ _ rfl)

theorem State.doRingJob_only (s : State) (j : RingJob) :
    OnlyChanges [.ram, .lastServed, .waiting, .blocks, .completion, .interrupt, .rings, .causes] s (s.doRingJob j) := by
  unfold State.doRingJob
  repeat' first
    | with_reducible assumption | with_reducible exact OnlyChanges.refl _ _ | with_reducible apply OnlyChanges.andThen
    | decide | intro u hu | split
    | with_reducible apply OnlyChanges.next (c := State.ctlWrites_only _ _)
    | with_reducible apply OnlyChanges.next (c := State.setRingJob_only _ _)
    | with_reducible apply OnlyChanges.next (c := State.portTurn_only _)

theorem State.writeRingHeader_only (s : State) (i : RingId) :
    OnlyChanges [.ram, .lastServed, .waiting, .blocks, .completion, .interrupt, .causes] s (s.writeRingHeader i) := by
  unfold State.writeRingHeader
  repeat' first
    | with_reducible assumption | with_reducible exact OnlyChanges.refl _ _ | with_reducible apply OnlyChanges.andThen
    | decide | intro u hu | split
    | with_reducible apply OnlyChanges.next (c := State.ctlWrite_only _ _ _)

theorem State.flushRing_only (s : State) (i : RingId) :
    OnlyChanges [.ram, .lastServed, .waiting, .blocks, .completion, .interrupt, .rings, .causes] s (s.flushRing i) := by
  unfold State.flushRing
  repeat' first
    | with_reducible assumption | with_reducible exact OnlyChanges.refl _ _ | with_reducible apply OnlyChanges.andThen
    | decide | intro u hu | split
    | with_reducible apply OnlyChanges.next (c := State.doRingJob_only _ _)
    | with_reducible apply OnlyChanges.next (c := State.setReport_ring _ _ _)
    | with_reducible apply OnlyChanges.next (c := State.writeRingHeader_only _ _)

theorem State.countEntry_only (s : State) (i : RingId) :
    OnlyChanges [.ram, .lastServed, .waiting, .blocks, .completion, .interrupt, .rings, .causes] s (s.countEntry i) := by
  unfold State.countEntry
  repeat' first
    | with_reducible assumption | with_reducible exact OnlyChanges.refl _ _ | with_reducible apply OnlyChanges.andThen
    | decide | intro u hu | split
    | with_reducible apply OnlyChanges.next (c := State.setReport_ring _ _ _)
    | with_reducible apply OnlyChanges.next (c := State.writeRingHeader_only _ _)
    | with_reducible apply OnlyChanges.next (c := State.raiseIf_only _ _ _)

theorem State.endTake_only (s : State) (i : Nat) :
    OnlyChanges [.interrupt, .takes, .rings, .causes, .status] s (s.endTake i) := by
  unfold State.endTake
  repeat' first
    | with_reducible assumption | with_reducible exact OnlyChanges.refl _ _ | with_reducible apply OnlyChanges.andThen
    | decide | intro u hu | split
    | with_reducible apply OnlyChanges.next (c := State.modTakes_only _ _)
    | with_reducible apply OnlyChanges.next (c := State.handlePosts_only _ _)
    | with_reducible apply OnlyChanges.next (c := State.setSlot_only _ _ _)

theorem State.writeJournalEntry_only (s : State) :
    OnlyChanges [.ram, .lastServed, .waiting, .blocks, .completion, .interrupt, .takes, .rings, .causes,
      .status] s (s.writeJournalEntry) := by
  unfold State.writeJournalEntry
  repeat' first
    | with_reducible assumption | with_reducible exact OnlyChanges.refl _ _ | with_reducible apply OnlyChanges.andThen
    | decide | intro u hu | split
    | with_reducible apply OnlyChanges.next (c := State.flushRing_only _ _)
    | with_reducible apply OnlyChanges.next (c := State.doRingJob_only _ _)
    | with_reducible apply OnlyChanges.next (c := State.modReport_rings _ _ rfl)
    | with_reducible apply OnlyChanges.next (c := State.countEntry_only _ _)
    | with_reducible apply OnlyChanges.next (c := State.endTake_only _ _)

theorem State.loseWaiting_only (s : State) (i : RingId) :
    OnlyChanges [.interrupt, .rings, .causes] s (s.loseWaiting i) := by
  unfold State.loseWaiting
  repeat' first
    | with_reducible assumption | with_reducible exact OnlyChanges.refl _ _ | with_reducible apply OnlyChanges.andThen
    | decide | intro u hu | split
    | with_reducible apply OnlyChanges.next (c := State.setReport_queue _ _ _)
    | with_reducible apply OnlyChanges.next (c := State.loseEvents_only _ _ _)

theorem State.writeEvent_only (s : State) (i : RingId) :
    OnlyChanges [.ram, .lastServed, .waiting, .blocks, .completion, .interrupt, .rings, .causes] s (s.writeEvent i) := by
  unfold State.writeEvent
  repeat' first
    | with_reducible assumption | with_reducible exact OnlyChanges.refl _ _ | with_reducible apply OnlyChanges.andThen
    | decide | intro u hu | split
    | with_reducible apply OnlyChanges.next (c := State.flushRing_only _ _)
    | with_reducible apply OnlyChanges.next (c := State.doRingJob_only _ _)
    | with_reducible apply OnlyChanges.next (c := State.setReport_queue _ _ _)
    | with_reducible apply OnlyChanges.next (c := State.countEntry_only _ _)
    | with_reducible apply OnlyChanges.next (c := State.loseWaiting_only _ _)

theorem State.writeEntry_only (s : State) (i : RingId) :
    OnlyChanges [.ram, .lastServed, .waiting, .blocks, .completion, .interrupt, .takes, .rings, .causes,
      .status] s (s.writeEntry i) := by
  unfold State.writeEntry
  repeat' first
    | with_reducible assumption | with_reducible exact OnlyChanges.refl _ _ | with_reducible apply OnlyChanges.andThen
    | decide | intro u hu | split
    | with_reducible apply OnlyChanges.next (c := State.writeJournalEntry_only _)
    | with_reducible apply OnlyChanges.next (c := State.writeEvent_only _ _)

theorem State.ringGrant_only (s : State) :
    OnlyChanges [.ram, .lastServed, .rings] s (s.ringGrant) := by
  unfold State.ringGrant
  repeat' first
    | with_reducible assumption | with_reducible exact OnlyChanges.refl _ _ | with_reducible apply OnlyChanges.andThen
    | decide | intro u hu | split
    | with_reducible apply OnlyChanges.next (c := State.putBlock_only _ _ _)
    | with_reducible apply OnlyChanges.next (c := State.setRingJob_only _ _)
    | with_reducible apply OnlyChanges.next (c := State.setLastServed_only _ _)

theorem State.writeEntries_only (s : State) (i : RingId) (n : Nat) :
    OnlyChanges [.ram, .lastServed, .waiting, .blocks, .completion, .interrupt, .takes, .rings, .causes,
      .status] s (s.writeEntries i n) := by
  induction n generalizing s with
  | zero => exact OnlyChanges.refl _ _
  | succ n ih => exact (s.writeEntry_only i).trans (ih _)

theorem State.journalDone_only (s : State) :
    OnlyChanges [.ram, .lastServed, .waiting, .blocks, .completion, .interrupt, .takes, .rings, .causes,
      .status] s s.journalDone := s.writeEntries_only _ _

theorem State.ringDone_only (s : State) (i : RingId) :
    OnlyChanges [.ram, .lastServed, .waiting, .blocks, .completion, .interrupt, .takes, .rings, .causes,
      .status] s (s.ringDone i) := by
  unfold State.ringDone
  repeat' first
    | with_reducible assumption | with_reducible exact OnlyChanges.refl _ _ | with_reducible apply OnlyChanges.andThen
    | decide | intro u hu | split
    | with_reducible apply OnlyChanges.next (c := State.writeEntries_only _ _ _)
    | with_reducible apply OnlyChanges.next (c := State.flushRing_only _ _)

theorem State.ringsDone_only (s : State) :
    OnlyChanges [.ram, .lastServed, .waiting, .blocks, .completion, .interrupt, .takes, .rings, .causes,
      .status] s (s.ringsDone) := by
  unfold State.ringsDone
  repeat' first
    | with_reducible assumption | with_reducible exact OnlyChanges.refl _ _ | with_reducible apply OnlyChanges.andThen
    | decide | intro u hu | split
    | with_reducible apply OnlyChanges.next (c := State.ringDone_only _ _)

theorem State.completePosts_only (fuel : Nat) (s : State) :
    OnlyChanges [.ram, .lastServed, .waiting, .blocks, .completion, .interrupt, .takes, .rings, .causes,
      .status] s (s.completePosts fuel) := by
  induction fuel generalizing s with
  | zero => exact OnlyChanges.refl _ _
  | succ fuel ih =>
    unfold State.completePosts
    split
    · exact OnlyChanges.refl _ _
    · split
      · exact s.journalDone_only.trans (ih _)
      · exact (s.continuePosts_only.mono (by decide)).trans (ih _)

/-- With no post in hand there is nothing to complete. -/
theorem State.completePosts_idle (fuel : Nat) (s : State) (h : s.takes.checking = none) : s.completePosts fuel = s := by
  cases fuel with
  | zero => rfl
  | succ fuel => unfold State.completePosts; rw [h]

/-! Cancelling. -/

theorem State.cancelSlot_only (s : State) (i : Nat) :
    OnlyChanges [.ram, .lastServed, .waiting, .blocks, .completion, .interrupt, .takes, .rings, .causes,
      .status] s (s.cancelSlot i) := by
  unfold State.cancelSlot
  repeat' first
    | with_reducible assumption | with_reducible exact OnlyChanges.refl _ _ | with_reducible apply OnlyChanges.andThen
    | decide | intro u hu | split | with_reducible apply OnlyChanges.next (c := State.finishTake_only _ _ _ _ _)
    | with_reducible apply OnlyChanges.next (c := State.recordRefusal_only _ _ _)
    | with_reducible apply OnlyChanges.next (c := State.setSlot_only _ _ _)
    | with_reducible apply OnlyChanges.next (c := State.refuse_only _ _ _)
    | with_reducible apply OnlyChanges.next (c := State.journalDone_only _)

theorem State.cancelSlots_only (s : State) (l : List Nat) :
    OnlyChanges [.ram, .lastServed, .waiting, .blocks, .completion, .interrupt, .takes, .rings, .causes,
      .status] s (s.cancelSlots l) := by
  unfold State.cancelSlots
  repeat' first
    | with_reducible assumption | with_reducible exact OnlyChanges.refl _ _ | with_reducible apply OnlyChanges.andThen
    | decide | intro u hu | split | with_reducible apply OnlyChanges.next (c := State.cancelSlot_only _ _)
    | with_reducible refine OnlyChanges.trans ?_ (OnlyChanges.foldl (fun s a => ?_) _ _)

theorem State.startSupervision_only (s : State) :
    OnlyChanges [.modes] s (s.startSupervision) := by
  unfold State.startSupervision
  repeat' first
    | with_reducible assumption | with_reducible exact OnlyChanges.refl _ _ | with_reducible apply OnlyChanges.andThen
    | decide | intro u hu | split | with_reducible apply OnlyChanges.next (c := State.modModes_only _ _)

theorem State.stopSupervision_only (s : State) :
    OnlyChanges [.modes] s (s.stopSupervision) := by
  unfold State.stopSupervision
  repeat' first
    | with_reducible assumption | with_reducible exact OnlyChanges.refl _ _ | with_reducible apply OnlyChanges.andThen
    | decide | intro u hu | split | with_reducible apply OnlyChanges.next (c := State.modModes_only _ _)

theorem State.serve_only (s : State) :
    OnlyChanges [.modes] s (s.serve) := by
  unfold State.serve
  repeat' first
    | with_reducible assumption | with_reducible exact OnlyChanges.refl _ _ | with_reducible apply OnlyChanges.andThen
    | decide | intro u hu | split | with_reducible apply OnlyChanges.next (c := State.startSupervision_only _)

theorem State.changeSource_only (s : State) (i : Nat) (r : SourceRec) (glitch activation : Bool) :
    OnlyChanges [.interrupt, .composer, .sources, .rings, .causes, .status] s (s.changeSource i r glitch activation) := by
  unfold State.changeSource
  repeat' first
    | with_reducible assumption | with_reducible exact OnlyChanges.refl _ _ | with_reducible apply OnlyChanges.andThen
    | decide | intro u hu | split | with_reducible apply OnlyChanges.next (c := State.setSource_only _ _ _)
    | with_reducible apply OnlyChanges.next (c := State.setComposer_only _ _)
    | with_reducible apply OnlyChanges.next (c := State.handEvent_only _ _)

theorem State.loseLocked_only (s : State) (i : Nat) :
    OnlyChanges [.interrupt, .composer, .sources, .rings, .causes, .status] s (s.loseLocked i) := by
  unfold State.loseLocked
  repeat' first
    | with_reducible assumption | with_reducible exact OnlyChanges.refl _ _ | with_reducible apply OnlyChanges.andThen
    | decide | intro u hu | split | with_reducible apply OnlyChanges.next (c := State.changeSource_only _ _ _ _ _)
    | dsimp only

theorem State.sourceLoss_only (s : State) (i : Nat) :
    OnlyChanges [.interrupt, .composer, .sources, .rings, .causes, .status] s (s.sourceLoss i) := by
  unfold State.sourceLoss
  repeat' first
    | with_reducible assumption | with_reducible exact OnlyChanges.refl _ _ | with_reducible apply OnlyChanges.andThen
    | decide | intro u hu | split | with_reducible apply OnlyChanges.next (c := State.changeSource_only _ _ _ _ _)
    | with_reducible apply OnlyChanges.next (c := State.loseLocked_only _ _) | dsimp only

theorem State.noteLane_only (s : State) (i : Nat) (activity : Bool) (watchFrom : Time) :
    OnlyChanges [.sources, .status] s (s.noteLane i activity watchFrom) := by
  unfold State.noteLane
  repeat' first
    | with_reducible assumption | with_reducible exact OnlyChanges.refl _ _ | with_reducible apply OnlyChanges.andThen
    | decide | intro u hu | split | with_reducible apply OnlyChanges.next (c := State.setSource_only _ _ _)

theorem State.noteFrame_only (s : State) (i : Nat) (m : Measurement) :
    OnlyChanges [.sources, .status] s (s.noteFrame i m) := by
  unfold State.noteFrame
  repeat' first
    | with_reducible assumption | with_reducible exact OnlyChanges.refl _ _ | with_reducible apply OnlyChanges.andThen
    | decide | intro u hu | split
    | with_reducible apply OnlyChanges.next (c := State.setSource_only _ _ _)

theorem State.useRate_only (s : State) (m : Measurement) :
    OnlyChanges [.freeIdx] s (s.useRate m) := by
  unfold State.useRate
  repeat' first
    | with_reducible assumption | with_reducible exact OnlyChanges.refl _ _ | with_reducible apply OnlyChanges.andThen
    | decide | intro u hu | split | with_reducible apply OnlyChanges.next (c := State.setFreeIdx_only _ _)

theorem State.qualify_only (s : State) (i : Nat) (m : Measurement) :
    OnlyChanges [.freeIdx, .interrupt, .composer, .sources, .rings, .causes, .status] s (s.qualify i m) := by
  unfold State.qualify
  repeat' first
    | with_reducible assumption | with_reducible exact OnlyChanges.refl _ _ | with_reducible apply OnlyChanges.andThen
    | decide | intro u hu | split | with_reducible apply OnlyChanges.next (c := State.useRate_only _ _)
    | with_reducible apply OnlyChanges.next (c := State.changeSource_only _ _ _ _ _) | dsimp only

theorem State.acquireFrame_only (s : State) (i : Nat) (m : Measurement) :
    OnlyChanges [.freeIdx, .interrupt, .composer, .sources, .rings, .causes, .status] s (s.acquireFrame i m) := by
  unfold State.acquireFrame
  repeat' first
    | with_reducible assumption | with_reducible exact OnlyChanges.refl _ _ | with_reducible apply OnlyChanges.andThen
    | decide | intro u hu | split | with_reducible apply OnlyChanges.next (c := State.qualify_only _ _ _)
    | with_reducible apply OnlyChanges.next (c := State.setSource_only _ _ _) | dsimp only

theorem State.requalify_only (s : State) (i : Nat) (m : Measurement) :
    OnlyChanges [.interrupt, .composer, .sources, .rings, .causes, .status] s (s.requalify i m) := by
  unfold State.requalify
  repeat' first
    | with_reducible assumption | with_reducible exact OnlyChanges.refl _ _ | with_reducible apply OnlyChanges.andThen
    | decide | intro u hu | split | with_reducible apply OnlyChanges.next (c := State.changeSource_only _ _ _ _ _)

theorem State.sourceFrame_only (s : State) (i : Nat) (m : Measurement) :
    OnlyChanges [.freeIdx, .interrupt, .composer, .sources, .rings, .causes, .status] s (s.sourceFrame i m) := by
  unfold State.sourceFrame
  repeat' first
    | with_reducible assumption | with_reducible exact OnlyChanges.refl _ _ | with_reducible apply OnlyChanges.andThen
    | decide | intro u hu | split | with_reducible apply OnlyChanges.next (c := State.requalify_only _ _ _)
    | with_reducible apply OnlyChanges.next (c := State.acquireFrame_only _ _ _)
    | with_reducible apply OnlyChanges.next (c := State.handEvent_only _ _)
    | with_reducible apply OnlyChanges.next (c := State.changeSource_only _ _ _ _ _) | dsimp only

theorem State.applySettings_only (s : State) (i : Nat) (new : SourceSettings) :
    OnlyChanges [.interrupt, .composer, .sources, .rings, .causes, .status] s (s.applySettings i new) := by
  unfold State.applySettings
  repeat' first
    | with_reducible assumption | with_reducible exact OnlyChanges.refl _ _ | with_reducible apply OnlyChanges.andThen
    | decide | intro u hu | split | with_reducible apply OnlyChanges.next (c := State.changeSource_only _ _ _ _ _)
    | with_reducible apply OnlyChanges.next (c := State.setSource_only _ _ _) | dsimp only

theorem State.applyAllSettings_only (s : State) (i : Nat) (l : List SourceSettings) :
    OnlyChanges [.interrupt, .composer, .sources, .rings, .causes, .status] s (s.applyAllSettings i l) := by
  induction l generalizing s i with
  | nil => exact OnlyChanges.refl _ _
  | cons n ns ih => exact (State.applySettings_only s i n).trans (ih _ _)

theorem State.setInternalRate_only (s : State) (rate : Nat) :
    OnlyChanges [.sources] s (s.setInternalRate rate) := by
  unfold State.setInternalRate
  repeat' first
    | with_reducible assumption | with_reducible exact OnlyChanges.refl _ _ | with_reducible apply OnlyChanges.andThen
    | decide | intro u hu | split | with_reducible apply OnlyChanges.next (c := State.setSources_only _ _)

theorem State.expireTakes_only (s : State) (n : Word) :
    OnlyChanges [.rings] s (s.expireTakes n) := by
  unfold State.expireTakes
  repeat' first
    | with_reducible assumption | with_reducible exact OnlyChanges.refl _ _ | with_reducible apply OnlyChanges.andThen
    | decide | intro u hu | split | with_reducible apply OnlyChanges.next (c := State.finishTake_only _ _ _ _ _)
    | with_reducible refine OnlyChanges.trans ?_ (OnlyChanges.foldl (fun s a => ?_) _ _)

theorem State.startTakes_only (s : State) (l : List Nat) :
    OnlyChanges [.takes, .status] s (s.startTakes l) := by
  unfold State.startTakes
  repeat' first
    | with_reducible assumption | with_reducible exact OnlyChanges.refl _ _ | with_reducible apply OnlyChanges.andThen
    | decide | intro u hu | split | with_reducible apply OnlyChanges.next (c := State.setSlot_only _ _ _)
    | with_reducible refine OnlyChanges.trans ?_ (OnlyChanges.foldl (fun s a => ?_) _ _)

theorem State.setBuild_only (s : State) (b : Option BuildRecord) :
    OnlyChanges [.composer] s (s.setBuild b) := by
  unfold State.setBuild
  repeat' first
    | with_reducible assumption | with_reducible exact OnlyChanges.refl _ _ | with_reducible apply OnlyChanges.andThen
    | decide | intro u hu | split | with_reducible apply OnlyChanges.next (c := State.modComposer_only _ _)

theorem State.gatherAndBuild_only (s : State) (n : Word) :
    OnlyChanges [.takes, .composer, .rings, .status] s (s.gatherAndBuild n) := by
  unfold State.gatherAndBuild
  repeat' first
    | with_reducible assumption | with_reducible exact OnlyChanges.refl _ _ | with_reducible apply OnlyChanges.andThen
    | decide | intro u hu | split | with_reducible apply OnlyChanges.next (c := State.expireTakes_only _ _)
    | with_reducible apply OnlyChanges.next (c := State.startTakes_only _ _)
    | with_reducible apply OnlyChanges.next (c := State.modTakes_only _ _)
    | with_reducible apply OnlyChanges.next (c := State.setBuild_only _ _) | dsimp only

theorem State.planPoint_only (s : State) :
    OnlyChanges [.takes, .composer, .timing, .rings, .status] s (s.planPoint) := by
  unfold State.planPoint
  repeat' first
    | with_reducible assumption | with_reducible exact OnlyChanges.refl _ _ | with_reducible apply OnlyChanges.andThen
    | decide | intro u hu | split | with_reducible apply OnlyChanges.next (c := State.modTiming_only _ _)
    | with_reducible apply OnlyChanges.next (c := State.gatherAndBuild_only _ _)

theorem State.discardBuild_only (s : State) (frame : Option Word) :
    OnlyChanges [.takes, .composer, .rings, .status] s (s.discardBuild frame) := by
  unfold State.discardBuild
  repeat' first
    | with_reducible assumption | with_reducible exact OnlyChanges.refl _ _ | with_reducible apply OnlyChanges.andThen
    | decide | intro u hu | split | with_reducible apply OnlyChanges.next (c := State.returnTake_only _ _ _)
    | with_reducible apply OnlyChanges.next (c := State.setBuild_only _ _)
    | with_reducible refine OnlyChanges.trans ?_ (OnlyChanges.foldl (fun s a => ?_) _ _)

theorem State.restartBuild_only (s : State) :
    OnlyChanges [.composer] s (s.restartBuild) := by
  unfold State.restartBuild
  repeat' first
    | with_reducible assumption | with_reducible exact OnlyChanges.refl _ _ | with_reducible apply OnlyChanges.andThen
    | decide | intro u hu | split | with_reducible apply OnlyChanges.next (c := State.setBuild_only _ _)

theorem State.setMode_only (s : State) (m : Mode) :
    OnlyChanges [.modes] s (s.setMode m) := by
  unfold State.setMode
  repeat' first
    | with_reducible assumption | with_reducible exact OnlyChanges.refl _ _ | with_reducible apply OnlyChanges.andThen
    | decide | intro u hu | split | with_reducible apply OnlyChanges.next (c := State.modModes_only _ _)

theorem State.moveMode_only (s : State) (m : Mode) (t : Trigger) :
    OnlyChanges [.interrupt, .modes, .rings, .causes] s (s.moveMode m t) := by
  unfold State.moveMode
  repeat' first
    | with_reducible assumption | with_reducible exact OnlyChanges.refl _ _ | with_reducible apply OnlyChanges.andThen
    | decide | intro u hu | split | with_reducible apply OnlyChanges.next (c := State.setMode_only _ _)
    | with_reducible apply OnlyChanges.next (c := State.handEvent_only _ _)

theorem State.failRequest_only (s : State) :
    OnlyChanges [.interrupt, .causes] s (s.failRequest) := by
  unfold State.failRequest
  repeat' first
    | with_reducible assumption | with_reducible exact OnlyChanges.refl _ _ | with_reducible apply OnlyChanges.andThen
    | decide | intro u hu | split | with_reducible apply OnlyChanges.next (c := State.raise_only _ _)

theorem State.enterHold_only (s : State) (t : Trigger) :
    OnlyChanges [.interrupt, .modes, .rings, .causes] s (s.enterHold t) := by
  unfold State.enterHold
  repeat' first
    | with_reducible assumption | with_reducible exact OnlyChanges.refl _ _ | with_reducible apply OnlyChanges.andThen
    | decide | intro u hu | split | with_reducible apply OnlyChanges.next (c := State.moveMode_only _ _ _)
    | with_reducible apply OnlyChanges.next (c := State.raise_only _ _)
    | with_reducible apply OnlyChanges.next (c := State.startSupervision_only _)

theorem State.enterFallback_only (s : State) (t : Trigger) :
    OnlyChanges [.ram, .lastServed, .waiting, .blocks, .completion, .interrupt, .takes, .composer, .modes, .rings,
      .causes, .status] s (s.enterFallback t) := by
  unfold State.enterFallback
  repeat' first
    | with_reducible assumption | with_reducible exact OnlyChanges.refl _ _ | with_reducible apply OnlyChanges.andThen
    | decide | intro u hu | split | with_reducible apply OnlyChanges.next (c := State.abandonTakes_only _ _)
    | with_reducible apply OnlyChanges.next (c := State.setBuild_only _ _)
    | with_reducible apply OnlyChanges.next (c := State.stopSupervision_only _)
    | with_reducible apply OnlyChanges.next (c := State.raise_only _ _)
    | with_reducible apply OnlyChanges.next (c := State.moveMode_only _ _ _)
    | with_reducible apply OnlyChanges.next (c := State.modComposer_only _ _)
    | with_reducible apply OnlyChanges.next (c := State.journalDone_only _)

theorem State.quiesceDone_only (s : State) :
    OnlyChanges [.ram, .lastServed, .waiting, .blocks, .completion, .interrupt, .takes, .modes, .rings, .causes,
      .status] s (s.quiesceDone) := by
  unfold State.quiesceDone
  repeat' first
    | with_reducible assumption | with_reducible exact OnlyChanges.refl _ _ | with_reducible apply OnlyChanges.andThen
    | decide | intro u hu | split | with_reducible apply OnlyChanges.next (c := State.raise_only _ _)
    | with_reducible apply OnlyChanges.next (c := State.moveMode_only _ _ _)
    | with_reducible apply OnlyChanges.next (c := State.journalDone_only _)

theorem State.enterQuiescing_only (s : State) (t : Trigger) :
    OnlyChanges [.ram, .lastServed, .waiting, .blocks, .completion, .interrupt, .takes, .modes, .rings, .causes,
      .status] s (s.enterQuiescing t) := by
  unfold State.enterQuiescing
  repeat' first
    | with_reducible assumption | with_reducible exact OnlyChanges.refl _ _ | with_reducible apply OnlyChanges.andThen
    | decide | intro u hu | split | with_reducible apply OnlyChanges.next (c := State.cancelTakes_only _ _ _)
    | with_reducible apply OnlyChanges.next (c := State.stopSupervision_only _)
    | with_reducible apply OnlyChanges.next (c := State.moveMode_only _ _ _)
    | with_reducible apply OnlyChanges.next (c := State.quiesceDone_only _)

theorem State.dropPlans_only (s : State) :
    OnlyChanges [.ports] s (s.dropPlans) := by
  unfold State.dropPlans
  repeat' first
    | with_reducible assumption | with_reducible exact OnlyChanges.refl _ _ | with_reducible apply OnlyChanges.andThen
    | decide | intro u hu | split | with_reducible apply OnlyChanges.next (c := State.setPorts_only _ _)

theorem State.beginRewrites_only (s : State) :
    OnlyChanges [.status] s (s.beginRewrites) := by
  unfold State.beginRewrites
  repeat' first
    | with_reducible assumption | with_reducible exact OnlyChanges.refl _ _ | with_reducible apply OnlyChanges.andThen
    | decide | intro u hu | split
    | with_reducible apply OnlyChanges.next (c := State.modStatus_only _ _)

theorem State.clearLayoutForConfig_only (s : State) :
    OnlyChanges [.composer, .ports, .status] s (s.clearLayoutForConfig) := by
  unfold State.clearLayoutForConfig
  repeat' first
    | with_reducible assumption | with_reducible exact OnlyChanges.refl _ _ | with_reducible apply OnlyChanges.andThen
    | decide | intro u hu | split | with_reducible apply OnlyChanges.next (c := State.setComposer_only _ _)
    | with_reducible apply OnlyChanges.next (c := State.dropPlans_only _)
    | with_reducible apply OnlyChanges.next (c := State.beginRewrites_only _)

theorem State.endActivation_only (s : State) (t : Trigger) :
    OnlyChanges [.holdArea, .interrupt, .modes, .rings, .causes] s (s.endActivation t) := by
  unfold State.endActivation
  repeat' first
    | with_reducible assumption | with_reducible exact OnlyChanges.refl _ _ | with_reducible apply OnlyChanges.andThen
    | decide | intro u hu | split | with_reducible apply OnlyChanges.next (c := State.modModes_only _ _)
    | with_reducible apply OnlyChanges.next (c := State.modPort_holdArea _ _)
    | with_reducible apply OnlyChanges.next (c := State.modPort_line _ _)
    | with_reducible apply OnlyChanges.next (c := State.modPort_release _ _ _)
    | with_reducible apply OnlyChanges.next (c := State.modPort_completion _ _)
    | with_reducible apply OnlyChanges.next (c := State.modPort_waiting _ _)
    | with_reducible apply OnlyChanges.next (c := State.modPort_switches _ _ _)
    | with_reducible apply OnlyChanges.next (c := State.modPort_interrupt _ (fun p => _) (fun p => _))
    | with_reducible apply OnlyChanges.next (c := State.moveMode_only _ _ _)

theorem State.startActivation_only (s : State) :
    OnlyChanges [.holdArea, .interrupt, .modes, .rings, .causes] s (s.startActivation) := by
  unfold State.startActivation
  repeat' first
    | with_reducible assumption | with_reducible exact OnlyChanges.refl _ _ | with_reducible apply OnlyChanges.andThen
    | decide | intro u hu | split | with_reducible apply OnlyChanges.next (c := State.modModes_only _ _)
    | with_reducible apply OnlyChanges.next (c := State.modPort_holdArea _ _)
    | with_reducible apply OnlyChanges.next (c := State.modPort_line _ _)
    | with_reducible apply OnlyChanges.next (c := State.modPort_release _ _ _)
    | with_reducible apply OnlyChanges.next (c := State.modPort_completion _ _)
    | with_reducible apply OnlyChanges.next (c := State.modPort_waiting _ _)
    | with_reducible apply OnlyChanges.next (c := State.modPort_switches _ _ _)
    | with_reducible apply OnlyChanges.next (c := State.modPort_interrupt _ (fun p => _) (fun p => _))
    | with_reducible apply OnlyChanges.next (c := State.moveMode_only _ _ _)

theorem State.runRequest_only (s : State) :
    OnlyChanges [.holdArea, .interrupt, .composer, .modes, .rings, .causes] s (s.runRequest) := by
  unfold State.runRequest
  repeat' first
    | with_reducible assumption | with_reducible exact OnlyChanges.refl _ _ | with_reducible apply OnlyChanges.andThen
    | decide | intro u hu | split | with_reducible apply OnlyChanges.next (c := State.startActivation_only _)
    | with_reducible apply OnlyChanges.next (c := State.failRequest_only _)
    | with_reducible apply OnlyChanges.next (c := State.modComposer_only _ _)
    | with_reducible apply OnlyChanges.next (c := State.moveMode_only _ _ _)
    | with_reducible apply OnlyChanges.next (c := State.startSupervision_only _)

theorem State.holdRequest_only (s : State) :
    OnlyChanges [.interrupt, .takes, .composer, .modes, .rings, .causes, .status] s (s.holdRequest) := by
  unfold State.holdRequest
  repeat' first
    | with_reducible assumption | with_reducible exact OnlyChanges.refl _ _ | with_reducible apply OnlyChanges.andThen
    | decide | intro u hu | split | with_reducible apply OnlyChanges.next (c := State.discardBuild_only _ _)
    | with_reducible apply OnlyChanges.next (c := State.enterHold_only _ _)
    | with_reducible apply OnlyChanges.next (c := State.failRequest_only _)

theorem State.fallbackRequest_only (s : State) :
    OnlyChanges [.ram, .lastServed, .waiting, .blocks, .completion, .interrupt, .takes, .composer, .modes, .rings,
      .causes, .status] s (s.fallbackRequest) := by
  unfold State.fallbackRequest
  repeat' first
    | with_reducible assumption | with_reducible exact OnlyChanges.refl _ _ | with_reducible apply OnlyChanges.andThen
    | decide | intro u hu | split | with_reducible apply OnlyChanges.next (c := State.enterFallback_only _ _)
    | with_reducible apply OnlyChanges.next (c := State.failRequest_only _)

theorem State.quiesceRequest_only (s : State) :
    OnlyChanges [.ram, .lastServed, .waiting, .blocks, .completion, .interrupt, .takes, .modes, .rings, .causes,
      .status] s (s.quiesceRequest) := by
  unfold State.quiesceRequest
  repeat' first
    | with_reducible assumption | with_reducible exact OnlyChanges.refl _ _ | with_reducible apply OnlyChanges.andThen
    | decide | intro u hu | split | with_reducible apply OnlyChanges.next (c := State.enterQuiescing_only _ _)
    | with_reducible apply OnlyChanges.next (c := State.failRequest_only _)

theorem State.configRequest_only (s : State) :
    OnlyChanges [.ram, .lastServed, .holdArea, .waiting, .blocks, .completion, .interrupt, .takes, .composer, .ports,
      .modes, .rings, .causes, .status] s (s.configRequest) := by
  unfold State.configRequest
  repeat' first
    | with_reducible assumption | with_reducible exact OnlyChanges.refl _ _ | with_reducible apply OnlyChanges.andThen
    | decide | intro u hu | split | with_reducible apply OnlyChanges.next (c := State.endActivation_only _ _)
    | with_reducible apply OnlyChanges.next (c := State.failRequest_only _)
    | with_reducible apply OnlyChanges.next (c := State.enterQuiescing_only _ _)
    | with_reducible apply OnlyChanges.next (c := State.moveMode_only _ _ _)
    | with_reducible apply OnlyChanges.next (c := State.clearLayoutForConfig_only _)

theorem State.modectl_only (s : State) (serve permit intEnable : Bool) :
    OnlyChanges [.interrupt, .modes, .causes] s (s.modectl serve permit intEnable) := by
  unfold State.modectl
  repeat' first
    | with_reducible assumption | with_reducible exact OnlyChanges.refl _ _ | with_reducible apply OnlyChanges.andThen
    | decide | intro u hu | split | with_reducible apply OnlyChanges.next (c := State.modModes_only _ _)
    | with_reducible apply OnlyChanges.next (c := State.evaluate_only _)
    | with_reducible apply OnlyChanges.next (c := State.serve_only _)

theorem State.checksComplete_only (s : State) (image : ConfigImage) :
    OnlyChanges [.holdArea, .interrupt, .modes, .rings, .causes] s (s.checksComplete image) := by
  unfold State.checksComplete
  repeat' first
    | with_reducible assumption | with_reducible exact OnlyChanges.refl _ _ | with_reducible apply OnlyChanges.andThen
    | decide | intro u hu | split | with_reducible apply OnlyChanges.next (c := State.modModes_only _ _)
    | with_reducible apply OnlyChanges.next (c := State.raise_only _ _)
    | with_reducible apply OnlyChanges.next (c := State.endActivation_only _ _)
    | with_reducible apply OnlyChanges.next (c := State.modPort_holdArea _ _)

theorem State.beginOutputFrames_only (s : State) :
    OnlyChanges [.ports] s (s.beginOutputFrames) := by
  unfold State.beginOutputFrames
  repeat' first
    | with_reducible assumption | with_reducible exact OnlyChanges.refl _ _ | with_reducible apply OnlyChanges.andThen
    | decide | intro u hu | split | with_reducible apply OnlyChanges.next (c := State.setPorts_only _ _)

theorem State.takePlans_only (s : State) :
    OnlyChanges [.ports] s (s.takePlans) := by
  unfold State.takePlans
  repeat' first
    | with_reducible assumption | with_reducible exact OnlyChanges.refl _ _ | with_reducible apply OnlyChanges.andThen
    | decide | intro u hu | split | with_reducible apply OnlyChanges.next (c := State.setPorts_only _ _)

theorem State.handHeaders_only (s : State) (l : List HeaderWrite) :
    OnlyChanges [.status] s (s.handHeaders l) := by
  unfold State.handHeaders
  repeat' first
    | with_reducible assumption | with_reducible exact OnlyChanges.refl _ _ | with_reducible apply OnlyChanges.andThen
    | decide | intro u hu | split
    | with_reducible apply OnlyChanges.next (c := State.modStatus_only _ _)

theorem State.layoutReplaced_only (s : State) :
    OnlyChanges [.composer, .ports, .status] s (s.layoutReplaced) := by
  unfold State.layoutReplaced
  repeat' first
    | with_reducible assumption | with_reducible exact OnlyChanges.refl _ _ | with_reducible apply OnlyChanges.andThen
    | decide | intro u hu | split | with_reducible apply OnlyChanges.next (c := State.takePlans_only _)
    | with_reducible apply OnlyChanges.next (c := State.beginRewrites_only _)
    | with_reducible apply OnlyChanges.next (c := State.commitCheck_only _)
    | with_reducible apply OnlyChanges.next (c := State.handHeaders_only _ _)

theorem State.finishBuilt_only (s : State) (n : Word) (t : BuildTake) :
    OnlyChanges [.rings] s (s.finishBuilt n t) := by
  unfold State.finishBuilt
  repeat' first
    | with_reducible assumption | with_reducible exact OnlyChanges.refl _ _ | with_reducible apply OnlyChanges.andThen
    | decide | intro u hu | split | with_reducible apply OnlyChanges.next (c := State.finishTake_only _ _ _ _ _)

theorem State.commitBuild_only (s : State) (b : BuildRecord) (n : Word) :
    OnlyChanges [.interrupt, .composer, .ports, .rings, .causes, .status] s (s.commitBuild b n) := by
  unfold State.commitBuild
  repeat' first
    | with_reducible assumption | with_reducible exact OnlyChanges.refl _ _ | with_reducible apply OnlyChanges.andThen
    | decide | intro u hu | split | with_reducible apply OnlyChanges.next (c := State.setComposer_only _ _)
    | with_reducible apply OnlyChanges.next (c := State.finishBuilt_only _ _ _)
    | with_reducible apply OnlyChanges.next (c := State.handEvents_only _ _)
    | with_reducible apply OnlyChanges.next (c := State.layoutReplaced_only _)
    | with_reducible refine OnlyChanges.trans ?_ (OnlyChanges.foldl (fun s a => ?_) _ _)

theorem State.overrunBuild_only (s : State) (b : BuildRecord) (n : Word) :
    OnlyChanges [.interrupt, .takes, .composer, .modes, .rings, .causes, .status] s (s.overrunBuild b n) := by
  unfold State.overrunBuild
  repeat' first
    | with_reducible assumption | with_reducible exact OnlyChanges.refl _ _ | with_reducible apply OnlyChanges.andThen
    | decide | intro u hu | split | with_reducible apply OnlyChanges.next (c := State.cancelTakes_only _ _ _)
    | with_reducible apply OnlyChanges.next (c := State.setBuild_only _ _)
    | with_reducible apply OnlyChanges.next (c := State.discardBuild_only _ _)
    | with_reducible apply OnlyChanges.next (c := State.modComposer_only _ _)
    | with_reducible apply OnlyChanges.next (c := State.handEvent_only _ _)
    | with_reducible apply OnlyChanges.next (c := State.raise_only _ _)
    | with_reducible apply OnlyChanges.next (c := State.enterHold_only _ _)

theorem State.installPlan_only (s : State) (plan : List WindowRec) (n : Word) :
    OnlyChanges [.composer] s (s.installPlan plan n) := by
  unfold State.installPlan
  repeat' first
    | with_reducible assumption | with_reducible exact OnlyChanges.refl _ _ | with_reducible apply OnlyChanges.andThen
    | decide | intro u hu | split | with_reducible apply OnlyChanges.next (c := State.modComposer_only _ _)

theorem State.rewriteSections_only (s : State) :
    OnlyChanges [.status] s (s.rewriteSections) := by
  unfold State.rewriteSections
  repeat' first
    | with_reducible assumption | with_reducible exact OnlyChanges.refl _ _ | with_reducible apply OnlyChanges.andThen
    | decide | intro u hu | split
    | with_reducible apply OnlyChanges.next (c := State.setStatus_only _ _)

theorem State.fallbackCommit_only (s : State) (n : Word) :
    OnlyChanges [.composer, .ports, .status] s (s.fallbackCommit n) := by
  unfold State.fallbackCommit
  repeat' first
    | with_reducible assumption | with_reducible exact OnlyChanges.refl _ _ | with_reducible apply OnlyChanges.andThen
    | decide | intro u hu | split | with_reducible apply OnlyChanges.next (c := State.installPlan_only _ _ _)
    | with_reducible apply OnlyChanges.next (c := State.layoutReplaced_only _)

theorem State.timingChange_only (s : State) (old new : RefState) (amount : Nat) (realigned shortened activation : Bool) :
    OnlyChanges [.interrupt, .rings, .causes] s (s.timingChange old new amount realigned shortened activation) := by
  unfold State.timingChange
  repeat' first
    | with_reducible assumption | with_reducible exact OnlyChanges.refl _ _ | with_reducible apply OnlyChanges.andThen
    | decide | intro u hu | split | with_reducible apply OnlyChanges.next (c := State.handEvent_only _ _)
    | with_reducible apply OnlyChanges.next (c := State.raise_only _ _)

theorem State.applyRate_only (s : State) (rate : WallRate) (lead : Nat) :
    OnlyChanges [.interrupt, .timing, .rings, .causes] s (s.applyRate rate lead) := by
  unfold State.applyRate
  repeat' first
    | with_reducible assumption | with_reducible exact OnlyChanges.refl _ _ | with_reducible apply OnlyChanges.andThen
    | decide | intro u hu | split | with_reducible apply OnlyChanges.next (c := State.setTiming_only _ _)
    | with_reducible apply OnlyChanges.next (c := State.timingChange_only _ _ _ _ _ _ _) | dsimp only

theorem State.startLayout_only (s : State) (c : Captured) (plan : List WindowRec) (n : Word) :
    OnlyChanges [.composer, .ports, .status] s (s.startLayout c plan n) := by
  unfold State.startLayout
  repeat' first
    | with_reducible assumption | with_reducible exact OnlyChanges.refl _ _ | with_reducible apply OnlyChanges.andThen
    | decide | intro u hu | split | with_reducible apply OnlyChanges.next (c := State.installPlan_only _ _ _)
    | with_reducible apply OnlyChanges.next (c := State.layoutReplaced_only _)

theorem State.captureConfig_only (s : State) (c : Captured) (plan : List WindowRec) (n : Word) :
    OnlyChanges [.ram, .lastServed, .waiting, .blocks, .completion, .interrupt, .takes, .composer, .ports, .sources,
      .timing, .modes, .rings, .causes, .status] s (s.captureConfig c plan n) := by
  unfold State.captureConfig
  repeat' first
    | with_reducible assumption | with_reducible exact OnlyChanges.refl _ _ | with_reducible apply OnlyChanges.andThen
    | decide | intro u hu | split | with_reducible apply OnlyChanges.next (c := State.modModes_only _ _)
    | with_reducible apply OnlyChanges.next (c := State.modReport_rings _ _ rfl)
    | with_reducible apply OnlyChanges.next (c := State.modReport_causes _ _ rfl)
    | with_reducible apply OnlyChanges.next (c := State.modComposer_only _ _)
    | with_reducible apply OnlyChanges.next (c := State.setTakes_only _ _)
    | with_reducible apply OnlyChanges.next (c := State.applyRate_only _ _ _)
    | with_reducible apply OnlyChanges.next (c := State.setInternalRate_only _ _)
    | with_reducible apply OnlyChanges.next (c := State.rewriteSections_only _)
    | with_reducible apply OnlyChanges.next (c := State.startLayout_only _ _ _ _)
    | with_reducible apply OnlyChanges.next (c := State.raise_only _ _)
    | with_reducible apply OnlyChanges.next (c := State.moveMode_only _ _ _)
    | with_reducible apply OnlyChanges.next (c := State.startSupervision_only _)
    | with_reducible apply OnlyChanges.next (c := State.applyAllSettings_only _ _ _)
    | with_reducible apply OnlyChanges.next (c := State.ringsDone_only _)

theorem State.composerBoundary_only (s : State) (n : Word) :
    OnlyChanges [.ram, .lastServed, .waiting, .blocks, .completion, .interrupt, .takes, .composer, .ports, .sources,
      .timing, .modes, .rings, .causes, .status] s (s.composerBoundary n) := by
  unfold State.composerBoundary
  repeat' first
    | with_reducible assumption | with_reducible exact OnlyChanges.refl _ _ | with_reducible apply OnlyChanges.andThen
    | decide | intro u hu | split | with_reducible apply OnlyChanges.next (c := State.fallbackCommit_only _ _)
    | with_reducible apply OnlyChanges.next (c := State.captureConfig_only _ _ _ _)
    | with_reducible apply OnlyChanges.next (c := State.commitBuild_only _ _ _)
    | with_reducible apply OnlyChanges.next (c := State.overrunBuild_only _ _ _)

theorem State.writeFrame_only (s : State) :
    OnlyChanges [.status] s (s.writeFrame) := by
  unfold State.writeFrame
  repeat' first
    | with_reducible assumption | with_reducible exact OnlyChanges.refl _ _ | with_reducible apply OnlyChanges.andThen
    | decide | intro u hu | split
    | with_reducible apply OnlyChanges.next (c := State.handHeaders_only _ _)

theorem State.boundary_only (s : State) :
    OnlyChanges [.ram, .lastServed, .waiting, .blocks, .completion, .interrupt, .takes, .composer, .ports, .sources,
      .timing, .modes, .rings, .causes, .status] s (s.boundary) := by
  unfold State.boundary
  repeat' first
    | with_reducible assumption | with_reducible exact OnlyChanges.refl _ _ | with_reducible apply OnlyChanges.andThen
    | decide | intro u hu | split | with_reducible apply OnlyChanges.next (c := State.setTiming_only _ _)
    | with_reducible apply OnlyChanges.next (c := State.composerBoundary_only _ _)
    | with_reducible apply OnlyChanges.next (c := State.quiesceDone_only _)
    | with_reducible apply OnlyChanges.next (c := State.beginOutputFrames_only _)
    | with_reducible apply OnlyChanges.next (c := State.writeFrame_only _)

theorem State.realign_only (s : State) (old : RefState) (r : Time) (p : Nat) :
    OnlyChanges [.ram, .lastServed, .waiting, .blocks, .completion, .interrupt, .takes, .composer, .ports, .sources,
      .timing, .modes, .rings, .causes, .status] s (s.realign old r p) := by
  unfold State.realign
  repeat' first
    | with_reducible assumption | with_reducible exact OnlyChanges.refl _ _ | with_reducible apply OnlyChanges.andThen
    | decide | intro u hu | split | with_reducible apply OnlyChanges.next (c := State.setTiming_only _ _)
    | with_reducible apply OnlyChanges.next (c := State.timingChange_only _ _ _ _ _ _ _)
    | with_reducible apply OnlyChanges.next (c := State.planPoint_only _)
    | with_reducible apply OnlyChanges.next (c := State.boundary_only _) | dsimp only

theorem State.lockReference_only (s : State) (r : Time) :
    OnlyChanges [.ram, .lastServed, .waiting, .blocks, .completion, .interrupt, .takes, .composer, .ports, .sources,
      .timing, .modes, .rings, .causes, .status] s (s.lockReference r) := by
  unfold State.lockReference
  repeat' first
    | with_reducible assumption | with_reducible exact OnlyChanges.refl _ _ | with_reducible apply OnlyChanges.andThen
    | decide | intro u hu | split | with_reducible apply OnlyChanges.next (c := State.setTiming_only _ _)
    | with_reducible apply OnlyChanges.next (c := State.timingChange_only _ _ _ _ _ _ _)
    | with_reducible apply OnlyChanges.next (c := State.realign_only _ _ _ _)

theorem State.softReset_only (s : State) :
    OnlyChanges [.holdArea, .interrupt, .takes, .composer, .ports, .modes, .rings, .causes, .status] s (s.softReset) := by
  unfold State.softReset
  repeat' first
    | with_reducible assumption | with_reducible exact OnlyChanges.refl _ _ | with_reducible apply OnlyChanges.andThen
    | decide | intro u hu | split | with_reducible apply OnlyChanges.next (c := State.setModes_only _ _)
    | with_reducible apply OnlyChanges.next (c := State.modPort_holdArea _ _)
    | with_reducible apply OnlyChanges.next (c := State.modPort_line _ _)
    | with_reducible apply OnlyChanges.next (c := State.modPort_release _ _ _)
    | with_reducible apply OnlyChanges.next (c := State.modPort_completion _ _)
    | with_reducible apply OnlyChanges.next (c := State.modPort_waiting _ _)
    | with_reducible apply OnlyChanges.next (c := State.modPort_switches _ _ _)
    | with_reducible apply OnlyChanges.next (c := State.modPort_interrupt _ (fun p => _) (fun p => _))
    | with_reducible apply OnlyChanges.next (c := State.setTakes_only _ _)
    | with_reducible apply OnlyChanges.next (c := State.setComposer_only _ _)
    | with_reducible apply OnlyChanges.next (c := State.setReport_ring _ _ _)
    | with_reducible apply OnlyChanges.next (c := State.setReport_queue _ _ _)
    | with_reducible apply OnlyChanges.next (c := State.setReport_only _ _)
    | with_reducible apply OnlyChanges.next (c := State.setPorts_only _ _)
    | with_reducible apply OnlyChanges.next (c := State.rewriteSections_only _)

theorem State.linkReset_only (s : State) :
    OnlyChanges [.ram, .lastServed, .link, .waiting, .blocks, .completion, .interrupt, .takes, .composer, .modes, .rings,
      .causes, .status] s
      s.linkReset := by
  unfold State.linkReset
  repeat' first
    | with_reducible assumption | with_reducible exact OnlyChanges.refl _ _ | with_reducible apply OnlyChanges.andThen
    | decide | intro u hu | split
    | with_reducible apply OnlyChanges.next (c := State.completePosts_only _ _)
    | with_reducible apply OnlyChanges.next (c := State.setPort_linkReset _)
    | with_reducible apply OnlyChanges.next (c := State.modModes_only _ _)
    | with_reducible apply OnlyChanges.next (c := State.clearInterrupt_only _)
    | with_reducible apply OnlyChanges.next (c := State.abandonTakes_only _ _)
    | with_reducible apply OnlyChanges.next (c := State.restartBuild_only _)

theorem State.setSwitches_only (s : State) (p : PcieSwitches) :
    OnlyChanges [.link, .interrupt] s (s.setSwitches p) := by
  unfold State.setSwitches
  repeat' first
    | with_reducible assumption | with_reducible exact OnlyChanges.refl _ _ | with_reducible apply OnlyChanges.andThen
    | decide | intro u hu | split | with_reducible apply OnlyChanges.next (c := State.modPort_holdArea _ _)
    | with_reducible apply OnlyChanges.next (c := State.modPort_line _ _)
    | with_reducible apply OnlyChanges.next (c := State.modPort_release _ _ _)
    | with_reducible apply OnlyChanges.next (c := State.modPort_completion _ _)
    | with_reducible apply OnlyChanges.next (c := State.modPort_waiting _ _)
    | with_reducible apply OnlyChanges.next (c := State.modPort_switches _ _ _)

theorem State.takePost_only (s : State) (mask : BitVec 16) :
    OnlyChanges [.interrupt, .takes, .modes, .rings, .causes, .status] s (s.takePost mask) := by
  unfold State.takePost
  repeat' first
    | with_reducible assumption | with_reducible exact OnlyChanges.refl _ _ | with_reducible apply OnlyChanges.andThen
    | decide | intro u hu | split | with_reducible apply OnlyChanges.next (c := State.serve_only _)
    | with_reducible apply OnlyChanges.next (c := State.handlePosts_only _ _)

theorem State.takeCancel_only (s : State) (mask : BitVec 16) :
    OnlyChanges [.ram, .lastServed, .waiting, .blocks, .completion, .interrupt, .takes, .modes, .rings, .causes,
      .status] s (s.takeCancel mask) := by
  unfold State.takeCancel
  repeat' first
    | with_reducible assumption | with_reducible exact OnlyChanges.refl _ _ | with_reducible apply OnlyChanges.andThen
    | decide | intro u hu | split | with_reducible apply OnlyChanges.next (c := State.serve_only _)
    | with_reducible apply OnlyChanges.next (c := State.cancelSlots_only _ _)

theorem State.releaseRing_only (s : State) (i : RingId) (n : Nat) :
    OnlyChanges [.interrupt, .rings, .causes] s (s.releaseRing i n) := by
  unfold State.releaseRing
  repeat' first
    | with_reducible assumption | with_reducible exact OnlyChanges.refl _ _ | with_reducible apply OnlyChanges.andThen
    | decide | intro u hu | split | with_reducible apply OnlyChanges.next (c := State.setReport_ring _ _ _)
    | with_reducible apply OnlyChanges.next (c := State.setReport_queue _ _ _)
    | with_reducible apply OnlyChanges.next (c := State.setReport_only _ _)
    | with_reducible apply OnlyChanges.next (c := State.raiseIf_only _ _ _)

theorem State.takeRelease_only (s : State) (selector : BitVec 2) (count : BitVec 11) :
    OnlyChanges [.interrupt, .modes, .rings, .causes] s (s.takeRelease selector count) := by
  unfold State.takeRelease
  repeat' first
    | with_reducible assumption | with_reducible exact OnlyChanges.refl _ _ | with_reducible apply OnlyChanges.andThen
    | decide | intro u hu | split | with_reducible apply OnlyChanges.next (c := State.serve_only _)
    | with_reducible apply OnlyChanges.next (c := State.releaseRing_only _ _ _)
    | with_reducible apply OnlyChanges.next (c := State.raise_only _ _)

theorem State.takeCauseWrite_only (s : State) (v : Word) :
    OnlyChanges [.interrupt, .causes] s (s.takeCauseWrite v) := by
  unfold State.takeCauseWrite
  repeat' first
    | with_reducible assumption | with_reducible exact OnlyChanges.refl _ _ | with_reducible apply OnlyChanges.andThen
    | decide | intro u hu | split | with_reducible apply OnlyChanges.next (c := State.setCauses_only _ _)

theorem State.takeCauseenWrite_only (s : State) (v : Word) :
    OnlyChanges [.interrupt, .causes] s (s.takeCauseenWrite v) := by
  unfold State.takeCauseenWrite
  repeat' first
    | with_reducible assumption | with_reducible exact OnlyChanges.refl _ _ | with_reducible apply OnlyChanges.andThen
    | decide | intro u hu | split | with_reducible apply OnlyChanges.next (c := State.modReport_rings _ _ rfl)
    | with_reducible apply OnlyChanges.next (c := State.modReport_causes _ _ rfl)
    | with_reducible apply OnlyChanges.next (c := State.evaluate_only _)

theorem State.popCause_only (s : State) :
    OnlyChanges [.interrupt, .causes] s (s.popCause) := by
  unfold State.popCause
  repeat' first
    | with_reducible assumption | with_reducible exact OnlyChanges.refl _ _ | with_reducible apply OnlyChanges.andThen
    | decide | intro u hu | split | with_reducible apply OnlyChanges.next (c := State.setCauses_only _ _)

theorem State.takeRegisterRead_only (s : State) (offset length : Nat) :
    OnlyChanges [.completion, .interrupt, .causes] s (s.takeRegisterRead offset length) := by
  unfold State.takeRegisterRead
  repeat' first
    | with_reducible assumption | with_reducible exact OnlyChanges.refl _ _ | with_reducible apply OnlyChanges.andThen
    | decide | intro u hu | split | with_reducible apply OnlyChanges.next (c := State.complete_only _ _)
    | with_reducible apply OnlyChanges.next (c := State.popCause_only _)

theorem State.takeDiscardedWrite_only (s : State) (offset length : Nat) :
    OnlyChanges [.interrupt, .causes] s (s.takeDiscardedWrite offset length) := by
  unfold State.takeDiscardedWrite
  repeat' first
    | with_reducible assumption | with_reducible exact OnlyChanges.refl _ _ | with_reducible apply OnlyChanges.andThen
    | decide | intro u hu | split | with_reducible apply OnlyChanges.next (c := State.raiseIf_only _ _ _)

theorem State.takeSoftReset_only (s : State) (w : PermitWrite) :
    OnlyChanges [.holdArea, .interrupt, .takes, .composer, .ports, .modes, .rings, .causes, .status] s (s.takeSoftReset w) := by
  unfold State.takeSoftReset
  repeat' first
    | with_reducible assumption | with_reducible exact OnlyChanges.refl _ _ | with_reducible apply OnlyChanges.andThen
    | decide | intro u hu | split | with_reducible apply OnlyChanges.next (c := State.modectl_only _ _ _ _)
    | with_reducible apply OnlyChanges.next (c := State.softReset_only _)

theorem State.beforeRequest_only (s : State) (w : RequestWrite) :
    OnlyChanges [.interrupt, .modes, .causes] s (s.beforeRequest w) := by
  unfold State.beforeRequest
  repeat' first
    | with_reducible assumption | with_reducible exact OnlyChanges.refl _ _ | with_reducible apply OnlyChanges.andThen
    | decide | intro u hu | split | with_reducible apply OnlyChanges.next (c := State.modectl_only _ _ _ _)

theorem State.invalidRequest_only (s : State) :
    OnlyChanges [.interrupt, .causes] s (s.invalidRequest) := by
  unfold State.invalidRequest
  repeat' first
    | with_reducible assumption | with_reducible exact OnlyChanges.refl _ _ | with_reducible apply OnlyChanges.andThen
    | decide | intro u hu | split | with_reducible apply OnlyChanges.next (c := State.failRequest_only _)

/-! Driver accesses. -/

/-- The parts that a driver access can change. -/
def accessParts : List Part :=
  [.ram, .lastServed, .holdArea, .blocks, .completion, .interrupt, .takes, .composer, .ports, .modes, .rings, .causes, .status]

theorem takeAccess_only (i : Instr) (s : State) : OnlyChanges (.waiting :: accessParts) s (takeAccess i s) := by
  unfold takeAccess
  repeat' first
    | with_reducible exact OnlyChanges.refl _ _ | decide | split
    | with_reducible apply OnlyChanges.next (c := State.takeBar0Write_only _ _ _)
    | with_reducible apply OnlyChanges.next (c := State.takeBar0Read_only _ _ _)
    | with_reducible apply OnlyChanges.next (c := State.takeSoftReset_only _ _)
    | with_reducible apply OnlyChanges.next (c := State.beforeRequest_only _ _)
    | with_reducible apply OnlyChanges.next (c := State.runRequest_only _)
    | with_reducible apply OnlyChanges.next (c := State.holdRequest_only _)
    | with_reducible apply OnlyChanges.next (c := State.fallbackRequest_only _)
    | with_reducible apply OnlyChanges.next (c := State.quiesceRequest_only _)
    | with_reducible apply OnlyChanges.next (c := State.configRequest_only _)
    | with_reducible apply OnlyChanges.next (c := State.invalidRequest_only _)
    | with_reducible apply OnlyChanges.next (c := State.modectl_only _ _ _ _)
    | with_reducible apply OnlyChanges.next (c := State.takePost_only _ _)
    | with_reducible apply OnlyChanges.next (c := State.takeCancel_only _ _)
    | with_reducible apply OnlyChanges.next (c := State.serve_only _)
    | with_reducible apply OnlyChanges.next (c := State.takeRelease_only _ _ _)
    | with_reducible apply OnlyChanges.next (c := State.takeCauseWrite_only _ _)
    | with_reducible apply OnlyChanges.next (c := State.takeCauseenWrite_only _ _)
    | with_reducible apply OnlyChanges.next (c := State.takeRegisterRead_only _ _ _)
    | with_reducible apply OnlyChanges.next (c := State.setCauses_only _ _)
    | with_reducible apply OnlyChanges.next (c := State.takeDiscardedWrite_only _ _ _)

/-! The commit writer and the status writer. -/

theorem State.commitGrant_only (s : State) :
    OnlyChanges [.ram, .lastServed, .status] s (s.commitGrant) := by
  unfold State.commitGrant
  repeat' first
    | with_reducible assumption | with_reducible exact OnlyChanges.refl _ _ | with_reducible apply OnlyChanges.andThen
    | decide | intro u hu | split
    | with_reducible apply OnlyChanges.next (c := State.putBlock_only _ _ _)
    | with_reducible apply OnlyChanges.next (c := State.setLastServed_only _ _)
    | with_reducible apply OnlyChanges.next (c := State.modStatus_only _ _)

theorem State.commitDone_only (s : State) :
    OnlyChanges [.ram, .lastServed, .waiting, .blocks, .completion, .interrupt, .causes, .status] s (s.commitDone) := by
  unfold State.commitDone
  repeat' first
    | with_reducible assumption | with_reducible exact OnlyChanges.refl _ _ | with_reducible apply OnlyChanges.andThen
    | decide | intro u hu | split
    | with_reducible apply OnlyChanges.next (c := State.ctlWrites_only _ _)
    | with_reducible apply OnlyChanges.next (c := State.modStatus_only _ _)

theorem State.doStatusJob_only (s : State) (j : StatusJob) :
    OnlyChanges [.ram, .lastServed, .waiting, .blocks, .completion, .interrupt, .causes, .status] s (s.doStatusJob j) := by
  unfold State.doStatusJob
  repeat' first
    | with_reducible assumption | with_reducible exact OnlyChanges.refl _ _ | with_reducible apply OnlyChanges.andThen
    | decide | intro u hu | split
    | with_reducible apply OnlyChanges.next (c := State.ctlWrites_only _ _)
    | with_reducible apply OnlyChanges.next (c := State.modStatus_only _ _)

theorem State.writeSection_only (s : State) (n : Nat) :
    OnlyChanges [.ram, .lastServed, .waiting, .blocks, .completion, .interrupt, .causes, .status] s (s.writeSection n) := by
  unfold State.writeSection
  repeat' first
    | with_reducible assumption | with_reducible exact OnlyChanges.refl _ _ | with_reducible apply OnlyChanges.andThen
    | decide | intro u hu | split
    | with_reducible apply OnlyChanges.next (c := State.doStatusJob_only _ _)
    | with_reducible apply OnlyChanges.next (c := State.ctlWrite_only _ _ _)
    | with_reducible apply OnlyChanges.next (c := State.modStatus_only _ _)

theorem State.completeMirror_only (s : State) (m : Mirror) :
    OnlyChanges [.ram, .lastServed, .waiting, .blocks, .completion, .interrupt, .causes, .status] s (s.completeMirror m) := by
  unfold State.completeMirror
  repeat' first
    | with_reducible assumption | with_reducible exact OnlyChanges.refl _ _ | with_reducible apply OnlyChanges.andThen
    | decide | intro u hu | split
    | with_reducible apply OnlyChanges.next (c := State.doStatusJob_only _ _)
    | with_reducible apply OnlyChanges.next (c := State.ctlWrite_only _ _ _)
    | with_reducible apply OnlyChanges.next (c := State.modStatus_only _ _)

theorem State.publishSource_only (s : State) (m : SectionMap) (i : Nat) :
    OnlyChanges [.ram, .lastServed, .waiting, .blocks, .completion, .interrupt, .causes, .status] s (s.publishSource m i) := by
  unfold State.publishSource
  repeat' first
    | with_reducible assumption | with_reducible exact OnlyChanges.refl _ _ | with_reducible apply OnlyChanges.andThen
    | decide | intro u hu | split
    | with_reducible apply OnlyChanges.next (c := State.doStatusJob_only _ _)
    | with_reducible apply OnlyChanges.next (c := State.ctlWrite_only _ _ _)
    | with_reducible apply OnlyChanges.next (c := State.modStatus_only _ _)

theorem State.copySlotPart_only (s : State) (m : SectionMap) (p : SlotTablePart) :
    OnlyChanges [.ram, .lastServed, .waiting, .blocks, .completion, .interrupt, .causes, .status] s (s.copySlotPart m p) := by
  unfold State.copySlotPart
  repeat' first
    | with_reducible assumption | with_reducible exact OnlyChanges.refl _ _ | with_reducible apply OnlyChanges.andThen
    | decide | intro u hu | split
    | with_reducible apply OnlyChanges.next (c := State.ctlWrite_only _ _ _)
    | with_reducible apply OnlyChanges.next (c := State.modStatus_only _ _)

theorem State.statusGrant_only (s : State) :
    OnlyChanges [.ram, .lastServed, .status] s (s.statusGrant) := by
  unfold State.statusGrant
  repeat' first
    | with_reducible assumption | with_reducible exact OnlyChanges.refl _ _ | with_reducible apply OnlyChanges.andThen
    | decide | intro u hu | split
    | with_reducible apply OnlyChanges.next (c := State.putBlock_only _ _ _)
    | with_reducible apply OnlyChanges.next (c := State.setLastServed_only _ _)
    | with_reducible apply OnlyChanges.next (c := State.modStatus_only _ _)

theorem State.checkEntry_only (s : State) (b : BuildRecord) :
    OnlyChanges [.composer] s (s.checkEntry b) := by
  unfold State.checkEntry
  repeat' first
    | with_reducible assumption | with_reducible exact OnlyChanges.refl _ _ | with_reducible apply OnlyChanges.andThen
    | decide | intro u hu | split
    | with_reducible apply OnlyChanges.next (c := State.setBuild_only _ _)

theorem State.readerGrant_only (s : State) :
    OnlyChanges [.lastServed, .composer] s (s.readerGrant) := by
  unfold State.readerGrant
  repeat' first
    | with_reducible assumption | with_reducible exact OnlyChanges.refl _ _ | with_reducible apply OnlyChanges.andThen
    | decide | intro u hu | split
    | with_reducible apply OnlyChanges.next (c := State.checkEntry_only _ _)
    | with_reducible apply OnlyChanges.next (c := State.setLastServed_only _ _)

theorem State.grantTo_only (s : State) (m : Master) :
    OnlyChanges [.ram, .lastServed, .composer, .rings, .status] s (s.grantTo m) := by
  unfold State.grantTo
  repeat' first
    | with_reducible assumption | with_reducible exact OnlyChanges.refl _ _ | with_reducible apply OnlyChanges.andThen
    | decide | intro u hu | split
    | with_reducible apply OnlyChanges.next (c := State.ringGrant_only _)
    | with_reducible apply OnlyChanges.next (c := State.commitGrant_only _)
    | with_reducible apply OnlyChanges.next (c := State.readerGrant_only _)
    | with_reducible apply OnlyChanges.next (c := State.statusGrant_only _)

/-! The port's queue. -/

theorem drain_only (l : List Instr) (s : State) : OnlyChanges (.waiting :: accessParts) s (drain l s) := by
  induction l generalizing s with
  | nil => exact (s.setWaiting_only []).mono (by decide)
  | cons i r ih =>
    unfold drain
    split
    · exact (s.setWaiting_only _).mono (by decide)
    · split
      · exact (((s.setWaiting_only []).mono (by decide)).trans (takeAccess_only i _)).trans (ih _)
      · exact (s.setWaiting_only _).mono (by decide)
      · exact ((servePart_only _ s).mono (by decide)).next (State.setWaiting_only _ _) (by decide)

theorem State.arrive_only (s : State) (i : Instr) : OnlyChanges (.waiting :: accessParts) s (s.arrive i) := by
  unfold State.arrive
  split
  · exact drain_only _ s
  · exact OnlyChanges.refl _ s

theorem State.resume_only (s : State) : OnlyChanges (.waiting :: accessParts) s s.resume := drain_only _ s

theorem State.tick_only (s : State) : OnlyChanges (.now :: .waiting :: accessParts) s s.tick := by
  have h := (s.setNow_only (s.now + 1)).mono (k := .now :: .waiting :: accessParts) (by decide)
  unfold State.tick
  split
  · exact (h.next (State.grantTo_only _ _) (by decide)).trans ((State.resume_only _).mono (by decide))
  · exact h.trans ((State.resume_only _).mono (by decide))

/-! The build's checks. -/

theorem State.checkBuildTake_only (s : State) (b : BuildRecord) :
    OnlyChanges [.ram, .lastServed, .waiting, .blocks, .completion, .interrupt, .takes, .composer,
      .causes] s (s.checkBuildTake b) := by
  unfold State.checkBuildTake
  repeat' first
    | with_reducible assumption | with_reducible exact OnlyChanges.refl _ _ | with_reducible apply OnlyChanges.andThen
    | decide | intro u hu | split
    | with_reducible apply OnlyChanges.next (c := State.setBuild_only _ _)
    | with_reducible apply OnlyChanges.next (c := State.ctlRead_only _)
    | with_reducible apply OnlyChanges.next (c := State.modTakes_only _ _)

end Sys2Proof.Machine
end

