-- ==== Sys2Proof/Laws/Port.lean ====
section
/-! SUPPORT. What the exchange port does with a driver access that it can take at once, that has to wait for another reason or
for a grant, or that it does not claim. -/

namespace Sys2Proof.Machine

/-! No access waits. -/

/-- With no access waiting in `s`, none waits in `t`. -/
def KeepsQuiet (s t : State) : Prop := s.port.waiting = [] → t.port.waiting = []

theorem KeepsQuiet.refl (s : State) : KeepsQuiet s s := id

theorem KeepsQuiet.next {s t u : State} (h : KeepsQuiet s t) (k : KeepsQuiet t u) : KeepsQuiet s u := k ∘ h

theorem KeepsQuiet.of_frame {l : List Part} {s t : State} (h : OnlyChanges l s t) (hp : Part.waiting ∉ l := by decide) :
    KeepsQuiet s t := fun hs => (h.waiting_eq hp).trans hs

theorem KeepsQuiet.andThen {s t : State} {f : State → State} (h : KeepsQuiet s t)
    (k : ∀ u, KeepsQuiet s u → KeepsQuiet s (f u)) : KeepsQuiet s (t.andThen f) := k t h

theorem KeepsQuiet.foldl {α : Type} {f : State → α → State} (hf : ∀ s a, KeepsQuiet s (f s a)) (l : List α) (s : State) :
    KeepsQuiet s (l.foldl f s) := by
  induction l generalizing s with
  | nil => exact KeepsQuiet.refl s
  | cons a l ih => exact (hf s a).next (ih _)

theorem State.portTurn_keeps (s : State) : KeepsQuiet s s.portTurn := by
  intro h
  have ha : s.portAsks = false := by simp [State.portAsks, h]
  simpa [State.portTurn, ha] using h

theorem State.ctlWrite_keeps (s : State) (a : Nat) (bs : List Byte) : KeepsQuiet s (s.ctlWrite a bs) :=
  s.portTurn_keeps.next (KeepsQuiet.of_frame (State.putBlock_only _ _ _))

theorem State.ctlWrites_keeps (s : State) (l : Blocks) : KeepsQuiet s (s.ctlWrites l) :=
  KeepsQuiet.foldl (fun s _ => s.ctlWrite_keeps _ _) l s

theorem State.doRingJob_keeps (s : State) (j : RingJob) : KeepsQuiet s (s.doRingJob j) := by
  unfold State.doRingJob
  repeat' first
    | with_reducible assumption | with_reducible exact KeepsQuiet.refl _
    | with_reducible apply KeepsQuiet.andThen | intro u hu | split
    | with_reducible apply KeepsQuiet.next (k := KeepsQuiet.of_frame (State.setRingJob_only _ _))
    | with_reducible apply KeepsQuiet.next (k := State.ctlWrites_keeps _ _)
    | with_reducible apply KeepsQuiet.next (k := State.portTurn_keeps _)

theorem State.writeRingHeader_keeps (s : State) (i : RingId) : KeepsQuiet s (s.writeRingHeader i) := by
  unfold State.writeRingHeader
  repeat' first
    | with_reducible assumption | with_reducible exact KeepsQuiet.refl _
    | with_reducible apply KeepsQuiet.andThen | intro u hu | split
    | with_reducible apply KeepsQuiet.next (k := State.ctlWrite_keeps _ _ _)

theorem State.flushRing_keeps (s : State) (i : RingId) : KeepsQuiet s (s.flushRing i) := by
  unfold State.flushRing
  repeat' first
    | with_reducible assumption | with_reducible exact KeepsQuiet.refl _
    | with_reducible apply KeepsQuiet.andThen | intro u hu | split
    | with_reducible apply KeepsQuiet.next (k := State.writeRingHeader_keeps _ _)
    | with_reducible apply KeepsQuiet.next (k := KeepsQuiet.of_frame (State.setReport_ring _ _ _))
    | with_reducible apply KeepsQuiet.next (k := State.doRingJob_keeps _ _)

theorem State.countEntry_keeps (s : State) (i : RingId) : KeepsQuiet s (s.countEntry i) := by
  unfold State.countEntry
  repeat' first
    | with_reducible assumption | with_reducible exact KeepsQuiet.refl _
    | with_reducible apply KeepsQuiet.andThen | intro u hu | split
    | with_reducible apply KeepsQuiet.next (k := KeepsQuiet.of_frame (State.raiseIf_only _ _ _))
    | with_reducible apply KeepsQuiet.next (k := State.writeRingHeader_keeps _ _)
    | with_reducible apply KeepsQuiet.next (k := KeepsQuiet.of_frame (State.setReport_ring _ _ _))

theorem State.writeJournalEntry_keeps (s : State) : KeepsQuiet s (s.writeJournalEntry) := by
  unfold State.writeJournalEntry
  repeat' first
    | with_reducible assumption | with_reducible exact KeepsQuiet.refl _
    | with_reducible apply KeepsQuiet.andThen | intro u hu | split
    | with_reducible apply KeepsQuiet.next (k := KeepsQuiet.of_frame (State.endTake_only _ _))
    | with_reducible apply KeepsQuiet.next (k := State.countEntry_keeps _ _)
    | with_reducible apply KeepsQuiet.next (k := KeepsQuiet.of_frame (State.modReport_rings _ _ rfl))
    | with_reducible apply KeepsQuiet.next (k := State.doRingJob_keeps _ _)
    | with_reducible apply KeepsQuiet.next (k := State.flushRing_keeps _ _)

theorem State.writeEvent_keeps (s : State) (i : RingId) : KeepsQuiet s (s.writeEvent i) := by
  unfold State.writeEvent
  repeat' first
    | with_reducible assumption | with_reducible exact KeepsQuiet.refl _
    | with_reducible apply KeepsQuiet.andThen | intro u hu | split
    | with_reducible apply KeepsQuiet.next (k := KeepsQuiet.of_frame (State.loseWaiting_only _ _))
    | with_reducible apply KeepsQuiet.next (k := State.countEntry_keeps _ _)
    | with_reducible apply KeepsQuiet.next (k := KeepsQuiet.of_frame (State.setReport_queue _ _ _))
    | with_reducible apply KeepsQuiet.next (k := State.doRingJob_keeps _ _)
    | with_reducible apply KeepsQuiet.next (k := State.flushRing_keeps _ _)

theorem State.writeEntry_keeps (s : State) (i : RingId) : KeepsQuiet s (s.writeEntry i) := by
  unfold State.writeEntry
  repeat' first
    | with_reducible assumption | with_reducible exact KeepsQuiet.refl _
    | with_reducible apply KeepsQuiet.andThen | intro u hu | split
    | with_reducible apply KeepsQuiet.next (k := State.writeJournalEntry_keeps _)
    | with_reducible apply KeepsQuiet.next (k := State.writeEvent_keeps _ _)

theorem State.writeEntries_keeps (s : State) (i : RingId) (n : Nat) : KeepsQuiet s (s.writeEntries i n) := by
  induction n generalizing s with
  | zero => exact KeepsQuiet.refl s
  | succ n ih => exact (s.writeEntry_keeps i).next (ih _)

theorem State.journalDone_keeps (s : State) : KeepsQuiet s s.journalDone := s.writeEntries_keeps _ _

theorem State.cancelSlot_keeps (s : State) (i : Nat) : KeepsQuiet s (s.cancelSlot i) := by
  unfold State.cancelSlot
  repeat' first
    | with_reducible assumption | with_reducible exact KeepsQuiet.refl _
    | with_reducible apply KeepsQuiet.andThen | intro u hu | split
    | with_reducible apply KeepsQuiet.next (k := State.journalDone_keeps _)
    | with_reducible apply KeepsQuiet.next (k := KeepsQuiet.of_frame (State.finishTake_only _ _ _ _ _))
    | with_reducible apply KeepsQuiet.next (k := KeepsQuiet.of_frame (State.recordRefusal_only _ _ _))
    | with_reducible apply KeepsQuiet.next (k := KeepsQuiet.of_frame (State.setSlot_only _ _ _))
    | with_reducible apply KeepsQuiet.next (k := KeepsQuiet.of_frame (State.refuse_only _ _ _))

theorem State.cancelSlots_keeps (s : State) (l : List Nat) : KeepsQuiet s (s.cancelSlots l) :=
  KeepsQuiet.foldl (fun s i => s.cancelSlot_keeps i) l s

theorem State.enterFallback_keeps (s : State) (t : Trigger) : KeepsQuiet s (s.enterFallback t) := by
  unfold State.enterFallback
  repeat' first
    | with_reducible assumption | with_reducible exact KeepsQuiet.refl _
    | with_reducible apply KeepsQuiet.andThen | intro u hu | split
    | with_reducible apply KeepsQuiet.next (k := KeepsQuiet.of_frame (State.modComposer_only _ _))
    | with_reducible apply KeepsQuiet.next (k := KeepsQuiet.of_frame (State.moveMode_only _ _ _))
    | with_reducible apply KeepsQuiet.next (k := KeepsQuiet.of_frame (State.raise_only _ _))
    | with_reducible apply KeepsQuiet.next (k := KeepsQuiet.of_frame (State.stopSupervision_only _))
    | with_reducible apply KeepsQuiet.next (k := State.journalDone_keeps _)
    | with_reducible apply KeepsQuiet.next (k := KeepsQuiet.of_frame (State.abandonTakes_only _ _))
    | with_reducible apply KeepsQuiet.next (k := KeepsQuiet.of_frame (State.setBuild_only _ _))

theorem State.quiesceDone_keeps (s : State) : KeepsQuiet s (s.quiesceDone) := by
  unfold State.quiesceDone
  repeat' first
    | with_reducible assumption | with_reducible exact KeepsQuiet.refl _
    | with_reducible apply KeepsQuiet.andThen | intro u hu | split
    | with_reducible apply KeepsQuiet.next (k := KeepsQuiet.of_frame (State.moveMode_only _ _ _))
    | with_reducible apply KeepsQuiet.next (k := KeepsQuiet.of_frame (State.raise_only _ _))
    | with_reducible apply KeepsQuiet.next (k := State.journalDone_keeps _)

theorem State.enterQuiescing_keeps (s : State) (t : Trigger) : KeepsQuiet s (s.enterQuiescing t) := by
  unfold State.enterQuiescing
  repeat' first
    | with_reducible assumption | with_reducible exact KeepsQuiet.refl _
    | with_reducible apply KeepsQuiet.andThen | intro u hu | split
    | with_reducible apply KeepsQuiet.next (k := State.quiesceDone_keeps _)
    | with_reducible apply KeepsQuiet.next (k := KeepsQuiet.of_frame (State.moveMode_only _ _ _))
    | with_reducible apply KeepsQuiet.next (k := KeepsQuiet.of_frame (State.stopSupervision_only _))
    | with_reducible apply KeepsQuiet.next (k := KeepsQuiet.of_frame (State.cancelTakes_only _ _ _))

theorem State.takeCancel_keeps (s : State) (mask : BitVec 16) : KeepsQuiet s (s.takeCancel mask) := by
  unfold State.takeCancel
  repeat' first
    | with_reducible assumption | with_reducible exact KeepsQuiet.refl _
    | with_reducible apply KeepsQuiet.andThen | intro u hu | split
    | with_reducible apply KeepsQuiet.next (k := State.cancelSlots_keeps _ _)
    | with_reducible apply KeepsQuiet.next (k := KeepsQuiet.of_frame (State.serve_only _))

theorem State.fallbackRequest_keeps (s : State) : KeepsQuiet s (s.fallbackRequest) := by
  unfold State.fallbackRequest
  repeat' first
    | with_reducible assumption | with_reducible exact KeepsQuiet.refl _
    | with_reducible apply KeepsQuiet.andThen | intro u hu | split
    | with_reducible apply KeepsQuiet.next (k := State.enterFallback_keeps _ _)
    | with_reducible apply KeepsQuiet.next (k := KeepsQuiet.of_frame (State.failRequest_only _))

theorem State.quiesceRequest_keeps (s : State) : KeepsQuiet s (s.quiesceRequest) := by
  unfold State.quiesceRequest
  repeat' first
    | with_reducible assumption | with_reducible exact KeepsQuiet.refl _
    | with_reducible apply KeepsQuiet.andThen | intro u hu | split
    | with_reducible apply KeepsQuiet.next (k := State.enterQuiescing_keeps _ _)
    | with_reducible apply KeepsQuiet.next (k := KeepsQuiet.of_frame (State.failRequest_only _))

theorem State.configRequest_keeps (s : State) : KeepsQuiet s (s.configRequest) := by
  unfold State.configRequest
  repeat' first
    | with_reducible assumption | with_reducible exact KeepsQuiet.refl _
    | with_reducible apply KeepsQuiet.andThen | intro u hu | split
    | with_reducible apply KeepsQuiet.next (k := State.enterQuiescing_keeps _ _)
    | with_reducible apply KeepsQuiet.next (k := KeepsQuiet.of_frame (State.failRequest_only _))
    | with_reducible apply KeepsQuiet.next (k := KeepsQuiet.of_frame (State.endActivation_only _ _))
    | with_reducible apply KeepsQuiet.next (k := KeepsQuiet.of_frame (State.moveMode_only _ _ _))
    | with_reducible apply KeepsQuiet.next (k := KeepsQuiet.of_frame (State.clearLayoutForConfig_only _))

/-- Taking an access makes none wait. -/
theorem takeAccess_keeps (i : Instr) (s : State) : KeepsQuiet s (takeAccess i s) := by
  unfold takeAccess
  repeat' first
    | with_reducible assumption | with_reducible exact KeepsQuiet.refl _
    | with_reducible apply KeepsQuiet.andThen | intro u hu | split
    | with_reducible apply KeepsQuiet.next (k := KeepsQuiet.of_frame (State.takeBar0Write_only _ _ _))
    | with_reducible apply KeepsQuiet.next (k := KeepsQuiet.of_frame (State.takeBar0Read_only _ _ _))
    | with_reducible apply KeepsQuiet.next (k := KeepsQuiet.of_frame (State.takeSoftReset_only _ _))
    | with_reducible apply KeepsQuiet.next (k := KeepsQuiet.of_frame (State.beforeRequest_only _ _))
    | with_reducible apply KeepsQuiet.next (k := KeepsQuiet.of_frame (State.invalidRequest_only _))
    | with_reducible apply KeepsQuiet.next (k := KeepsQuiet.of_frame (State.modectl_only _ _ _ _))
    | with_reducible apply KeepsQuiet.next (k := KeepsQuiet.of_frame (State.takePost_only _ _))
    | with_reducible apply KeepsQuiet.next (k := KeepsQuiet.of_frame (State.serve_only _))
    | with_reducible apply KeepsQuiet.next (k := KeepsQuiet.of_frame (State.takeRelease_only _ _ _))
    | with_reducible apply KeepsQuiet.next (k := KeepsQuiet.of_frame (State.takeCauseWrite_only _ _))
    | with_reducible apply KeepsQuiet.next (k := KeepsQuiet.of_frame (State.takeCauseenWrite_only _ _))
    | with_reducible apply KeepsQuiet.next (k := KeepsQuiet.of_frame (State.takeRegisterRead_only _ _ _))
    | with_reducible apply KeepsQuiet.next (k := KeepsQuiet.of_frame (State.setCauses_only _ _))
    | with_reducible apply KeepsQuiet.next (k := KeepsQuiet.of_frame (State.takeDiscardedWrite_only _ _ _))
    | with_reducible apply KeepsQuiet.next (k := State.fallbackRequest_keeps _)
    | with_reducible apply KeepsQuiet.next (k := State.quiesceRequest_keeps _)
    | with_reducible apply KeepsQuiet.next (k := State.configRequest_keeps _)
    | with_reducible apply KeepsQuiet.next (k := KeepsQuiet.of_frame (State.runRequest_only _))
    | with_reducible apply KeepsQuiet.next (k := KeepsQuiet.of_frame (State.holdRequest_only _))
    | with_reducible apply KeepsQuiet.next (k := State.takeCancel_keeps _ _)

/-! Accesses as they arrive (R177, R184). -/

theorem State.setWaiting_self (s : State) (h : s.port.waiting = []) : s.setWaiting [] = s := by
  cases s with
  | mk _ _ _ _ _ port => cases port; simp_all [State.setWaiting, State.modPort, State.setPort]

/-- With nothing waiting there is nothing to go on with. -/
theorem drain_idle {s : State} (h : s.port.waiting = []) : drain s.port.waiting s = s := by
  rw [h]; exact s.setWaiting_self h

/-- An access that the port takes whole as it arrives is taken by its block. -/
theorem State.arrive_eq {s : State} {i : Instr} (h : s.accepts i) (hs : s.serving i = .whole) :
    s.arrive i = takeAccess i s := by
  have hw : (takeAccess i s).port.waiting = [] := takeAccess_keeps i s h.2.1
  unfold State.arrive
  rw [if_pos h.1]
  simp [h.2.1, drain, h.2.2, hs, State.setWaiting_self, hw]

/-- An access of which one block is served waits with the rest of it (R184). -/
theorem State.arrive_part {s : State} {i first rest : Instr} (h : s.accepts i) (hs : s.serving i = .part first rest) :
    s.arrive i = (servePart first s).setWaiting [rest] := by
  unfold State.arrive
  rw [if_pos h.1]
  simp [h.2.1, drain, h.2.2, hs]

/-- An access that is not to be granted before the controller side waits whole (R184). -/
theorem State.arrive_waits {s : State} {i : Instr} (h : s.accepts i) (hs : s.serving i = .waits) :
    s.arrive i = s.setWaiting [i] := by
  unfold State.arrive
  rw [if_pos h.1]
  simp [h.2.1, drain, h.2.2, hs]

/-- An access that the port does not claim changes nothing. -/
theorem State.arrive_unclaimed {s : State} {i : Instr} (h : s.claims = false) : s.arrive i = s := by
  simp [State.arrive, h]

/-- An access behind one that has to wait, or that has to wait itself, joins the queue. -/
theorem State.arrive_blocked {s : State} {i : Instr} (hc : s.claims = true)
    (hb : ∀ j ∈ (s.port.waiting ++ [i]).head?, s.blocked j = true) : s.arrive i = s.setWaiting (s.port.waiting ++ [i]) := by
  unfold State.arrive
  rw [if_pos hc]
  cases hq : s.port.waiting with
  | nil => simp [drain, hb i (by simp [hq])]
  | cons j r => simp [drain, hb j (by simp [hq])]

/-- With no access waiting there is nothing to go on with. -/
theorem State.resume_idle {s : State} (h : s.port.waiting = []) : s.resume = s := drain_idle h

end Sys2Proof.Machine
end

