-- ==== Sys2Proof/Laws/Arbiter.lean ====
section
/-! SUPPORT. What the ring writer's work leaves behind, which master receives a grant, and how an access to BAR0 is served. -/

namespace Sys2Proof.Machine

/-! Which bytes of a driver write go with one grant (R182, R184). -/

theorem State.grantless_iff (s : State) (offset n : Nat) :
    s.grantless offset n = true ↔ ∀ a, offset ≤ a → a < offset + n → s.controllerOwns a = true := by
  simp only [State.grantless, List.all_eq_true, List.mem_range]
  constructor
  · intro h a h1 h2
    have := h (a - offset) (by omega)
    rwa [Nat.add_sub_cancel' h1] at this
  · intro h i hi
    exact h _ (Nat.le_add_right _ _) (by omega)

theorem State.not_grantless_iff (s : State) (offset n : Nat) :
    s.grantless offset n = false ↔ ∃ a, offset ≤ a ∧ a < offset + n ∧ s.controllerOwns a = false := by
  rw [← Bool.not_eq_true, s.grantless_iff]
  simp

/-- What goes with one grant depends on the ownership of the bytes alone. -/
theorem State.firstGrant_congr {s t : State} (h : t.controllerOwns = s.controllerOwns) : t.firstGrant = s.firstGrant := by
  have hg : t.grantless = s.grantless := by funext o n; unfold State.grantless; rw [h]
  have hl : t.grantlessLength = s.grantlessLength := by
    funext f
    induction f with
    | zero => rfl
    | succ f ih => funext o n; simp only [State.grantlessLength, hg, ih]
  have hs : t.grantSpan = s.grantSpan := by funext o n; unfold State.grantSpan; rw [hl]
  funext i
  cases i <;> simp only [State.firstGrant, hs]

/-- The leading blocks without a grant: whole blocks, all controller-owned, up to a block that is not. -/
theorem State.grantlessLength_spec (s : State) (fuel offset n : Nat) (h : n ≤ fuel) :
    let k := s.grantlessLength fuel offset n
    k ≤ n ∧ (k = 0 ∨ k = n ∨ (offset + k) % 64 = 0) ∧ s.grantless offset k = true ∧
    (k < n → s.grantless (offset + k) (blockLength (offset + k) (n - k)) = false) := by
  induction fuel generalizing offset n with
  | zero => exact ⟨Nat.zero_le _, .inl rfl, rfl, fun hk => by simp [State.grantlessLength] at hk; omega⟩
  | succ fuel ih =>
    simp only [State.grantlessLength]
    split
    · rename_i hc
      have hk : 0 < blockLength offset n ∧ blockLength offset n ≤ n ∧
          (blockLength offset n = n ∨ (offset + blockLength offset n) % 64 = 0) := by
        unfold blockLength; omega
      obtain ⟨h1, h2, h3, h4⟩ := ih (offset + blockLength offset n) (n - blockLength offset n) (by omega)
      generalize blockLength offset n = b at *
      generalize s.grantlessLength fuel (offset + b) (n - b) = m at *
      refine ⟨by omega, by omega, ?_, fun hlt => ?_⟩
      · rw [s.grantless_iff] at h3 hc ⊢
        intro a ha1 ha2
        by_cases hb : a < offset + b
        · exact hc.2 a ha1 hb
        · exact h3 a (by omega) (by omega)
      · rw [← Nat.add_assoc, ← Nat.sub_sub]
        exact h4 (by omega)
    · rename_i hc
      refine ⟨Nat.zero_le _, .inl rfl, rfl, fun hlt => ?_⟩
      have hn : n ≠ 0 := by omega
      simpa [hn] using hc

/-- What a driver write has done by its next grant. -/
theorem State.grantSpan_spec (s : State) (offset n : Nat) : OneGrant s offset n (s.grantSpan offset n) := by
  unfold State.grantSpan
  obtain ⟨b1, b2, b3, b4⟩ := s.grantlessLength_spec n offset n (Nat.le_refl _)
  generalize s.grantlessLength n offset n = b at *
  have hk : blockLength (offset + b) (n - b) ≤ n - b ∧ (b < n → 0 < blockLength (offset + b) (n - b)) ∧
      (b + blockLength (offset + b) (n - b) = n ∨ (offset + b + blockLength (offset + b) (n - b)) % 64 = 0) ∧
      ∀ x, offset + b ≤ x → x < offset + b + blockLength (offset + b) (n - b) → x / 64 = (offset + b) / 64 := by
    unfold blockLength; refine ⟨by omega, by omega, by omega, fun x _ _ => by omega⟩
  simp only []
  generalize blockLength (offset + b) (n - b) = k at *
  obtain ⟨k1, k2, k3, k4⟩ := hk
  obtain ⟨c1, c2, c3, c4⟩ := s.grantlessLength_spec (n - (b + k)) (offset + (b + k)) (n - (b + k)) (Nat.le_refl _)
  generalize s.grantlessLength (n - (b + k)) (offset + (b + k)) (n - (b + k)) = c at *
  have hin : ∀ a, offset ≤ a → a < offset + (b + k + c) → s.controllerOwns a = false →
      offset + b ≤ a ∧ a < offset + b + k := by
    intro a h1 h2 h3
    refine ⟨Nat.le_of_not_lt fun hlt => ?_, Nat.lt_of_not_le fun hle => ?_⟩
    · rw [(s.grantless_iff _ _).mp b3 a h1 hlt] at h3; cases h3
    · rw [(s.grantless_iff _ _).mp c3 a (by omega) (by omega)] at h3; cases h3
  refine ⟨by omega, by omega, fun x y hx1 hx2 hx3 hy1 hy2 hy3 => ?_, fun ⟨a, h1, h2, h3⟩ => ?_, fun hlt => ?_⟩
  · rw [k4 x (hin x hx1 hx2 hx3).1 (hin x hx1 hx2 hx3).2, k4 y (hin y hy1 hy2 hy3).1 (hin y hy1 hy2 hy3).2]
  · by_cases hb : b < n
    · obtain ⟨x, hx1, hx2, hx3⟩ := (s.not_grantless_iff _ _).mp (b4 hb)
      exact ⟨x, by omega, by omega, hx3⟩
    · rw [(s.grantless_iff _ _).mp b3 a h1 (by omega)] at h3; cases h3
  · obtain ⟨x, hx1, hx2, hx3⟩ := (s.not_grantless_iff _ _).mp (c4 (by omega))
    have : blockLength (offset + (b + k) + c) (n - (b + k) - c) ≤ 64 - (offset + (b + k) + c) % 64 ∧
        blockLength (offset + (b + k) + c) (n - (b + k) - c) ≤ n - (b + k) - c := by unfold blockLength; omega
    exact ⟨x, by omega, by omega, by omega, hx3⟩

/-- Within one block a driver write has one grant at most. -/
theorem State.grantSpan_oneBlock (s : State) {offset n : Nat} (h : n ≤ 64 - offset % 64) : s.grantSpan offset n = n := by
  obtain ⟨h1, h2, _, hs, hn⟩ := s.grantSpan_spec offset n
  rcases Nat.lt_or_ge (s.grantSpan offset n) n with hlt | hge
  · obtain ⟨a, ha1, ha2, _, ha3⟩ := hn hlt
    obtain ⟨x, hx1, hx2, _⟩ := hs ⟨a, by omega, ha2, ha3⟩
    omega
  · omega

/-- A driver write that takes a grant takes one with what it does first. -/
theorem State.grantSpan_asks {s : State} {offset n : Nat} (h : s.grantless offset n = false) :
    s.grantless offset (s.grantSpan offset n) = false :=
  (s.not_grantless_iff _ _).mpr ((s.grantSpan_spec offset n).some ((s.not_grantless_iff _ _).mp h))

/-- Neither what an access does first nor the rest is without a grant, and both are accesses of its kind (R184). -/
theorem State.firstGrant_asks {s : State} {i f r : Instr} (hi : s.asksGrant i = true) (h : s.firstGrant i = some (f, r)) :
    s.asksGrant f = true ∧ s.asksGrant r = true := by
  cases i <;> simp only [State.firstGrant] at h <;> (try cases h)
  · rename_i offset data
    split at h
    · rename_i hlt
      cases h
      simp only [State.asksGrant, Bool.not_eq_true'] at hi ⊢
      rw [List.length_take, Nat.min_eq_left (Nat.le_of_lt hlt), List.length_drop]
      obtain ⟨a, h1, h2, _, h3⟩ := (s.grantSpan_spec offset data.length).next hlt
      exact ⟨State.grantSpan_asks hi, (s.not_grantless_iff _ _).mpr ⟨a, h1, by omega, h3⟩⟩
    · cases h
  · split at h
    · cases h; exact ⟨rfl, rfl⟩
    · cases h

/-! A controller master's grants, and the exchange port's turn between them (R184). -/

theorem State.portTurn_quiet {s : State} (h : s.portAsks = false) : s.portTurn = s := by simp [State.portTurn, h]

/-- With no access asking for its turn, blocks written stand in the Exchange RAM, and the controller side is served last. -/
theorem State.ctlWrites_quiet {s : State} (h : s.portAsks = false) (l : Blocks) :
    s.ctlWrites l = { s with
      ram := Memory.writes s.ram l, lastServed := if l = [] then s.lastServed else .controller } := by
  induction l generalizing s with
  | nil => rfl
  | cons b l ih =>
    have e : s.ctlWrites (b :: l) = (s.putBlock b.1 b.2).ctlWrites l := by
      show (s.ctlWrite b.1 b.2).ctlWrites l = _
      rw [State.ctlWrite, State.portTurn_quiet h]
    rw [e, ih (s := s.putBlock b.1 b.2) h]
    simp only [State.putBlock, Memory.writes, List.foldl_cons]
    split <;> simp [State.setRam, State.setLastServed]

/-- A port that asks names an access that takes a grant outside STARTING. -/
theorem State.portAsks_spec {s : State} (h : s.portAsks = true) :
    ∃ i r, s.port.waiting = i :: r ∧ s.asksGrant i = true ∧ s.blocked i = false ∧ s.modes.mode ≠ .starting := by
  unfold State.portAsks at h
  cases hw : s.port.waiting with
  | nil => simp [hw] at h
  | cons i r =>
    simp [hw] at h
    exact ⟨i, r, rfl, h.1.1, h.1.2, h.2⟩

/-- An access that asks for a grant leaves the port served last. -/
theorem servePart_lastServed {s : State} {i : Instr} (h : s.asksGrant i = true) :
    (servePart i s).lastServed = .exchangePort := by
  cases i <;> simp only [State.asksGrant, Bool.false_eq_true, Bool.not_eq_true'] at h
  · show (if s.grantless _ _ then _ else _) = _
    rw [h]; rfl
  · rfl

theorem takeRamAccess_lastServed {s : State} {i : Instr} (h : s.asksGrant i = true) (hm : s.modes.mode ≠ .starting) :
    (takeRamAccess i s).lastServed = .exchangePort := by
  cases i <;> simp only [State.asksGrant, Bool.false_eq_true, Bool.not_eq_true'] at h
  · simp only [takeRamAccess, State.takeBar0Write, if_neg hm, State.andThen_eq]
    rw [(State.raiseIf_only _ _ _).lastServed_eq]
    show (if s.grantless _ _ then _ else _) = _
    rw [h]; rfl
  · simp only [takeRamAccess, State.takeBar0Read, if_neg hm, State.andThen_eq]
    rfl

/-- The port's turn gives it the last grant, or there was none to give (R184): after it a controller master may be granted. -/
theorem State.portTurn_spec (s : State) :
    (s.portTurn = s ∧ (s.portAsks = false ∨ s.lastServed = .exchangePort)) ∨ s.portTurn.lastServed = .exchangePort := by
  cases ha : s.portAsks with
  | false => exact .inl ⟨s.portTurn_quiet ha, .inl rfl⟩
  | true =>
    cases hl : s.lastServed with
    | exchangePort => exact .inl ⟨by simp [State.portTurn, hl], .inr rfl⟩
    | controller =>
      right
      obtain ⟨i, r, hw, hi, _, hm⟩ := State.portAsks_spec ha
      have he : s.portTurn = s.serveBlock i r := by simp [State.portTurn, ha, hl, hw]
      rw [he]
      unfold State.serveBlock
      split
      · rename_i f _ hf
        exact servePart_lastServed (State.firstGrant_asks hi hf).1
      · exact takeRamAccess_lastServed (s := s.setWaiting r) hi hm

theorem State.ctlWrites_append (s : State) (l k : Blocks) : s.ctlWrites (l ++ k) = (s.ctlWrites l).ctlWrites k := by
  simp [State.ctlWrites]

/-- After its turn the port has no other before a controller master's grant. -/
theorem State.portTurn_portTurn (s : State) : s.portTurn.portTurn = s.portTurn := by
  rcases s.portTurn_spec with ⟨h, _⟩ | h
  · rw [h, h]
  · rw [State.portTurn.eq_def s.portTurn, h]
    simp

theorem State.portTurn_ctlWrites (s : State) (b : Nat × List Byte) (l : Blocks) :
    s.portTurn.ctlWrites (b :: l) = s.ctlWrites (b :: l) := by
  show (s.portTurn.ctlWrite b.1 b.2).ctlWrites l = (s.ctlWrite b.1 b.2).ctlWrites l
  rw [State.ctlWrite, State.portTurn_portTurn]
  rfl

/-! What the port's turn does not touch. -/

/-- A state with other work for the status writer and the ring writer, and other rings. -/
def State.withWork (s : State) (w : StatusWriter)
    (rings : (Ring × Ring × Ring) × List JournalEntry × List Event × List Event × Option (RingJob × Nat)) : State :=
  { s with status := w, report := { s.report with
      journal := rings.1.1, urgent := rings.1.2.1, routine := rings.1.2.2
      journalQueue := rings.2.1, urgentQueue := rings.2.2.1, routineQueue := rings.2.2.2.1, ringJob := rings.2.2.2.2 } }

theorem State.raiseIf_withWork (s : State) (w) (q) (b : Bool) (c : Cause) :
    (s.withWork w q).raiseIf b c = (s.raiseIf b c).withWork w q := by
  cases b <;> rfl

theorem takeRamAccess_withWork (s : State) (i : Instr) (w) (q) :
    takeRamAccess i (s.withWork w q) = (takeRamAccess i s).withWork w q := by
  unfold takeRamAccess
  split
  · unfold State.takeBar0Write
    simp only [State.andThen_eq]
    show (if s.modes.mode = .starting then _ else _) = _
    split
    · rfl
    · rw [← State.raiseIf_withWork]; rfl
  · unfold State.takeBar0Read
    simp only [State.andThen_eq]
    show (if s.modes.mode = .starting then _ else _) = _
    split <;> rfl
  · rfl

theorem State.serveBlock_withWork (s : State) (i : Instr) (r) (w) (q) :
    (s.withWork w q).serveBlock i r = (s.serveBlock i r).withWork w q := by
  have hf : (s.withWork w q).firstGrant = s.firstGrant := State.firstGrant_congr rfl
  unfold State.serveBlock
  rw [hf]
  split
  · rename_i f _ _; cases f <;> rfl
  · exact takeRamAccess_withWork (s.setWaiting r) i w q

/-- The port's turn neither sees nor changes the work of the two writers and the rings. -/
theorem State.portTurn_withWork (s : State) (w) (q) : (s.withWork w q).portTurn = s.portTurn.withWork w q := by
  have ha : (s.withWork w q).portAsks = s.portAsks := rfl
  have hl : (s.withWork w q).lastServed = s.lastServed := rfl
  have hp : (s.withWork w q).port = s.port := rfl
  unfold State.portTurn
  rw [ha, hl, hp]
  split
  · split
    · rfl
    · exact State.serveBlock_withWork s _ _ w q
  · rfl

/-- Blocks are written alike whatever the work of the two writers and the rings. -/
theorem State.ctlWrites_withWork (s : State) (l : Blocks) (w) (q) :
    (s.withWork w q).ctlWrites l = (s.ctlWrites l).withWork w q := by
  induction l generalizing s with
  | nil => rfl
  | cons b l ih =>
    show ((s.withWork w q).ctlWrite b.1 b.2).ctlWrites l = _
    have : (s.withWork w q).ctlWrite b.1 b.2 = (s.ctlWrite b.1 b.2).withWork w q := by
      unfold State.ctlWrite; rw [State.portTurn_withWork]; rfl
    rw [this, ih]; rfl

/-! The ring writer's work (R149, R184). -/

theorem State.flushRing_idle {s : State} {i : RingId} (hi : (s.report.ring i).initPending = false)
    (hh : (s.report.ring i).headerPending = false) : s.flushRing i = s := by
  simp [State.flushRing, State.andThen_eq, hi, hh]

/-- Reporting units with the same rings agree on each ring, its queue and its entries that wait, and on the work in hand. -/
theorem Report.ringPart_parts {r q : Report} (h : r.ringPart = q.ringPart) (k : RingId) :
    r.ring k = q.ring k ∧ r.queue k = q.queue k ∧ r.waitingFor k = q.waitingFor k ∧
    r.journalQueue = q.journalQueue ∧ r.ringJob = q.ringJob := by
  simp only [Report.ringPart, Prod.mk.injEq] at h
  obtain ⟨⟨h1, h2, h3⟩, h4, h5, h6, h7⟩ := h
  refine ⟨?_, ?_, ?_, h4, h7⟩ <;> cases k <;> simp only [Report.ring, Report.queue, Report.waitingFor, h1, h2, h3, h4, h5, h6]

/-- A work done is no longer in hand, and nothing else of the rings has changed; nor has what waits for them. -/
theorem State.doRingJob_rings (s : State) (j : RingJob) (k : RingId) :
    (s.doRingJob j).report.ringJob = s.report.ringJob.filter (fun q => decide (q.1 ≠ j)) ∧
    (s.doRingJob j).report.ring k = s.report.ring k ∧ (s.doRingJob j).report.queue k = s.report.queue k ∧
    (s.doRingJob j).report.journalQueue = s.report.journalQueue ∧
    (s.doRingJob j).report.waitingFor k = s.report.waitingFor k := by
  have hp := s.portTurn_only.rings_eq
  obtain ⟨h1, h2, h3, h4, _⟩ :=
    Report.ringPart_parts (((s.portTurn.ctlWrites_only (s.portTurn.ringLeft j)).rings_eq).trans hp) k
  have hj := (Report.ringPart_parts hp k).2.2.2.2
  refine ⟨?_, ?_, ?_, ?_, ?_⟩
  · show s.portTurn.report.ringJob.filter _ = _
    rw [hj]
  · rw [← h1]; cases k <;> rfl
  · rw [← h2]; cases k <;> rfl
  · rw [← h4]; rfl
  · rw [← h3]; cases k <;> rfl

/-- With no access asking for its turn, a work done stands block by block in the Exchange RAM. -/
theorem State.doRingJob_ram {s : State} (h : s.portAsks = false) (j : RingJob) :
    (s.doRingJob j).ram = Memory.writes s.ram (s.ringLeft j) := by
  have hp := s.portTurn_quiet h
  show (s.portTurn.ctlWrites (s.portTurn.ringLeft j)).ram = _
  rw [hp, s.ctlWrites_quiet h]

@[simp] theorem Report.ring_setRing (r : Report) (i k : RingId) (v : Ring) :
    (r.setRing i v).ring k = if k = i then v else r.ring k := by cases i <;> cases k <;> rfl

@[simp] theorem Report.waitingFor_setRing (r : Report) (i k : RingId) (v : Ring) :
    (r.setRing i v).waitingFor k = r.waitingFor k := by cases i <;> cases k <;> rfl

theorem State.raiseIf_ring (s : State) (b : Bool) (c : Cause) (k : RingId) :
    (s.raiseIf b c).report.ring k = s.report.ring k ∧ (s.raiseIf b c).report.waitingFor k = s.report.waitingFor k := by
  cases b <;> cases k <;> exact ⟨rfl, rfl⟩

/-- Writing a ring's header leaves every ring and what waits for it as they are. -/
theorem State.writeRingHeader_rings (s : State) (i k : RingId) :
    (s.writeRingHeader i).report.ring k = s.report.ring k ∧
    (s.writeRingHeader i).report.waitingFor k = s.report.waitingFor k := by
  obtain ⟨h1, _, h2, _⟩ := Report.ringPart_parts ((s.writeRingHeader_only i).rings_eq) k
  exact ⟨h1, h2⟩

/-- The header work for a ring is done after it, no entry is counted, and the other rings are as before. -/
theorem State.flushRing_work (s : State) (i k : RingId) :
    (s.flushRing i).report.waitingFor k = s.report.waitingFor k ∧
    (s.flushRing i).report.ring k = if k = i then { s.report.ring i with initPending := false, headerPending := false }
      else s.report.ring k := by
  unfold State.flushRing
  simp only [State.andThen_eq]
  cases hi : (s.report.ring i).initPending <;> cases hh : (s.report.ring i).headerPending
  · refine ⟨rfl, ?_⟩
    simp only [Bool.false_eq_true, if_false, Bool.or_false]
    by_cases hk : k = i
    · subst hk; rw [if_pos rfl]
      cases h : s.report.ring k
      simp_all
    · rw [if_neg hk]
  · simp only [Bool.false_eq_true, if_false, Bool.false_or, if_true, State.writeRingHeader_rings, State.setReport_report]
    exact ⟨by simp, by simp⟩
  all_goals
    obtain ⟨_, hr, _, _, hw⟩ := s.doRingJob_rings (.clear i) k
    simp only [if_true, Bool.true_or, State.writeRingHeader_rings, State.setReport_report, Report.ring_setRing,
      Report.waitingFor_setRing, hr, hw]
    exact ⟨trivial, trivial⟩

theorem State.countEntry_work (s : State) (i k : RingId) :
    (s.countEntry i).report.waitingFor k = s.report.waitingFor k ∧
    (k ≠ i → (s.countEntry i).report.ring k = s.report.ring k) := by
  unfold State.countEntry
  simp only [State.raiseIf_ring, State.writeRingHeader_rings]
  exact ⟨by simp, fun h => by simp [h]⟩

@[simp] theorem Report.ring_setQueue (r : Report) (i k : RingId) (q : List Event) : (r.setQueue i q).ring k = r.ring k := by
  cases i <;> cases k <;> rfl

theorem Report.waitingFor_setQueue (r : Report) (i k : RingId) (q : List Event) :
    (r.setQueue i q).waitingFor k = if k = i ∧ i ≠ .journal then q.length else r.waitingFor k := by
  cases i <;> cases k <;> rfl

theorem State.loseEvents_work (s : State) (i k : RingId) (n : Nat) :
    (s.loseEvents i n).report.waitingFor k = s.report.waitingFor k ∧
    (k ≠ i → (s.loseEvents i n).report.ring k = s.report.ring k) := by
  unfold State.loseEvents
  split
  · exact ⟨rfl, fun _ => rfl⟩
  · rw [show ∀ t : State, t.raise Cause.eventsLost = t.raiseIf true .eventsLost from fun _ => rfl]
    simp only [State.raiseIf_ring]
    exact ⟨by simp, fun h => by simp [h]⟩

theorem State.loseWaiting_work (s : State) (i k : RingId) :
    (k ≠ i → (s.loseWaiting i).report.ring k = s.report.ring k ∧
      (s.loseWaiting i).report.waitingFor k = s.report.waitingFor k) ∧
    (s.loseWaiting i).report.waitingFor k ≤ s.report.waitingFor k := by
  unfold State.loseWaiting
  split
  · refine ⟨fun h => ⟨?_, ?_⟩, ?_⟩
    · rw [(State.loseEvents_work _ i k _).2 h]; simp
    · rw [(State.loseEvents_work _ i k _).1]; simp [Report.waitingFor_setQueue, h]
    · rw [(State.loseEvents_work _ i k _).1]
      simp only [State.setReport_report, Report.waitingFor_setQueue]
      split <;> simp
  · exact ⟨fun _ => ⟨rfl, rfl⟩, Nat.le_refl _⟩

/-- An event written for its ring is one less that waits for it, or all of them where the others are lost (R149, R155), and no
other ring is touched. -/
theorem State.writeEvent_work (s : State) (i k : RingId) :
    (k ≠ i → (s.writeEvent i).report.ring k = s.report.ring k ∧
      (s.writeEvent i).report.waitingFor k = s.report.waitingFor k) ∧
    (i ≠ .journal → (s.writeEvent i).report.waitingFor i ≤ s.report.waitingFor i - 1) := by
  unfold State.writeEvent
  cases hq : s.report.queue i with
  | nil => exact ⟨fun _ => ⟨rfl, rfl⟩, fun h => by cases i <;> simp_all [Report.queue, Report.waitingFor]⟩
  | cons e q =>
    simp only [State.andThen_eq]
    refine ⟨fun h => ⟨?_, ?_⟩, fun h => ?_⟩
    · rw [((State.loseWaiting_work _ i k).1 h).1, (State.countEntry_work _ i k).2 h, State.setReport_report,
        Report.ring_setQueue, (State.doRingJob_rings _ _ k).2.1, (State.flushRing_work s i k).2, if_neg h]
    · rw [((State.loseWaiting_work _ i k).1 h).2, (State.countEntry_work _ i k).1, State.setReport_report,
        Report.waitingFor_setQueue, if_neg (fun hk => h hk.1), (State.doRingJob_rings _ _ k).2.2.2.2, (State.flushRing_work s i k).1]
    · refine ((State.loseWaiting_work _ i i).2).trans ?_
      rw [(State.countEntry_work _ i i).1]
      cases i <;> simp_all [Report.queue, Report.waitingFor, Report.setQueue]

/-! Grants (R184). -/

/-- The exchange port receives a grant it asks for unless it was served last and a controller master asks too. -/
theorem State.grant_port {s : State} :
    s.grant true = some .exchangePort ↔ s.controllerMaster = none ∨ s.lastServed ≠ .exchangePort := by
  have hne : s.controllerMaster ≠ some .exchangePort := by
    intro h
    have := List.mem_of_find?_eq_some h
    simp at this
  unfold State.grant
  cases hm : s.controllerMaster with
  | none => simp
  | some m =>
    rw [hm] at hne
    by_cases hl : s.lastServed = .exchangePort <;> simp [hl]
    intro h; exact hne (by rw [h])

/-- A register access, a write in the controller-owned sections, and every access in STARTING, asks for no grant; with no
controller master asking the port has every grant. -/
theorem State.serving_whole {s : State} {i : Instr}
    (h : s.asksGrant i = false ∨ s.modes.mode = .starting ∨ s.controllerMaster = none) : s.serving i = .whole := by
  unfold State.serving
  rw [if_pos]
  rcases h with h | h | h <;> simp [h]

/-- With the other side served last, an access that needs one grant is served whole, and the first grant of a longer one. -/
theorem State.serving_granted {s : State} {i : Instr} (h : s.lastServed ≠ .exchangePort) :
    s.serving i = .whole ∨ ∃ p, s.firstGrant i = some p ∧ s.serving i = .part p.1 p.2 := by
  unfold State.serving
  split
  · exact .inl rfl
  · rw [if_neg (by simp [State.grant_port.mpr (.inr h)])]
    cases hf : s.firstGrant i with
    | none => exact .inl rfl
    | some p => exact .inr ⟨p, rfl, rfl⟩

theorem State.serving_oneGrant {s : State} {i : Instr} (h : s.lastServed ≠ .exchangePort) (hf : s.firstGrant i = none) :
    s.serving i = .whole := by
  rcases s.serving_granted (i := i) h with h | ⟨p, hp, _⟩
  · exact h
  · rw [hf] at hp; cases hp

/-- After a grant to the port, an access that asks for one waits while a controller master asks. -/
theorem State.serving_waits {s : State} {i : Instr} (hi : s.asksGrant i = true) (hm : s.modes.mode ≠ .starting)
    (hc : s.controllerMaster ≠ none) (h : s.lastServed = .exchangePort) : s.serving i = .waits := by
  have hg : s.grant true ≠ some .exchangePort := by
    rw [ne_eq, State.grant_port]; simp [hc, h]
  unfold State.serving
  rw [if_neg (by simp [hi, hm, hc]), if_pos (by simpa using hg)]

/-- A write that lies in the controller-owned sections changes neither the RAM nor the arbiter's state, so that it delays no
controller master (R182). -/
theorem State.storePart_grantless {s : State} {offset : Nat} {data : List Byte} (h : s.grantless offset data.length = true) :
    (s.storePart offset data).lastServed = s.lastServed ∧
    ∀ x, Memory.read (s.storePart offset data).ram x = Memory.read s.ram x := by
  refine ⟨?_, fun x => ?_⟩
  · show (if s.grantless _ _ then _ else _) = _
    rw [h]; rfl
  · show Memory.read (Memory.write s.ram offset (s.storedBytes offset data)) x = _
    have hlen : (s.storedBytes offset data).length = data.length := by simp [State.storedBytes]
    by_cases hx : offset ≤ x ∧ x < offset + data.length
    · obtain ⟨i, rfl⟩ := Nat.exists_eq_add_of_le hx.1
      have hi : i < data.length := by omega
      have ho := (s.grantless_iff offset data.length).mp h (offset + i) (by omega) (by omega)
      simp only [State.controllerOwns, Bool.and_eq_true, Bool.not_eq_true'] at ho
      rw [Memory.read_write_inside _ _ _ i (by omega)]
      simp [State.storedBytes, ho.2]
    · exact Memory.read_write_outside _ _ _ _ (by omega)

end Sys2Proof.Machine
end

