-- ==== Sys2Proof/Laws/Interrupt.lean ====
section
/-! SUPPORT. What evaluating the interrupt does, and how it is delivered over several changes in one command (R171, R172): flags
that are only set raise the condition at most once, so that one message goes out on a change from false to true and none
otherwise. -/

namespace Sys2Proof.Machine

/-! The condition and its delivery. -/

@[simp] theorem State.evaluate_causes (s : State) : s.evaluate.report.causes = s.report.causes := rfl
@[simp] theorem State.evaluate_enables (s : State) : s.evaluate.report.enables = s.report.enables := rfl
@[simp] theorem State.evaluate_ringPart (s : State) : s.evaluate.report.ringPart = s.report.ringPart := rfl
@[simp] theorem State.evaluate_modes (s : State) : s.evaluate.modes = s.modes := rfl
@[simp] theorem State.evaluate_condition (s : State) :
    s.evaluate.report.condition = interruptCondition s.modes.intEnable s.report := rfl

/-- An evaluation delivers the condition (R171, R172). -/
theorem State.evaluate_delivers (s : State) : Delivers s s.evaluate := by
  refine ⟨rfl, rfl, ?_⟩
  simp only [State.evaluate, State.modPort_port, State.modPort_report, State.modReport_report, State.modReport_port]
  split <;> simp_all

/-- A change of flags, enables or master enable followed by an evaluation delivers the condition. -/
theorem Delivers.of_evaluate {s u : State} (hc : u.report.condition = s.report.condition) (hp : u.port = s.port) :
    Delivers s u.evaluate := by
  have h := u.evaluate_delivers
  exact ⟨h.condition, h.line, by rw [h.message, hc, hp]⟩

@[simp] theorem State.setCauses_causes (s : State) (v : BitVec 14) : (s.setCauses v).report.causes = v := rfl
@[simp] theorem State.setCauses_enables (s : State) (v : BitVec 14) :
    (s.setCauses v).report.enables = s.report.enables := rfl
@[simp] theorem State.setCauses_ringPart (s : State) (v : BitVec 14) :
    (s.setCauses v).report.ringPart = s.report.ringPart := rfl

/-- A change of the flags delivers the condition. -/
theorem State.setCauses_delivers (s : State) (v : BitVec 14) : Delivers s (s.setCauses v) := Delivers.of_evaluate rfl rfl

@[simp] theorem State.raise_causes (s : State) (c : Cause) : (s.raise c).report.causes = s.report.causes ||| c.bit := rfl
@[simp] theorem State.raise_enables (s : State) (c : Cause) : (s.raise c).report.enables = s.report.enables := rfl
@[simp] theorem State.raise_ringPart (s : State) (c : Cause) : (s.raise c).report.ringPart = s.report.ringPart := rfl

/-! Flags that are only set. -/

/-- From `s` to `t` flags are only set, the other terms of the condition stay, and the interrupt is delivered. -/
structure SetsFlags (s t : State) : Prop where
  causes : ∀ k, s.report.causes.getLsbD k = true → t.report.causes.getLsbD k = true
  enables : t.report.enables = s.report.enables
  master : t.modes.intEnable = s.modes.intEnable
  link : t.port.linkUp = s.port.linkUp ∧ t.port.pcie = s.port.pcie
  delivery : KeepsDelivery s t

/-- The condition is true exactly while the master enable is 1 and some position is both set and enabled. -/
theorem interruptCondition_iff (master : Bool) (r : Report) :
    interruptCondition master r = true ↔
      master = true ∧ ∃ k, r.causes.getLsbD k = true ∧ r.enables.getLsbD k = true := by
  unfold interruptCondition
  simp only [Bool.and_eq_true, bne_iff_ne, ne_eq]
  refine and_congr_right fun _ => ⟨fun h => ?_, fun ⟨k, h1, h2⟩ h => ?_⟩
  · by_contra hc
    refine h (BitVec.eq_of_getLsbD_eq fun i _ => ?_)
    rw [BitVec.getLsbD_and]
    cases h1 : r.causes.getLsbD i
    · simp
    · cases h2 : r.enables.getLsbD i
      · simp
      · exact absurd ⟨i, h1, h2⟩ hc
  · have := congrArg (fun v => v.getLsbD k) h
    simp [h1, h2] at this

/-- With more flags set, the other terms alike, a true condition stays true. -/
theorem SetsFlags.condition_mono {s t : State} (h : SetsFlags s t) :
    interruptCondition s.modes.intEnable s.report = true → interruptCondition t.modes.intEnable t.report = true := by
  rw [interruptCondition_iff, interruptCondition_iff, h.enables, h.master]
  rintro ⟨hm, k, h1, h2⟩
  exact ⟨hm, k, h.causes k h1, h2⟩

/-- A delivered interrupt stands as its terms do, the switches being as before. -/
theorem Delivers.interruptOk {s t : State} (hs : s.interruptOk) (h : Delivers s t)
    (hl : t.port.linkUp = s.port.linkUp ∧ t.port.pcie = s.port.pcie) : t.interruptOk :=
  ⟨h.condition, h.line, fun hd => hl.2.trans (hs.link (hl.1 ▸ hd))⟩

theorem SetsFlags.interruptOk {s t : State} (h : SetsFlags s t) (hs : s.interruptOk) : t.interruptOk :=
  (h.delivery hs).interruptOk hs h.link

/-- Messages add up over two changes when the condition, true once, is true at the end or was made false on the way for good. -/
theorem Delivers.trans {s t u : State} (h : Delivers s t) (k : Delivers t u)
    (hl : t.port.linkUp = s.port.linkUp ∧ t.port.pcie = s.port.pcie)
    (hc : t.report.condition = true → u.report.condition = true)
    (hf : s.report.condition = true → t.report.condition = false → u.report.condition = false) : Delivers s u where
  condition := k.condition
  line := k.line
  message := by
    rw [k.message, h.message, hl.1, hl.2, Nat.add_assoc]
    congr 1
    cases hs : s.report.condition <;> cases ht : t.report.condition <;> cases hu : u.report.condition <;> simp_all

theorem SetsFlags.refl (s : State) : SetsFlags s s :=
  ⟨fun _ h => h, rfl, rfl, ⟨rfl, rfl⟩, fun hs => ⟨hs.condition, hs.line, by simp⟩⟩

theorem SetsFlags.next {s t u : State} (h : SetsFlags s t) (k : SetsFlags t u) : SetsFlags s u where
  causes := fun i hi => k.causes i (h.causes i hi)
  enables := k.enables.trans h.enables
  master := k.master.trans h.master
  link := ⟨k.link.1.trans h.link.1, k.link.2.trans h.link.2⟩
  delivery := fun hs => by
    have dt := h.delivery hs
    have du := k.delivery (h.interruptOk hs)
    refine dt.trans du h.link (fun ht => ?_) (fun hc ht => ?_)
    · rw [du.condition]; exact k.condition_mono (dt.condition.symm.trans ht)
    · have := h.condition_mono (hs.condition.symm.trans hc)
      rw [← dt.condition, ht] at this
      cases this

theorem SetsFlags.andThen {s t : State} {f : State → State} (h : SetsFlags s t)
    (k : ∀ u, SetsFlags s u → SetsFlags s (f u)) : SetsFlags s (t.andThen f) := k t h

theorem SetsFlags.foldl {α : Type} {f : State → α → State} (hf : ∀ s a, SetsFlags s (f s a)) (l : List α) (s : State) :
    SetsFlags s (l.foldl f s) := by
  induction l generalizing s with
  | nil => exact SetsFlags.refl s
  | cons a l ih => exact (hf s a).next (ih _)

/-- A change that touches no flag, no switch and not the master enable delivers nothing. -/
theorem SetsFlags.of_frame {l : List Part} {s t : State} (h : OnlyChanges l s t) (hc : Part.causes ∉ l := by decide)
    (hi : Part.interrupt ∉ l := by decide) (hk : Part.link ∉ l := by decide)
    (hm : t.modes.intEnable = s.modes.intEnable := by rfl) : SetsFlags s t := by
  have h1 : t.report.causePart = s.report.causePart := h.causes.resolve_left hc
  have h2 := h.interrupt_eq hi
  have h3 := h.link_eq hk
  simp only [Report.causePart, Prod.mk.injEq] at h1
  obtain ⟨e1, e2, e3⟩ := h1
  refine ⟨fun _ h => e1 ▸ h, e2, hm, h3, fun hs => ⟨?_, ?_, ?_⟩⟩
  · rw [e3, hs.condition, interruptCondition, interruptCondition, hm, e1, e2]
  · rw [h2.1, e3, h3.2, hs.line]
  · rw [h2.2, e3]; simp

/-- The same of a change that does not touch the mode controller. -/
theorem SetsFlags.of_quiet {l : List Part} {s t : State} (h : OnlyChanges l s t) (hc : Part.causes ∉ l := by decide)
    (hi : Part.interrupt ∉ l := by decide) (hk : Part.link ∉ l := by decide) (hm : Part.modes ∉ l := by decide) :
    SetsFlags s t :=
  SetsFlags.of_frame h hc hi hk (congrArg _ (h.modes.resolve_left hm))

theorem State.raise_sets (s : State) (c : Cause) : SetsFlags s (s.raise c) :=
  ⟨fun k h => by
    show (s.report.causes ||| c.bit).getLsbD k = true
    simp [h], rfl, rfl, ⟨rfl, rfl⟩, fun _ => s.setCauses_delivers _⟩

theorem State.raiseIf_sets (s : State) (b : Bool) (c : Cause) : SetsFlags s (s.raiseIf b c) := by
  cases b
  · exact SetsFlags.refl s
  · exact s.raise_sets c

/-- A MODECTL write's fields are stored and the condition evaluated, and then flags are only set: the interrupt is delivered over
both. -/
theorem SetsFlags.afterFields {s t u : State} (h : Delivers s t) (hc : t.report.causes = s.report.causes)
    (he : t.report.enables = s.report.enables) (hl : t.port.linkUp = s.port.linkUp ∧ t.port.pcie = s.port.pcie)
    (k : SetsFlags t u) : KeepsDelivery s u := fun hs => by
  have du := k.delivery (h.interruptOk hs hl)
  refine h.trans du hl (fun ht => ?_) (fun hsc ht => ?_)
  · rw [du.condition]; exact k.condition_mono (h.condition.symm.trans ht)
  · rw [hs.condition, interruptCondition_iff] at hsc
    obtain ⟨_, j, h1, h2⟩ := hsc
    have hm : t.modes.intEnable = false := by
      by_contra hm
      rw [Bool.not_eq_false] at hm
      have := (interruptCondition_iff t.modes.intEnable t.report).mpr ⟨hm, j, hc ▸ h1, he ▸ h2⟩
      rw [← h.condition, ht] at this
      cases this
    rw [du.condition, k.master, hm]; rfl

/-! Events and posts (R155 to R160, R37 to R39). -/

theorem State.loseEvents_sets (s : State) (i : RingId) (n : Nat) : SetsFlags s (s.loseEvents i n) := by
  unfold State.loseEvents
  split
  · exact SetsFlags.refl s
  · exact (SetsFlags.of_quiet (State.setReport_ring _ _ _)).next (State.raise_sets _ _)

theorem State.handEvent_sets (s : State) (e : Event) : SetsFlags s (s.handEvent e) := by
  have send : ∀ i, SetsFlags s (s.sendEvent i e) := fun i => by
    unfold State.sendEvent
    split
    · exact s.loseEvents_sets _ _
    · exact SetsFlags.of_quiet (State.setReport_queue _ _ _)
  unfold State.handEvent
  repeat' first | split | exact SetsFlags.refl s | exact send _

theorem State.handEvents_sets (s : State) (es : List Event) : SetsFlags s (s.handEvents es) :=
  SetsFlags.foldl State.handEvent_sets es s

theorem State.handlePosts_sets (s : State) (l : List Nat) : SetsFlags s (s.handlePosts l) := by
  induction l generalizing s with
  | nil => exact SetsFlags.of_quiet (State.modTakes_only _ _)
  | cons i l ih =>
    unfold State.handlePosts
    split
    · refine SetsFlags.next ?_ (ih _)
      exact (SetsFlags.of_quiet (State.recordRefusal_only _ _ _)).next (State.raise_sets _ _)
    · exact (SetsFlags.of_quiet (State.acceptPost_only _ _)).next (SetsFlags.of_quiet (State.modTakes_only _ _))

/-! Blocks and entries (R149, R184). -/

theorem takeRamAccess_sets (i : Instr) (s : State) : SetsFlags s (takeRamAccess i s) := by
  unfold takeRamAccess
  split
  · unfold State.takeBar0Write
    split
    · exact s.raise_sets _
    · refine SetsFlags.next ?_ (State.raiseIf_sets _ _ _)
      exact (SetsFlags.of_quiet (State.storePart_only _ _ _)).next
        (SetsFlags.of_quiet (State.modPort_partLost _ (fun _ => false)))
  · exact SetsFlags.of_quiet (State.takeBar0Read_only _ _ _)
  · exact SetsFlags.refl s

theorem State.portTurn_sets (s : State) : SetsFlags s s.portTurn := by
  unfold State.portTurn
  split
  · split
    · exact SetsFlags.refl s
    · unfold State.serveBlock
      split
      · exact (SetsFlags.of_quiet (servePart_only _ s)).next (SetsFlags.of_quiet (State.setWaiting_only _ _))
      · exact (SetsFlags.of_quiet (State.setWaiting_only s _)).next (takeRamAccess_sets _ _)
  · exact SetsFlags.refl s

theorem State.ctlWrite_sets (s : State) (a : Nat) (bs : List Byte) : SetsFlags s (s.ctlWrite a bs) :=
  s.portTurn_sets.next (SetsFlags.of_quiet (State.putBlock_only _ _ _))

theorem State.ctlWrites_sets (s : State) (l : Blocks) : SetsFlags s (s.ctlWrites l) :=
  SetsFlags.foldl (fun s _ => s.ctlWrite_sets _ _) l s

theorem State.doRingJob_sets (s : State) (j : RingJob) : SetsFlags s (s.doRingJob j) := by
  unfold State.doRingJob
  repeat' first
    | with_reducible assumption | with_reducible exact SetsFlags.refl _
    | with_reducible apply SetsFlags.andThen | intro u hu | split
    | with_reducible apply SetsFlags.next (k := SetsFlags.of_quiet (State.setRingJob_only _ _))
    | with_reducible apply SetsFlags.next (k := State.ctlWrites_sets _ _)
    | with_reducible apply SetsFlags.next (k := State.portTurn_sets _)

theorem State.writeRingHeader_sets (s : State) (i : RingId) : SetsFlags s (s.writeRingHeader i) := by
  unfold State.writeRingHeader
  repeat' first
    | with_reducible assumption | with_reducible exact SetsFlags.refl _
    | with_reducible apply SetsFlags.andThen | intro u hu | split
    | with_reducible apply SetsFlags.next (k := State.ctlWrite_sets _ _ _)

theorem State.flushRing_sets (s : State) (i : RingId) : SetsFlags s (s.flushRing i) := by
  unfold State.flushRing
  repeat' first
    | with_reducible assumption | with_reducible exact SetsFlags.refl _
    | with_reducible apply SetsFlags.andThen | intro u hu | split
    | with_reducible apply SetsFlags.next (k := State.writeRingHeader_sets _ _)
    | with_reducible apply SetsFlags.next (k := SetsFlags.of_quiet (State.setReport_ring _ _ _))
    | with_reducible apply SetsFlags.next (k := State.doRingJob_sets _ _)

theorem State.countEntry_sets (s : State) (i : RingId) : SetsFlags s (s.countEntry i) := by
  unfold State.countEntry
  repeat' first
    | with_reducible assumption | with_reducible exact SetsFlags.refl _
    | with_reducible apply SetsFlags.next (k := State.raiseIf_sets _ _ _)
    | with_reducible apply SetsFlags.next (k := State.writeRingHeader_sets _ _)
    | with_reducible apply SetsFlags.next (k := SetsFlags.of_quiet (State.setReport_ring _ _ _))

theorem State.endTake_sets (s : State) (i : Nat) : SetsFlags s (s.endTake i) := by
  unfold State.endTake
  split
  · exact (SetsFlags.of_quiet (State.modTakes_only _ _)).next (State.handlePosts_sets _ _)
  · exact SetsFlags.of_quiet (State.setSlot_only _ _ _)

theorem State.writeJournalEntry_sets (s : State) : SetsFlags s s.writeJournalEntry := by
  unfold State.writeJournalEntry
  repeat' first
    | with_reducible assumption | with_reducible exact SetsFlags.refl _
    | with_reducible apply SetsFlags.andThen | intro u hu | split
    | with_reducible apply SetsFlags.next (k := State.endTake_sets _ _)
    | with_reducible apply SetsFlags.next (k := State.countEntry_sets _ _)
    | with_reducible apply SetsFlags.next (k := SetsFlags.of_quiet (State.modReport_rings _ _ rfl))
    | with_reducible apply SetsFlags.next (k := State.doRingJob_sets _ _)
    | with_reducible apply SetsFlags.next (k := State.flushRing_sets _ _)

theorem State.writeEvent_sets (s : State) (i : RingId) : SetsFlags s (s.writeEvent i) := by
  have lose : ∀ u : State, SetsFlags u (u.loseWaiting i) := fun u => by
    unfold State.loseWaiting
    split
    · exact (SetsFlags.of_quiet (State.setReport_queue _ _ _)).next (State.loseEvents_sets _ _ _)
    · exact SetsFlags.refl u
  unfold State.writeEvent
  repeat' first
    | with_reducible assumption | with_reducible exact SetsFlags.refl _
    | with_reducible apply SetsFlags.andThen | intro u hu | split
    | with_reducible apply SetsFlags.next (k := lose _)
    | with_reducible apply SetsFlags.next (k := State.countEntry_sets _ _)
    | with_reducible apply SetsFlags.next (k := SetsFlags.of_quiet (State.setReport_queue _ _ _))
    | with_reducible apply SetsFlags.next (k := State.doRingJob_sets _ _)
    | with_reducible apply SetsFlags.next (k := State.flushRing_sets _ _)

theorem State.writeEntry_sets (s : State) (i : RingId) : SetsFlags s (s.writeEntry i) := by
  cases i
  · exact s.writeJournalEntry_sets
  · exact s.writeEvent_sets _
  · exact s.writeEvent_sets _

theorem State.writeEntries_sets (s : State) (i : RingId) (n : Nat) : SetsFlags s (s.writeEntries i n) := by
  induction n generalizing s with
  | zero => exact SetsFlags.refl s
  | succ n ih => exact (s.writeEntry_sets i).next (ih _)

theorem State.ringDone_sets (s : State) (i : RingId) : SetsFlags s (s.ringDone i) :=
  (s.writeEntries_sets i _).next (State.flushRing_sets _ i)

theorem State.ringsDone_sets (s : State) : SetsFlags s s.ringsDone :=
  ((s.ringDone_sets .journal).next (State.ringDone_sets _ .urgent)).next (State.ringDone_sets _ .routine)

end Sys2Proof.Machine
end

