-- ==== Sys2Proof/Laws/Reporting.lean ====
section
/-! SUPPORT. What setting a cause and handing on an event do to the flags and the rings. -/

namespace Sys2Proof.Machine

/-! Flags. -/

theorem and_bit_ne (v : BitVec 14) {k : Nat} (hk : k < 14) : ((v &&& (1#14 <<< k)) != 0) = v.getLsbD k := by
  cases h : v.getLsbD k with
  | true =>
    have h1 : (v &&& 1#14 <<< k).getLsbD k = true := by simp [h, hk]
    rw [bne_iff_ne]
    intro e
    simp [e] at h1
  | false =>
    have h0 : v &&& (1#14 <<< k) = 0 := by
      ext j hj
      by_cases hjk : j = k
      · subst hjk; simp_all [BitVec.getLsbD_eq_getElem]
      · simp; intro _ _; omega
    simp [h0]

theorem Cause.code_lt (c : Cause) : c.code - 1 < 14 := by cases c <;> decide

/-- A flag stands at the position its code gives (R194). -/
theorem State.causeSet_eq (s : State) (c : Cause) : s.causeSet c = s.report.causes.getLsbD (c.code - 1) :=
  and_bit_ne _ c.code_lt

theorem Cause.bit_getLsbD (c d : Cause) : c.bit.getLsbD (d.code - 1) = decide (c = d) := by
  cases c <;> cases d <;> rfl

/-- Setting a flag sets that flag and no other (R169). -/
@[simp] theorem State.causeSet_raise (s : State) (c d : Cause) :
    (s.raise c).causeSet d = (s.causeSet d || decide (d = c)) := by
  simp [State.causeSet_eq, Cause.bit_getLsbD, eq_comm]

@[simp] theorem State.causeSet_raiseIf (s : State) (b : Bool) (c d : Cause) :
    (s.raiseIf b c).causeSet d = (s.causeSet d || (decide (d = c) && b)) := by
  cases b <;> simp [State.raiseIf]

@[simp] theorem State.raiseIf_enables (s : State) (b : Bool) (c : Cause) :
    (s.raiseIf b c).report.enables = s.report.enables := by cases b <;> rfl

@[simp] theorem State.raiseIf_ringPart (s : State) (b : Bool) (c : Cause) :
    (s.raiseIf b c).report.ringPart = s.report.ringPart := by cases b <;> rfl

/-- The flags are read from the reporting unit's flag register alone. -/
theorem State.causeSet_congr {s t : State} (h : t.report.causes = s.report.causes) (c : Cause) :
    t.causeSet c = s.causeSet c := by simp [State.causeSet, h]

theorem State.causeSet_of_causePart {s t : State} (h : t.report.causePart = s.report.causePart) (c : Cause) :
    t.causeSet c = s.causeSet c := by
  have h1 : t.report.causes = s.report.causes := congrArg (·.1) h
  simp [State.causeSet, h1]

/-! Handing on an event. -/

@[simp] theorem Report.setRing_causes (r : Report) (i : RingId) (v : Ring) : (r.setRing i v).causes = r.causes := by
  cases i <;> rfl

@[simp] theorem Report.setQueue_causes (r : Report) (i : RingId) (q : List Event) : (r.setQueue i q).causes = r.causes := by
  cases i <;> rfl

/-- A change of the flags or of the condition leaves the event rings as they are. -/
theorem Report.eventPart_congr {r q : Report} (h : r.ringPart = q.ringPart) : r.eventPart = q.eventPart := by
  simp only [Report.ringPart, Prod.mk.injEq] at h
  simp [Report.eventPart, h]

/-- What an event does is read from the capture, the live filter list and the event rings alone: it leaves the same event rings
behind, and sets EVENTS_LOST in both states or in neither, and no other flag (R155, R159, R160). -/
theorem State.handEvent_congr {s t : State} (e : Event) (hc : t.modes.captured = s.modes.captured)
    (hf : t.composer.live.filters = s.composer.live.filters) (hr : t.report.eventPart = s.report.eventPart) :
    (t.handEvent e).report.eventPart = (s.handEvent e).report.eventPart ∧
    ∃ lost : Bool, ∀ c, (t.handEvent e).causeSet c = (t.causeSet c || (decide (c = .eventsLost) && lost)) ∧
      (s.handEvent e).causeSet c = (s.causeSet c || (decide (c = .eventsLost) && lost)) := by
  have hr' := hr
  simp only [Report.eventPart, Prod.mk.injEq] at hr'
  obtain ⟨⟨h1, h2⟩, h3, h4⟩ := hr'
  have stays : ∀ u : State, ∀ c, u.causeSet c = (u.causeSet c || (decide (c = Cause.eventsLost) && false)) := by simp
  have key : ∀ i, i ≠ .journal → (t.sendEvent i e).report.eventPart = (s.sendEvent i e).report.eventPart ∧
      ∃ lost : Bool, ∀ c, (t.sendEvent i e).causeSet c = (t.causeSet c || (decide (c = .eventsLost) && lost)) ∧
        (s.sendEvent i e).causeSet c = (s.causeSet c || (decide (c = .eventsLost) && lost)) := by
    intro i hi
    have hri : t.report.ring i = s.report.ring i := by cases i <;> simp_all [Report.ring]
    have hqi : t.report.queue i = s.report.queue i := by cases i <;> simp_all [Report.queue]
    unfold State.sendEvent State.loseEvents
    rw [hri, hqi]
    split
    · simp only [if_neg (by decide : ¬ 1 = 0), State.causeSet_raise]
      refine ⟨?_, true, fun c => ⟨?_, ?_⟩⟩
      · cases i <;> simp_all [Report.eventPart, Report.setRing, State.raise, State.setCauses, State.evaluate, Report.ring]
      · simp [State.causeSet]
      · simp [State.causeSet]
    · refine ⟨?_, false, fun c => ⟨?_, ?_⟩⟩
      · cases i <;> simp_all [Report.eventPart, Report.setQueue, Report.queue]
      · simp [State.causeSet]
      · simp [State.causeSet]
  unfold State.handEvent
  rw [hc, hf]
  split
  · exact ⟨hr, false, fun c => ⟨stays t c, stays s c⟩⟩
  · split
    · exact ⟨hr, false, fun c => ⟨stays t c, stays s c⟩⟩
    · exact key .urgent (by decide)
    · exact key .routine (by decide)

/-- The same for a list of events. -/
theorem State.handEvents_congr {s t : State} (es : List Event) (hc : t.modes.captured = s.modes.captured)
    (hf : t.composer.live.filters = s.composer.live.filters) (hr : t.report.eventPart = s.report.eventPart) :
    (t.handEvents es).report.eventPart = (s.handEvents es).report.eventPart ∧
    ∃ lost : Bool, ∀ c, (t.handEvents es).causeSet c = (t.causeSet c || (decide (c = .eventsLost) && lost)) ∧
      (s.handEvents es).causeSet c = (s.causeSet c || (decide (c = .eventsLost) && lost)) := by
  induction es generalizing s t with
  | nil => exact ⟨hr, false, fun c => by simp [State.handEvents]⟩
  | cons e es ih =>
    have hs := State.handEvent_only s e
    have ht := State.handEvent_only t e
    obtain ⟨h1, a, h2⟩ := State.handEvent_congr e hc hf hr
    obtain ⟨k1, b, k2⟩ := ih (s := s.handEvent e) (t := t.handEvent e) (by rw [ht.modes_eq, hs.modes_eq, hc])
      (by rw [ht.composer_eq, hs.composer_eq, hf]) h1
    refine ⟨k1, a || b, fun c => ⟨?_, ?_⟩⟩
    · refine (k2 c).1.trans ?_
      rw [(h2 c).1, Bool.or_assoc, ← Bool.and_or_distrib_left]
    · refine (k2 c).2.trans ?_
      rw [(h2 c).2, Bool.or_assoc, ← Bool.and_or_distrib_left]

theorem State.handEvents_append (s : State) (es fs : List Event) :
    s.handEvents (es ++ fs) = (s.handEvents es).handEvents fs := by simp [State.handEvents]

/-- An event changes neither the journal, nor what waits for it, nor the ring writer's work in hand. -/
theorem State.handEvent_journal (s : State) (e : Event) :
    (s.handEvent e).report.journalPart = s.report.journalPart := by
  unfold State.handEvent State.sendEvent State.loseEvents
  split
  · rfl
  · split <;> (try split) <;> rfl

/-- Events change no enable. -/
theorem State.handEvents_enables (s : State) (es : List Event) : (s.handEvents es).report.enables = s.report.enables :=
  (s.handEvents_sets es).enables

/-! Events handed on, and flags set. -/

theorem HandsOn.of_events (s : State) (es : List Event) : HandsOn s (s.handEvents es) es (fun _ => false) :=
  ⟨rfl, fun c => by simp, s.handEvents_enables es, (s.handEvents_sets es).delivery⟩

theorem HandsOn.of_event (s : State) (e : Event) : HandsOn s (s.handEvent e) [e] (fun _ => false) := HandsOn.of_events s [e]

theorem HandsOn.of_raise (s : State) (c : Cause) : HandsOn s (s.raise c) [] (fun d => decide (d = c)) :=
  ⟨rfl, State.causeSet_raise s c, rfl, (s.raise_sets c).delivery⟩

/-- A change that touches neither the event rings nor the flags and the enables hands on nothing. -/
theorem HandsOn.of_same {s t : State} (hr : t.report.eventPart = s.report.eventPart)
    (hc : t.report.causePart = s.report.causePart) (hd : KeepsDelivery s t) : HandsOn s t [] (fun _ => false) :=
  ⟨hr, fun c => by rw [State.causeSet_of_causePart hc]; simp [State.handEvents], congrArg (fun p => p.2.1) hc, hd⟩

theorem HandsOn.of_frame {l : List Part} {s t : State} (h : OnlyChanges l s t) (hr : Part.rings ∉ l := by decide)
    (hc : Part.causes ∉ l := by decide) (hi : Part.interrupt ∉ l := by decide) (hk : Part.link ∉ l := by decide)
    (hm : t.modes.intEnable = s.modes.intEnable := by rfl) : HandsOn s t [] (fun _ => false) :=
  HandsOn.of_same (Report.eventPart_congr (h.rings_eq hr)) (h.causes_eq hc) (SetsFlags.of_frame h hc hi hk hm).delivery

/-- One change after another hands on the events of both, in order, where the first keeps the capture and the filter list, and the
interrupt is delivered over both (SetsFlags.next). -/
theorem HandsOn.trans {s t u : State} {es fs : List Event} {f g : Cause → Bool} (h : HandsOn s t es f) (k : HandsOn t u fs g)
    (hc : t.modes.captured = s.modes.captured) (hf : t.composer.live.filters = s.composer.live.filters)
    (hd : KeepsDelivery s u) : HandsOn s u (es ++ fs) (fun c => f c || g c) := by
  have ho := State.handEvents_only s es
  obtain ⟨h1, lost, h2⟩ := State.handEvents_congr fs (s := s.handEvents es) (t := t) (by rw [ho.modes_eq, hc])
    (by rw [ho.composer_eq, hf]) h.rings
  refine ⟨?_, fun c => ?_, k.enables.trans h.enables, hd⟩
  · rw [k.rings, h1, State.handEvents_append]
  · rw [k.causes, (h2 c).1, h.causes, State.handEvents_append, (h2 c).2]
    cases (s.handEvents es).causeSet c <;> cases f c <;> cases g c <;> cases decide (c = Cause.eventsLost) && lost <;> rfl

theorem HandsOn.congr {s t : State} {es : List Event} {f g : Cause → Bool} (h : HandsOn s t es f) (e : ∀ c, f c = g c) :
    HandsOn s t es g := (funext e : f = g) ▸ h

end Sys2Proof.Machine
end

