-- ==== Sys2Proof/Laws/Takes.lean ====
section
/-! SUPPORT. What replacing a slot record, finishing takes and returning them do to the slot table and to the entries that wait
for the journal. -/

namespace Sys2Proof.Machine

/-! One slot record. -/

theorem State.setSlot_takes (s : State) (i : Nat) (r : SlotRec) :
    (s.setSlot i r).takes = { s.takes with slots := s.takes.slots.set i r } := by
  unfold State.setSlot
  simp only [State.andThen_eq]
  split <;> rfl

@[simp] theorem State.setSlot_report (s : State) (i : Nat) (r : SlotRec) : (s.setSlot i r).report = s.report := by
  unfold State.setSlot
  simp only [State.andThen_eq]
  split <;> rfl

@[simp] theorem State.setSlot_slots_length (s : State) (i : Nat) (r : SlotRec) :
    (s.setSlot i r).takes.slots.length = s.takes.slots.length := by simp [State.setSlot_takes]

@[simp] theorem State.setSlot_nextSeq (s : State) (i : Nat) (r : SlotRec) :
    (s.setSlot i r).takes.nextSeq = s.takes.nextSeq := by simp [State.setSlot_takes]

@[simp] theorem State.setSlot_checking (s : State) (i : Nat) (r : SlotRec) :
    (s.setSlot i r).takes.checking = s.takes.checking := by simp [State.setSlot_takes]

@[simp] theorem State.setSlot_toHandle (s : State) (i : Nat) (r : SlotRec) :
    (s.setSlot i r).takes.toHandle = s.takes.toHandle := by simp [State.setSlot_takes]

/-- A slot record is read from the slot table alone. -/
theorem State.slot_congr {s t : State} (h : t.takes = s.takes) (i : Nat) : t.slot i = s.slot i := by simp [State.slot, h]

/-- Replacing a record changes that slot alone. -/
theorem State.setSlot_slot {s : State} {i : Nat} (r : SlotRec) (h : i < s.takes.slots.length) (j : Nat) :
    (s.setSlot i r).slot j = if j = i then r else s.slot j := by
  simp only [State.slot, State.setSlot_takes, List.getD_eq_getElem?_getD, List.getElem?_set]
  by_cases hj : i = j
  · subst hj; simp [h]
  · simp [hj, Ne.symm hj]

/-! Handing entries on (R149, R153). -/

@[simp] theorem Report.handed_nil (r : Report) : r.handed [] = r := by simp [Report.handed]

@[simp] theorem Report.handed_eventPart (r : Report) (es : List JournalEntry) : (r.handed es).eventPart = r.eventPart := rfl

@[simp] theorem Report.handed_causePart (r : Report) (es : List JournalEntry) : (r.handed es).causePart = r.causePart := rfl

theorem Report.handed_congr {r q : Report} (h : r.journalPart = q.journalPart) (es : List JournalEntry) :
    (r.handed es).journalPart = (q.handed es).journalPart := by
  simp only [Report.journalPart, Prod.mk.injEq] at h
  simp [Report.journalPart, Report.handed, h]

theorem Report.handed_handed (r : Report) (a b : List JournalEntry) : (r.handed a).handed b = r.handed (a ++ b) := by
  simp [Report.handed]

/-- Hand on entries that finish takes. -/
abbrev State.handAll (s : State) (es : List JournalEntry) : State := s.setReport (s.report.handed es)

theorem State.handEntry_eq (s : State) (e : JournalEntry) : s.handEntry e = s.handAll [e] := rfl

theorem State.handAll_handAll (s : State) (a b : List JournalEntry) : (s.handAll a).handAll b = s.handAll (a ++ b) := by
  simp [State.handAll, State.setReport, Report.handed_handed]

theorem State.handAll_nil (s : State) : s.handAll [] = s := by simp [State.handAll, State.setReport]

/-- A take has finished once its entry is handed on. -/
theorem State.finished_handAll (s : State) (es : List JournalEntry) (i : Nat) :
    (s.handAll es).finished i = (s.finished i || es.any (fun e => e.slot == i)) := by
  simp [State.finished, State.handAll, Report.handed]

/-- Whether a take has finished is read from the entries that wait. -/
theorem State.finished_congr {s t : State} (h : t.report.journalQueue = s.report.journalQueue) (i : Nat) :
    t.finished i = s.finished i := by simp [State.finished, h]

/-! Finishing takes (R43, R153): their entries are handed on, and nothing else changes. -/

/-- The entry of a take is read from its slot alone. -/
theorem State.entryOf_congr {s t : State} {i : Nat} (h : t.slot i = s.slot i) (res : TakeOutcome × Reason × Option Nat × Option Nat)
    (c : Bool) (f : Option Word) : t.entryOf i res c f = s.entryOf i res c f := by simp [State.entryOf, h]

theorem State.finishTake_eq (s : State) (i : Nat) (res : TakeOutcome × Reason × Option Nat × Option Nat) (c : Bool)
    (f : Option Word) : s.finishTake i res c f = s.handAll [s.entryOf i res c f] := rfl

/-- A fold of an operation that hands on one entry, read from the slot table, hands on the entries of the list. -/
theorem handAll_foldl {α : Type} (f : State → α → State) (entry : TakeEngine → α → JournalEntry)
    (step : ∀ s a, f s a = s.handAll [entry s.takes a]) (l : List α) (s : State) :
    l.foldl f s = s.handAll (l.map (entry s.takes)) := by
  induction l generalizing s with
  | nil => exact s.handAll_nil.symm
  | cons a l ih =>
    rw [List.foldl_cons, ih, step]
    exact State.handAll_handAll s _ _

/-- Cancelling the takes of a list finishes each CANCELLED (R44, R65, R142). -/
theorem State.cancelTakes_eq (s : State) (l : List Nat) (f : Option Word) :
    s.cancelTakes l f = s.handAll (l.map (fun i => s.entryOf i (plainOutcome .cancelled) false f)) :=
  handAll_foldl _ (fun te i => let r := te.slots.getD i SlotRec.empty
    ⟨i, .cancelled, .none, none, none, false, r.header.driverTag, r.seq, f⟩) (fun _ _ => rfl) l s

/-- Abandoning the takes of a list finishes each ABANDONED, with CANCEL_LATE where a cancel was requested (R46, R71). -/
theorem State.abandonTakes_eq (s : State) (l : List Nat) : s.abandonTakes l =
    s.handAll (l.map (fun i => s.entryOf i (plainOutcome .abandoned) (s.slot i).cancelRequested none)) :=
  handAll_foldl _ (fun te i => let r := te.slots.getD i SlotRec.empty
    ⟨i, .abandoned, .none, none, none, r.cancelRequested, r.header.driverTag, r.seq, none⟩) (fun _ _ => rfl) l s

/-- The takes past their deadlines finish EXPIRED (R49). -/
theorem State.expireTakes_eq (s : State) (n : Word) : s.expireTakes n =
    s.handAll ((s.slotsOf (fun r => r.considered n && r.pastDeadline n)).map
      (fun i => s.entryOf i (plainOutcome .expired) false none)) :=
  handAll_foldl _ (fun te i => let r := te.slots.getD i SlotRec.empty
    ⟨i, .expired, .none, none, none, false, r.header.driverTag, r.seq, none⟩) (fun _ _ => rfl) _ s

/-! Returning takes (R65, R70). -/

/-- What a list of takes becomes that a build gives back: where a cancel was requested the take finishes with its entry, and the
slot stays as it is; else the slot is POSTED again. -/
structure TakesReturn (l : List Nat) (f : Option Word) (s t : State) : Prop where
  slots : ∀ j, t.slot j = if j ∈ l ∧ (s.slot j).cancelRequested = false then { s.slot j with state := .posted } else s.slot j
  rest : t.takes = { s.takes with slots := t.takes.slots }
  length : t.takes.slots.length = s.takes.slots.length
  report : t.report = s.report.handed ((l.filter (fun i => (s.slot i).cancelRequested)).map
    (fun i => s.entryOf i (plainOutcome .cancelled) false f))

/-- One take returned. -/
theorem State.returnTake_one (s : State) (f : Option Word) (i : Nat) (h : i < s.takes.slots.length) :
    TakesReturn [i] f s (s.returnTake f i) := by
  unfold State.returnTake
  split
  · rename_i hc
    refine ⟨fun j => ?_, rfl, rfl, by simp [hc, State.finishTake_eq]⟩
    by_cases hj : j = i
    · subst hj; simp [hc]; rfl
    · simp [hj]; rfl
  · rename_i hc
    simp only [Bool.not_eq_true] at hc
    refine ⟨fun j => ?_, by simp [State.setSlot_takes], by simp, by simp [hc]⟩
    rw [State.setSlot_slot _ h]
    by_cases hj : j = i
    · subst hj; simp [hc]
    · simp [hj]

/-- Returning the takes of a list returns each. -/
theorem State.returnTakes_end (s : State) (l : List Nat) (f : Option Word) (hl : l.Nodup)
    (hs : ∀ i ∈ l, i < s.takes.slots.length) : TakesReturn l f s (l.foldl (fun s i => s.returnTake f i) s) := by
  induction l generalizing s with
  | nil => exact ⟨by simp, rfl, rfl, by simp⟩
  | cons i l ih =>
    have h1 := s.returnTake_one f i (hs i (by simp))
    obtain ⟨hn, hl⟩ := List.nodup_cons.mp hl
    have k := ih (s.returnTake f i) hl (fun j hj => by rw [h1.length]; exact hs j (by simp [hj]))
    have hsame : ∀ j ∈ l, (s.returnTake f i).slot j = s.slot j := by
      intro j hj
      have hji : j ≠ i := by rintro rfl; exact hn hj
      rw [h1.slots]
      simp [hji]
    refine ⟨fun j => ?_, ?_, ?_, ?_⟩
    · rw [List.foldl_cons, k.slots]
      by_cases hj : j ∈ l
      · simp [hj, hsame j hj]
      · rw [h1.slots]
        simp [hj]
    · rw [List.foldl_cons, k.rest, h1.rest]
    · rw [List.foldl_cons, k.length, h1.length]
    · rw [List.foldl_cons, k.report, h1.report, Report.handed_handed]
      congr 1
      have hf : l.filter (fun j => ((s.returnTake f i).slot j).cancelRequested) = l.filter (fun j => (s.slot j).cancelRequested) :=
        List.filter_congr (fun j hj => by rw [hsame j hj])
      have hm : (l.filter (fun j => (s.slot j).cancelRequested)).map
            (fun j => (s.returnTake f i).entryOf j (plainOutcome .cancelled) false f) =
          (l.filter (fun j => (s.slot j).cancelRequested)).map (fun j => s.entryOf j (plainOutcome .cancelled) false f) :=
        List.map_congr_left (fun j hj => State.entryOf_congr (hsame j (List.mem_filter.mp hj).1) _ _ _)
      rw [hf, hm, List.filter_cons (x := i), List.filter_cons (x := i)]
      split <;> simp

/-! Lists of slots by state. -/

/-- The slots with a take that satisfies a test and has not finished, as a list of numbers. -/
theorem State.slotsOf_eq (s : State) (p : SlotRec → Bool) :
    s.slotsOf p = (List.range s.takes.slots.length).filter (fun i => p (s.slot i) && !s.finished i) := by
  have key : ∀ (l : List SlotRec) (k : Nat) (g : Nat → SlotRec), (∀ i, i < l.length → g (k + i) = l.getD i SlotRec.empty) →
      ((l.zipIdx k).filter (fun r => p r.1 && !s.finished r.2)).map (·.2) =
        (List.range' k l.length).filter (fun i => p (g i) && !s.finished i) := by
    intro l
    induction l with
    | nil => intro k g _; rfl
    | cons r l ih =>
      intro k g h
      have h0 : g k = r := by simpa using h 0 (by simp)
      have h1 := ih (k + 1) g (fun i hi => by
        have := h (i + 1) (by simp; omega)
        simpa [Nat.add_assoc, Nat.add_comm 1 i] using this)
      simp only [List.zipIdx_cons, List.filter_cons, List.length_cons, List.range'_succ, h0]
      split <;> simp [h1]
  have := key s.takes.slots 0 s.slot (fun i _ => by simp [State.slot])
  simpa [State.slotsOf, List.range_eq_range'] using this

theorem State.slotsOf_mem {s : State} {p : SlotRec → Bool} {i : Nat} :
    i ∈ s.slotsOf p ↔ i < s.takes.slots.length ∧ p (s.slot i) = true ∧ s.finished i = false := by
  simp [State.slotsOf_eq]

theorem State.slotsOf_nodup (s : State) (p : SlotRec → Bool) : (s.slotsOf p).Nodup := by
  rw [State.slotsOf_eq]; exact List.nodup_range.filter _

theorem State.postedSlots_mem {s : State} {i : Nat} :
    i ∈ s.postedSlots ↔ i < s.takes.slots.length ∧ (s.slot i).state = .posted ∧ s.finished i = false := by
  simp [State.postedSlots, State.slotsOf_mem]

theorem State.busySlots_mem {s : State} {i : Nat} :
    i ∈ s.busySlots ↔ i < s.takes.slots.length ∧ (s.slot i).state ≠ .idle ∧ s.finished i = false := by
  simp [State.busySlots, State.slotsOf_mem]

theorem State.postedSlots_nodup (s : State) : s.postedSlots.Nodup := s.slotsOf_nodup _

theorem State.busySlots_nodup (s : State) : s.busySlots.Nodup := s.slotsOf_nodup _

/-- The lists of slots are read from the slot table and the entries that wait. -/
theorem State.slotsOf_congr {s t : State} (h : t.takes = s.takes) (hq : t.report.journalQueue = s.report.journalQueue)
    (p : SlotRec → Bool) : t.slotsOf p = s.slotsOf p := by
  simp [State.slotsOf, State.finished, h, hq]

end Sys2Proof.Machine
end

