-- ==== Sys2Proof/Laws/Modes.lean ====
section
/-! SUPPORT. What serving supervision, a MODECTL write's fields and a move of the mode do to the mode controller, the flags and
the rings. -/

namespace Sys2Proof.Machine

/-! Serving and storing (R129, R144). -/

theorem State.serve_modes (s : State) : s.serve.modes = { s.modes with supervision := s.servedTimer } := by
  unfold State.serve State.servedTimer State.startSupervision State.startedTimer
  cases h : s.modes.supervision with
  | none => simp only [Option.isSome_none, Bool.false_eq_true, if_false, if_true]; rw [← h]
  | some _ => simp

theorem State.startSupervision_modes (s : State) :
    s.startSupervision.modes = { s.modes with supervision := s.startedTimer } := rfl

/-- What a MODECTL write stores (R129). -/
theorem State.modectl_modes (s : State) (b p i : Bool) : (s.modectl b p i).modes = s.fieldsStored b p i := by
  have hm : s.modes.mode = .starting ∨ s.modes.mode ≠ .starting := em _
  unfold State.modectl State.fieldsStored
  simp only [State.andThen_eq]
  rcases hm with h | h <;> cases b <;>
    simp only [State.evaluate_modes, State.modModes_modes, h, ne_eq, not_true_eq_false, not_false_eq_true, decide_true,
      decide_false, Bool.and_false, Bool.and_true, Bool.false_eq_true, if_false, if_true]
  rw [State.serve_modes]
  rfl

theorem State.modectl_report (s : State) (b p i : Bool) :
    (s.modectl b p i).report = { s.report with condition := interruptCondition i s.report } := by
  unfold State.modectl
  simp only [State.andThen_eq]
  split
  · unfold State.serve; split <;> rfl
  · rfl

theorem State.modectl_delivers (s : State) (b p i : Bool) : Delivers s (s.modectl b p i) := by
  have h : Delivers s ((s.modModes (fun mo => { mo with permit := p, intEnable := i })).evaluate) :=
    Delivers.of_evaluate rfl rfl
  unfold State.modectl
  simp only [State.andThen_eq]
  split
  · unfold State.serve State.startSupervision
    split
    · exact ⟨h.condition, h.line, h.message⟩
    · exact h
  · exact h

theorem State.modectl_hands (s : State) (b p i : Bool) : HandsOn s (s.modectl b p i) [] (fun _ => false) := by
  have h := State.modectl_report s b p i
  refine ⟨by rw [h]; rfl, fun c => ?_, by rw [h], fun _ => s.modectl_delivers b p i⟩
  rw [Bool.or_false]
  exact State.causeSet_congr (by rw [h]; rfl) c

/-! Moves of the mode (R126). -/

theorem State.moveMode_modes (s : State) (m : Mode) (t : Trigger) :
    (s.moveMode m t).modes = { s.modes with mode := m } := by
  unfold State.moveMode
  rw [(State.handEvent_only _ _).modes_eq]
  rfl

theorem State.moveMode_journal (s : State) (m : Mode) (t : Trigger) :
    (s.moveMode m t).report.journalPart = s.report.journalPart := State.handEvent_journal (s.setMode m) _

theorem State.moveMode_sets (s : State) (m : Mode) (t : Trigger) : SetsFlags s (s.moveMode m t) :=
  (SetsFlags.of_frame (State.setMode_only s m)).next (State.handEvent_sets _ _)

theorem State.moveMode_hands (s : State) (m : Mode) (t : Trigger) :
    HandsOn s (s.moveMode m t) [modeEvent s.modes.mode m t] (fun _ => false) :=
  ((HandsOn.of_frame (State.setMode_only s m)).trans (HandsOn.of_event (s.setMode m) _) rfl rfl
    (s.moveMode_sets m t).delivery).congr (fun _ => rfl)

/-! What a frame keeps of the reporting unit. -/

theorem OnlyChanges.eventPart_eq {l : List Part} {s t : State} (h : OnlyChanges l s t) (hp : Part.rings ∉ l := by decide) :
    t.report.eventPart = s.report.eventPart := by
  have hr := h.rings_eq hp
  simp only [Report.ringPart, Prod.mk.injEq] at hr
  simp [Report.eventPart, hr]

theorem OnlyChanges.journalPart_eq {l : List Part} {s t : State} (h : OnlyChanges l s t) (hp : Part.rings ∉ l := by decide) :
    t.report.journalPart = s.report.journalPart := by
  have hr := h.rings_eq hp
  simp only [Report.ringPart, Prod.mk.injEq] at hr
  simp [Report.journalPart, hr]

theorem OnlyChanges.enables_eq {l : List Part} {s t : State} (h : OnlyChanges l s t) (hp : Part.causes ∉ l := by decide) :
    t.report.enables = s.report.enables := congrArg (fun p => p.2.1) (h.causes_eq hp)

theorem OnlyChanges.slot_eq {l : List Part} {s t : State} (h : OnlyChanges l s t) (hp : Part.takes ∉ l := by decide) (i : Nat) :
    t.slot i = s.slot i := State.slot_congr (h.takes_eq hp) i

/-- Returned takes leave the event rings as they were, and hand their entries on. -/
theorem TakesReturn.eventPart {l : List Nat} {f : Option Word} {s t : State} (h : TakesReturn l f s t) :
    t.report.eventPart = s.report.eventPart := by rw [h.report]; rfl

theorem TakesReturn.journal {l : List Nat} {f : Option Word} {s t : State} (h : TakesReturn l f s t) :
    t.report.journalPart = (s.report.handed ((l.filter (fun i => (s.slot i).cancelRequested)).map
      (fun i => s.entryOf i (plainOutcome .cancelled) false f))).journalPart := by rw [h.report]

/-! HOLD (R138). -/

theorem State.enterHold_modes (s : State) (t : Trigger) :
    (s.enterHold t).modes = { s.modes with mode := .hold, supervision := s.startedTimer } := by
  unfold State.enterHold
  rw [State.startSupervision_modes, (State.raise_only _ _).modes_eq, State.moveMode_modes]
  simp only [State.startedTimer, (State.raise_only _ _).modes_eq, State.moveMode_modes, (State.raise_only _ _).now_eq,
    (State.moveMode_only _ _ _).now_eq]

theorem State.enterHold_journal (s : State) (t : Trigger) :
    (s.enterHold t).report.journalPart = s.report.journalPart := by
  unfold State.enterHold
  rw [(State.startSupervision_only _).journalPart_eq, (State.raise_only _ _).journalPart_eq, State.moveMode_journal]

theorem State.enterHold_sets (s : State) (t : Trigger) : SetsFlags s (s.enterHold t) :=
  ((s.moveMode_sets .hold t).next (State.raise_sets _ .holdEntered)).next (SetsFlags.of_frame (State.startSupervision_only _))

theorem State.enterHold_hands (s : State) (t : Trigger) :
    HandsOn s (s.enterHold t) [modeEvent s.modes.mode .hold t] (fun c => decide (c = .holdEntered)) := by
  have hm := State.moveMode_only s .hold t
  have h := (State.moveMode_hands s .hold t).trans (HandsOn.of_raise _ .holdEntered)
    (by rw [State.moveMode_modes]) (by rw [hm.composer_eq])
    ((s.moveMode_sets .hold t).next (State.raise_sets _ .holdEntered)).delivery
  exact (h.trans (HandsOn.of_frame (State.startSupervision_only _))
    (by rw [(State.raise_only _ _).modes_eq, State.moveMode_modes])
    (by rw [(State.raise_only _ _).composer_eq, hm.composer_eq]) (s.enterHold_sets t).delivery).congr (fun c => by simp)

/-! A build discarded (R65, R70). -/

/-- A discarded build ends; its takes return to POSTED, or finish CANCELLED where a cancel was requested. -/
theorem State.discardBuild_end (s : State) (f : Option Word) (hl : s.buildSlots.Nodup)
    (hs : ∀ i ∈ s.buildSlots, i < s.takes.slots.length) :
    TakesReturn s.buildSlots f s (s.discardBuild f) := by
  have h := State.returnTakes_end s s.buildSlots f hl hs
  exact ⟨h.slots, h.rest, h.length, h.report⟩

theorem State.discardBuild_composer (s : State) (f : Option Word) :
    (s.discardBuild f).composer = { s.composer with build := none } := by
  have h : OnlyChanges [.takes, .rings, .status] s (s.buildSlots.foldl (fun s i => s.returnTake f i) s) :=
    OnlyChanges.foldl (fun s i => (State.returnTake_only s f i).mono (by decide)) _ _
  simp [State.discardBuild, State.setBuild, h.composer_eq]

/-! FALLBACK (R71, R139). -/

/-- The takes of the build and then the POSTED ones finish ABANDONED: their entries are handed on (R46, R71). -/
theorem State.abandonAll_eq (s : State) (hs : ∀ i ∈ s.buildSlots, (s.slot i).state = .building) :
    let u := (s.abandonTakes s.buildSlots).setBuild none
    u.abandonTakes u.postedSlots = (s.handAll ((s.buildSlots ++ s.postedSlots).map
      (fun i => s.entryOf i (plainOutcome .abandoned) (s.slot i).cancelRequested none))).setBuild none := by
  intro u
  have ut : u.takes = s.takes := by simp only [u, State.abandonTakes_eq]; rfl
  have us : ∀ i, u.slot i = s.slot i := State.slot_congr ut
  have posted_eq : u.postedSlots = s.postedSlots := by
    unfold State.postedSlots
    rw [State.slotsOf_eq, State.slotsOf_eq, ut]
    refine List.filter_congr (fun i _ => ?_)
    have hf : u.finished i = (s.abandonTakes s.buildSlots).finished i := rfl
    rw [hf, State.abandonTakes_eq, State.finished_handAll, us]
    by_cases hp : (s.slot i).state = .posted
    · have hb : i ∉ s.buildSlots := fun hb => by rw [hs i hb] at hp; cases hp
      have : ((s.buildSlots.map fun i => s.entryOf i (plainOutcome .abandoned) (s.slot i).cancelRequested none).any
          fun e => e.slot == i) = false := by
        simp only [List.any_map, List.any_eq_false, Function.comp_apply, State.entryOf, beq_iff_eq]
        rintro j hj rfl
        exact hb hj
      simp [this]
    · simp [hp]
  rw [posted_eq, State.abandonTakes_eq]
  simp only [u, State.abandonTakes_eq]
  show ((s.handAll _).handAll _).setBuild none = _
  rw [State.handAll_handAll, List.map_append]
  rfl

/-- Entry to FALLBACK. -/
theorem State.enterFallback_spec (s : State) (t : Trigger) (hs : ∀ i ∈ s.buildSlots, (s.slot i).state = .building) :
    EntersFallback s (s.enterFallback t) s.modes t [] := by
  set es := (s.buildSlots ++ s.postedSlots).map
    (fun i => s.entryOf i (plainOutcome .abandoned) (s.slot i).cancelRequested none) with hes
  set u := (s.handAll es).setBuild none with hu
  set w := (u.journalDone.stopSupervision.raise .fallbackEntered).moveMode .fallback t with hw
  have he : s.enterFallback t = w.modComposer (fun co => { co with fallbackOwed := true }) := by
    have h := s.abandonAll_eq hs
    simp only [] at h
    rw [← hes, ← hu] at h
    rw [hw, ← h]
    rfl
  have fu : OnlyChanges [.composer, .rings] s u :=
    ((State.setReport_rings s (s.report.handed es) rfl).mono (by decide)).next (State.setBuild_only _ none) (by decide)
  have fd := u.journalDone_only
  have fs := State.stopSupervision_only u.journalDone
  have fr := State.raise_only u.journalDone.stopSupervision .fallbackEntered
  have fm := State.moveMode_only (u.journalDone.stopSupervision.raise .fallbackEntered) .fallback t
  have fw : OnlyChanges [.modes, .interrupt, .causes, .rings] u.journalDone w :=
    ((fs.mono (by decide)).next fr (by decide)).next fm (by decide)
  have dm : u.journalDone.modes = s.modes := fd.modes_eq.trans fu.modes_eq
  have sm : (u.journalDone.stopSupervision.raise .fallbackEntered).modes = { s.modes with supervision := none } := by
    rw [fr.modes_eq]
    show { u.journalDone.modes with supervision := none } = _
    rw [dm]
  refine ⟨u, fu.modes_eq, rfl, rfl, ?_, fu.mono (by decide), ?_, ?_, ?_, ?_, ?_, ?_⟩
  · exact HandsOn.of_same rfl rfl (SetsFlags.of_quiet fu).delivery
  · rw [he]; exact ((fd.now_eq).symm.trans (fw.now_eq).symm)
  · rw [he, State.modComposer_modes, hw, State.moveMode_modes, sm]
  · rw [he, State.modComposer_composer, fw.composer_eq, fd.composer_eq]; rfl
  · rw [he, State.modComposer_report, hw, State.moveMode_journal, fr.journalPart_eq, fs.journalPart_eq]
  · rw [he]
    have d1 : SetsFlags u.journalDone (u.journalDone.stopSupervision.raise .fallbackEntered) :=
      (SetsFlags.of_frame fs).next (State.raise_sets _ _)
    have d2 : SetsFlags u.journalDone w := d1.next (State.moveMode_sets _ .fallback t)
    have h := ((HandsOn.of_frame fs).trans (HandsOn.of_raise _ .fallbackEntered) rfl rfl d1.delivery).trans
      (State.moveMode_hands _ .fallback t) (by rw [sm, dm]) (by rw [fr.composer_eq, fs.composer_eq]) d2.delivery
    have hmode : modeEvent (u.journalDone.stopSupervision.raise .fallbackEntered).modes.mode .fallback t =
        modeEvent s.modes.mode .fallback t := by rw [sm]
    rw [hmode] at h
    refine (h.trans (HandsOn.of_frame (State.modComposer_only w _)) ?_ ?_
      (d2.next (SetsFlags.of_quiet (State.modComposer_only w _))).delivery).congr (fun c => by simp)
    · rw [State.moveMode_modes, sm, dm]
    · rw [fw.composer_eq]
  · rw [he]
    exact (fw.mono (by decide)).next (State.modComposer_only w _) (by decide)

/-! QUIESCING and QUIESCED (R142). -/

/-- The move from QUIESCING to QUIESCED. -/
theorem State.quiesceDone_spec (s : State) (h : s.modes.mode = .quiescing) : ReachesQuiesced s s.quiesceDone := by
  have fd := s.journalDone_only
  have fr := State.raise_only s.journalDone .modeReached
  have hm : (s.journalDone.raise .modeReached).modes = s.modes := fr.modes_eq.trans fd.modes_eq
  refine ⟨?_, ?_, ?_, ?_⟩
  · unfold State.quiesceDone
    rw [State.moveMode_modes, hm]
  · unfold State.quiesceDone
    rw [State.moveMode_journal, fr.journalPart_eq]
  · have k := (HandsOn.of_raise s.journalDone .modeReached).trans (State.moveMode_hands _ .quiesced .quiesceDone)
      (by rw [fr.modes_eq]) (by rw [fr.composer_eq]) ((State.raise_sets _ _).next (State.moveMode_sets _ _ _)).delivery
    rw [hm, h] at k
    exact k.congr (fun c => by simp)
  · exact (fr.mono (by decide)).next (State.moveMode_only _ .quiesced .quiesceDone) (by decide)

/-- Entry to QUIESCING. -/
theorem State.enterQuiescing_spec (s : State) (t : Trigger) : EntersQuiescing s (s.enterQuiescing t) s.modes t false := by
  set es := s.postedSlots.map (fun i => s.entryOf i (plainOutcome .cancelled) false none) with hes
  set u := (s.handAll es).stopSupervision with hu
  set v := u.moveMode .quiescing t with hv
  have fv := State.moveMode_only u .quiescing t
  have fu : OnlyChanges [.rings, .modes] s u :=
    ((State.setReport_rings s (s.report.handed es) rfl).mono (by decide)).next (State.stopSupervision_only _) (by decide)
  have vm : v.modes = { s.modes with mode := .quiescing, supervision := none } := by rw [hv, State.moveMode_modes]; rfl
  have vco : v.composer = s.composer := fv.composer_eq
  have he : s.enterQuiescing t = if s.composer.build = none ∧ s.composer.fallbackOwed = false then v.quiesceDone else v := by
    have : s.enterQuiescing t = (if v.composer.build.isNone && !v.composer.fallbackOwed then v.quiesceDone else v) := by
      rw [hv, hu, hes, ← State.cancelTakes_eq]; rfl
    rw [this, vco]
    cases s.composer.build <;> cases s.composer.fallbackOwed <;> simp
  refine ⟨v, vm, ?_, ?_, (fu.mono (by decide)).next fv (by decide), ?_⟩
  · rw [hv, State.moveMode_journal]; rfl
  · have k := (HandsOn.of_same (s := s) (t := u) rfl rfl (SetsFlags.of_frame fu).delivery).trans
      (State.moveMode_hands u .quiescing t) rfl rfl ((SetsFlags.of_frame fu).next (State.moveMode_sets u _ t)).delivery
    exact k.congr (fun c => by simp)
  · rw [he]
    split
    · exact v.quiesceDone_spec (by rw [vm])
    · rfl

end Sys2Proof.Machine
end

