-- ==== Sys2Proof/Tests/Slice0.lean ====
section
/-! SUPPORT. The model's own tests: ill-formed commands, states that meet the hypotheses of the statements, one small step of
each command, and the worked values of the spec. -/

namespace Sys2Proof.Tests

open Sys2Proof Sys2Proof.Machine Host

set_option Elab.async false

/-! Ill-formed commands, one for each check of Instr.wf. -/

theorem test_wf_bar0WriteNoByte : Instr.wf (.bar0Write 0 []) = false := by decide
theorem test_wf_bar0WriteBeyondEnd : Instr.wf (.bar0Write 262143 [1, 2]) = false := by decide
theorem test_wf_bar0ReadNoByte : Instr.wf (.bar0Read 64 0) = false := by decide
theorem test_wf_bar0ReadBeyondEnd : Instr.wf (.bar0Read 262144 1) = false := by decide
theorem test_wf_requestInvalidNamesRequest : Instr.wf (.requestInvalid 5 ⟨false, false, false⟩) = false := by decide
theorem test_wf_slotreqPost : Instr.wf (.slotreqNoAction 1 3) = false := by decide
theorem test_wf_slotreqCancel : Instr.wf (.slotreqNoAction 2 3) = false := by decide
theorem test_wf_readBeforeNextcause : Instr.wf (.nextcauseRead 0x18 4) = false := by decide
theorem test_wf_readAfterNextcause : Instr.wf (.nextcauseRead 0x20 4) = false := by decide
theorem test_wf_readNoByte : Instr.wf (.nextcauseRead 0x1C 0) = false := by decide
theorem test_wf_writeNotDiscarded : Instr.wf (.registerWriteDiscarded 0x14 4) = false := by decide
theorem test_wf_discardedBeyondBar2 : Instr.wf (.registerWriteDiscarded 4094 4) = false := by decide
theorem test_wf_discardedNoByte : Instr.wf (.registerWriteDiscarded 0x14 0) = false := by decide
theorem test_wf_frameNoWidth : Instr.wf (.frameArrival 0 ⟨0, 480, .progressive, none, none⟩) = false := by decide
theorem test_wf_frameNoHeight : Instr.wf (.frameArrival 0 ⟨640, 0, .progressive, none, none⟩) = false := by decide
theorem test_wf_frameNoPeriod : Instr.wf (.frameArrival 0 ⟨640, 480, .progressive, none, some 0⟩) = false := by decide
theorem test_wf_boundaryOperands :
    Instr.wf (.bar0Write 262143 [1]) = true ∧ Instr.wf (.requestInvalid 6 ⟨false, false, false⟩) = true ∧
      Instr.wf (.nextcauseRead 0x1F 1) = true ∧ Instr.wf (.nextcauseRead 0x19 4) = true ∧
      Instr.wf (.registerWriteDiscarded 0x08 4) = true ∧ Instr.wf (.registerWriteDiscarded 4092 4) = true := by decide

/-! Written register values (R186, R194). -/

theorem test_decode_softReset : registerWriteCommand 0x04 4 0x00000310 = .softReset ⟨true, true⟩ := by decide
theorem test_decode_run : registerWriteCommand 0x04 4 0x00000221 = .requestRun ⟨true, false, true⟩ := by decide
theorem test_decode_invalid : registerWriteCommand 0x04 4 0x00000007 = .requestInvalid 7 ⟨false, false, false⟩ := by decide
theorem test_decode_serve : registerWriteCommand 0x04 4 0x00000120 = .serve ⟨true, false⟩ := by decide
theorem test_decode_post : registerWriteCommand 0x0C 4 0x00018001 = .post 0x8001 := by decide
theorem test_decode_cancel : registerWriteCommand 0x0C 4 0x00020004 = .cancel 4 := by decide
theorem test_decode_noAction : registerWriteCommand 0x0C 4 0x00030004 = .slotreqNoAction 3 4 := by decide
theorem test_decode_release : registerWriteCommand 0x10 4 0x00020005 = .release 2 5 := by decide
theorem test_decode_ident : registerWriteCommand 0x00 4 0 = .registerWriteDiscarded 0x00 4 := by decide
theorem test_decode_short : registerWriteCommand 0x04 2 0 = .registerWriteDiscarded 0x04 2 := by decide
theorem test_decode_noWord : decodeTableWord 32 0x1234 = none := by decide

/-! Small states. -/

/-- A section map of ten areas, each of its least size, for a wall of two by two tiles and rings of 16 places. -/
def wall : SectionMap :=
  [⟨4096, 2112⟩, ⟨6208, 12800⟩, ⟨19008, 320⟩, ⟨19328, 4160⟩, ⟨23488, 1152⟩, ⟨24640, 1472⟩, ⟨26112, 320⟩, ⟨26432, 576⟩,
    ⟨27008, 320⟩, ⟨27328, 320⟩]

/-- A SHOW entry of window 0 with source 0 at the wall's corner. -/
def showEntry : Entry :=
  { kind := 1, window := 0, source := 0, rank := 1, native := false, prot := false, cropPresent := false,
    tagPresent := false, follow := true, manual := false, rect := ⟨0, 0, 640, 480⟩, crop := ⟨0, 0, 0, 0⟩, tag := 0,
    filter := ⟨false, 0, 0, 0, 0⟩ }

/-- A configuration that passes the activation checks. -/
def image : ConfigImage :=
  { cols := 2, rows := 2, lead := 3000, rate := 50000, journal := ⟨16, 12⟩, urgent := ⟨16, 12⟩, routine := ⟨16, 12⟩,
    supervision := 10, requireChecked := false, startSelector := 1, defaultAction := 2, map := wall,
    filters := List.replicate 16 ⟨false, 0, 0, 0, 0⟩, settings := List.replicate 40 ⟨true, 1, 255, 100⟩,
    fallbackCount := 1, fallbackEntries := [showEntry] }

/-- Its capture. -/
def capture : Captured := image.capture

/-- The state after reset with memory decoding on. -/
def decoding : State :=
  { State.reset with port := { ExchangePort.reset with pcie := { pcieReset with memoryDecode := true } } }

/-- A state in a mode, with the capture in force from RUN on and in CONFIG. -/
def inMode (m : Mode) : State :=
  { decoding with
    modes := { ModeCtl.reset with mode := m, captured := some capture }
    report := { Report.reset with journal := Ring.initial ⟨16, 12⟩, urgent := Ring.initial ⟨16, 12⟩,
                                  routine := Ring.initial ⟨16, 12⟩ } }

/-- A state of CONFIG before any activation. -/
def fresh : State := { decoding with modes := { ModeCtl.reset with mode := .config } }

/-- A locked source of 1280 by 720. -/
def lockedSource : SourceRec :=
  { SourceRec.external with
    state := .locked, settings := ⟨true, 1, some 40, 100⟩, stable := 3, activity := true
    qualified := some ⟨1280, 720, .progressive, none, 60000⟩, measuredClass := some 1 }

/-- A posted slot. -/
def postedSlot : SlotRec := { SlotRec.empty with state := .posted, seq := 5, header := { TakeHeader.empty with count := 1 } }

/-- A window that shows source 0 and follows its backup. -/
def shownWindow : WindowRec :=
  { WindowRec.cleared with visible := true, rect := ⟨0, 0, 640, 480⟩, rank := 1, loss := .follow, ctx := some 0 }

/-- RUN with a posted slot, one whose take has finished, its entry waiting, a locked source, a window that shows it, a supervision
timer, entries and events written, two events waiting, and OVERRUN set. -/
def busy : State :=
  { inMode .run with
    ram := [(4096, 7)]
    takes := { TakeEngine.reset with slots := (TakeEngine.reset.slots.set 3 postedSlot).set 2 { postedSlot with state := .building }
                                     nextSeq := 6 }
    sources := sourcesReset.set 0 lockedSource
    composer := { Composer.reset with live := { Layout.cleared with windows := Layout.cleared.windows.set 0 shownWindow } }
    modes := { ModeCtl.reset with mode := .run, captured := some capture, supervision := some 0 }
    report :=
      { Report.reset with
        journal := { Ring.initial ⟨16, 12⟩ with fill := 3, writeIndex := 3, reserved := 2 }
        urgent := { Ring.initial ⟨16, 12⟩ with fill := 15, writeIndex := 15 }
        routine := Ring.initial ⟨16, 12⟩
        journalQueue := [⟨2, .applied, .none, none, none, false, 9, 4, none⟩]
        urgentQueue := [modeEvent .activating .run .activationDone, overrunEvent 7 1]
        causes := Cause.overrun.bit
        enables := 0 } }

/-- The same with no work for the ring writer, so that the take reader is granted. -/
def quiet (s : State) : State :=
  { s with report := { s.report with
      journal := { s.report.journal with initPending := false }
      urgent := { s.report.urgent with initPending := false }
      routine := { s.report.routine with initPending := false }
      journalQueue := [], urgentQueue := [], routineQueue := [] } }

/-- The same with the urgent ring's entry area cleared and its header written. -/
def cleared : State :=
  { busy with report := { busy.report with urgent := { busy.report.urgent with initPending := false, headerPending := false } } }

/-- A build of the posted slot, running for frame 1. -/
def runningBuild : BuildRecord :=
  { status := .running, target := 1, attempt := 0, draft := Layout.cleared, edits := [], takes := [⟨3, none⟩]
    inTake := none, named := [] }

/-- RUN with a build in flight. -/
def building (b : BuildRecord) : State :=
  { busy with
    takes := { TakeEngine.reset with slots := TakeEngine.reset.slots.set 3 { postedSlot with state := .building } }
    composer := { Composer.reset with build := some b }
    timing := { Timing.reset with planDone := true } }

/-- A property of the next state of a command. -/
def after (i : Instr) (s : State) (p : State → Bool) : Bool :=
  match exec i s with
  | .next t => p t
  | .fault _ => false
  | .refused _ => false

/-- The eight modes. -/
def modes : List Mode := [.starting, .config, .activating, .run, .hold, .fallback, .quiescing, .quiesced]

/-! The hypotheses of the statements are met (steps, invariants). -/

/-- The captured sections are placed as R133 and R178 say. -/
theorem capture_placed : capture.placed := by
  refine ⟨by decide, ?_, ?_, ?_, ?_, ?_⟩
  · intro n h1 h2; interval_cases n <;> decide
  · intro n h1 h2; interval_cases n <;> decide
  · intro n h1 h2; interval_cases n <;> decide
  · intro n h1 h2; interval_cases n <;> decide
  · intro k n h1 h2 h3; interval_cases n <;> interval_cases k <;> decide

/-- The mode controller is in order in a state under the capture with no activation in progress. -/
theorem modeOk_captured {s : State} (hc : s.modes.captured = some capture) (hp : s.modes.progress = .none)
    (hr : s.modes.reading = false) (hm : s.modes.mode ≠ .activating) 
    (ht : s.modes.supervision ≠ none → s.modes.mode = .run ∨ s.modes.mode = .hold) :
    s.modeOk where
  progress := ⟨fun h => absurd hp h, fun h => absurd h hm⟩
  reading := fun h => by rw [hr] at h; cases h
  supervision := ht
  captured := fun _ => by rw [hc]; simp
  placed := fun c h => by rw [hc] at h; cases h; exact capture_placed
  read := fun _ h => by rw [hp] at h; cases h
  passed := fun _ _ h => by rw [hp] at h; cases h

theorem modeOk_inMode {m : Mode} (h : m ≠ .activating) : (inMode m).modeOk :=
  modeOk_captured rfl rfl rfl h (fun h => absurd rfl h)

theorem busy_modeOk : busy.modeOk := modeOk_captured rfl rfl rfl (by decide) (fun _ => .inl rfl)

theorem busy_portOk : busy.portOk := ⟨fun h => absurd rfl h, fun h => (by cases h), fun h => (by cases h)⟩

/-- A window table in which no window but the first is visible keeps the rules of a layout when its tiles keep theirs. -/
theorem tableOk_one {g : Geometry} {cls : Nat → Nat} {ws : List WindowRec}
    (one : ∀ i, i ≠ 0 → (windowAt ws i).visible = false) (layers : ∀ k, k < g.tiles → (touching g ws k).length ≤ 8)
    (fetch : ∀ k, k < g.tiles → chargeOn g cls ws k ≤ 16)
    (pool : (ws.filter (fun w => w.scaled)).length ≤ 32 ∧ (ws.filter (fun w => w.scaled && !w.prot)).length ≤ 28)
    (routed : (windowAt ws 0).routed ≤ 43) : TableOk g cls ws := by
  have zero : ∀ i, (windowAt ws i).visible = true → i = 0 := fun i h => by
    by_contra hi; rw [one i hi] at h; cases h
  refine ⟨fun i j hi hj _ => by rw [zero i hi, zero j hj], ?_, layers, fetch, pool, fun i h => by rw [zero i h]; exact routed⟩
  intro i j hij hi _ hj
  exact absurd ((zero i hi).trans (zero j hj).symm) hij

theorem windowAt_beyond {ws : List WindowRec} (i : Nat) (h : ws.length ≤ i) : windowAt ws i = WindowRec.cleared := by
  unfold windowAt; rw [List.getD_eq_default _ _ h]

/-- Contexts are held as R14 says where only the first window is scaled and holds the first context. -/
theorem contextsOk_one {ws : List WindowRec} (one : ∀ i, i ≠ 0 → (windowAt ws i).scaled = false ∧ (windowAt ws i).ctx = none)
    (first : (windowAt ws 0).scaled = true ∧ (windowAt ws 0).ctx = some 0) : ContextsOk ws := by
  have zero : ∀ i c, (windowAt ws i).ctx = some c → i = 0 := fun i c h => by
    by_contra hi; rw [(one i hi).2] at h; cases h
  refine ⟨fun i => ?_, fun i c h => ?_, fun i j c h1 h2 => (zero i c h1).trans (zero j c h2).symm⟩
  · by_cases hi : i = 0
    · rw [hi, first.1, first.2]; simp
    · rw [(one i hi).1, (one i hi).2]; simp
  · rw [zero i c h, first.2] at h; cases h; decide

theorem windowAt_cleared (i : Nat) : windowAt Layout.cleared.windows i = WindowRec.cleared := by
  unfold windowAt Layout.cleared
  rw [List.getD_eq_getElem?_getD, List.getElem?_replicate]; split <;> rfl

theorem tableOk_cleared (cls : Nat → Nat) : TableOk ⟨0, 0⟩ cls Layout.cleared.windows :=
  tableOk_one (fun i _ => by rw [windowAt_cleared]; rfl) (fun k h => absurd h (Nat.not_lt_zero k))
    (fun k h => absurd h (Nat.not_lt_zero k)) (by decide) (by decide)

theorem contextsOk_cleared : ContextsOk Layout.cleared.windows := by
  refine ⟨fun i => ?_, fun i c h => ?_, fun i j c h => ?_⟩ <;> simp_all [windowAt_cleared, WindowRec.cleared, WindowRec.scaled]

/-- Of the fallback plan only the first window is visible, scaled and holds a context. -/
theorem plan_one (i : Nat) (h : i ≠ 0) : (windowAt image.fallbackPlan i).visible = false ∧
    (windowAt image.fallbackPlan i).scaled = false ∧ (windowAt image.fallbackPlan i).ctx = none := by
  by_cases hi : i < 64
  · have all : ∀ j < 64, j ≠ 0 → (windowAt image.fallbackPlan j).visible = false ∧
        (windowAt image.fallbackPlan j).scaled = false ∧ (windowAt image.fallbackPlan j).ctx = none := by decide +kernel
    exact all i hi h
  · rw [windowAt_beyond i (by have : image.fallbackPlan.length = 64 := by decide +kernel
                              omega)]
    exact ⟨rfl, rfl, rfl⟩

/-- ACTIVATING with the checks passed. -/
def passedChecks : State :=
  { decoding with
    modes := { ModeCtl.reset with mode := .activating, progress := .passed capture image.fallbackPlan, attempt := 1 } }

theorem passedChecks_modeOk : passedChecks.modeOk where
  progress := ⟨fun _ => rfl, fun _ h => (by cases h)⟩
  reading := fun h => (by cases h)
  supervision := fun h => absurd rfl h
  captured := fun h => (by cases h)
  placed := fun _ h => (by cases h)
  read := fun _ h => (by cases h)
  passed := fun c p h => by
    have : Progress.passed capture image.fallbackPlan = .passed c p := h
    injection this with h1 _; exact h1 ▸ capture_placed

theorem passedChecks_tablesOk : passedChecks.tablesOk where
  slots := by decide
  sources := by decide
  live := by decide
  draft := fun _ h => (by cases h)
  fallback := fun _ h => (by cases h)
  progress := by
    show capture.filters.length = _ ∧ capture.settings.length = _ ∧ image.fallbackPlan.length = _
    decide +kernel
  ports := by decide

theorem passedChecks_journalOk : ({ passedChecks with pending := [.boundary] } : State).journalOk where
  mode := ⟨passedChecks_modeOk.1, passedChecks_modeOk.2, passedChecks_modeOk.3, passedChecks_modeOk.4, passedChecks_modeOk.5,
    passedChecks_modeOk.6, passedChecks_modeOk.7⟩
  slots := rfl
  reserved := by decide
  atMost := by decide
  room := by decide
  waiting := ⟨by decide, fun _ h => (by cases h)⟩
  checking := fun _ h => (by cases h)
  inHand := fun _ => rfl
  named := fun _ h => (by cases h)
  passed := fun _ _ _ => ⟨rfl, rfl⟩
  idle := fun _ i hi => by
    have all : ∀ j < Config.slotCount, (passedChecks.slot j).state = .idle := by decide
    exact all i hi
  quiescing := fun h => (by cases h)
  building := fun i hi => by
    have all : ∀ j < Config.slotCount, ((passedChecks.slot j).state = .building ∧ passedChecks.finished j = false) ↔
      j ∈ passedChecks.buildSlots := by decide
    exact all i hi
  takeList := by decide
  build := fun h => absurd rfl h
  owed := fun _ => rfl

theorem passedChecks_layoutOk : passedChecks.layoutOk where
  live := ⟨tableOk_cleared _, contextsOk_cleared⟩
  draft := fun _ h => (by cases h)
  fallback := fun _ h => (by cases h)
  passed := fun c p h => by
    have : Progress.passed capture image.fallbackPlan = .passed c p := h
    injection this with h1 h2
    subst h1 h2
    refine ⟨tableOk_one (fun i hi => (plan_one i hi).1) ?_ ?_ (by decide +kernel) (by decide +kernel),
      contextsOk_one (fun i hi => (plan_one i hi).2) (by decide +kernel), by decide +kernel⟩
    · have all : ∀ k < 4, (touching ⟨2, 2⟩ image.fallbackPlan k).length ≤ 8 := by decide +kernel
      exact all
    · have all : ∀ k < 4, chargeOn ⟨2, 2⟩ capture.classOf image.fallbackPlan k ≤ 16 := by decide +kernel
      exact all
  plans := by
    refine ⟨fun _ h => (by cases h), fun q h => ?_⟩
    rw [List.eq_of_mem_replicate h]; decide
  external := fun h => absurd rfl h
  settings := fun _ h => (by cases h)
  internal := fun i h1 h2 => by
    have all : ∀ j < 44, 40 ≤ j → passedChecks.classOf j = 1 := by decide
    exact all i h2 h1
  early := fun _ => rfl
  owed := fun h => (by cases h)

theorem test_meets_step : { State.reset with pending := [.boundary, .planPoint] }.pending = .boundary :: [.planPoint] ∧
    State.reset.pending = [] ∧ fresh.pending = [] ∧ fresh.controllerMaster = none ∧ fresh.port.waiting = [] := by decide

theorem test_meets_memory : busy.memoryOk ∧ ∃ t, step { busy with pending := [.bar0Write 6208 [0, 5]] } = .next t :=
  ⟨by decide, _, rfl⟩

theorem test_meets_interrupt : ({ busy with pending := [.intEnable ⟨false, true⟩] } : State).interruptOk ∧
    ∃ t, step { busy with pending := [.intEnable ⟨false, true⟩] } = .next t :=
  ⟨⟨by decide, by decide, by decide⟩, _, rfl⟩

/-- The interrupt stands as its terms do in the states of the tests, whatever the mode. -/
theorem test_meets_delivery : (∀ m, (inMode m).interruptOk) ∧ fresh.interruptOk ∧ (quiet busy).interruptOk ∧ cleared.interruptOk ∧
    (building runningBuild).interruptOk ∧ (building runningBuild).journalDone.interruptOk ∧ passedChecks.interruptOk :=
  ⟨fun _ => ⟨rfl, rfl, fun h => (by cases h)⟩, ⟨rfl, rfl, fun h => (by cases h)⟩, ⟨rfl, rfl, fun h => (by cases h)⟩,
    ⟨rfl, rfl, fun h => (by cases h)⟩, ⟨rfl, rfl, fun h => (by cases h)⟩,
    ⟨by decide +kernel, by decide +kernel, by decide +kernel⟩, ⟨rfl, rfl, fun h => (by cases h)⟩⟩

/-- A refused request with every flag enabled and MSI on: the first sends a message, a second one none; none is sent where the
request clears the master enable, nor in STARTING, where no flag is set (R127, R172). -/
theorem test_step_delivery :
    let s := fun m : Mode => { inMode m with
      port := { decoding.port with pcie := ⟨true, true, true, false⟩ }
      report := { (inMode m).report with enables := 0x3FFF } }
    let refused := fun on : Bool => Instr.requestInvalid 6 ⟨false, false, on⟩
    after (refused true) (s .run) (fun t => t.port.msiSent == 1 && t.report.condition &&
      after (refused true) t (fun u => u.port.msiSent == 1)) = true ∧
    after (refused false) (s .run) (fun t => t.port.msiSent == 0 && t.causeSet .modeFail) = true ∧
    after (refused true) (s .starting) (fun t => t.port.msiSent == 0 && !t.report.condition) = true := by decide

theorem test_meets_eventRings : busy.eventRingsOk ∧ ∃ t, step { busy with pending := [.ringEntryWrite .urgent] } = .next t :=
  ⟨by decide, _, rfl⟩

theorem test_meets_sources : busy.sourcesOk ∧ ∃ t, step { busy with pending := [.activityLoss 0] } = .next t :=
  ⟨by decide, _, rfl⟩

theorem test_meets_modes : busy.modeOk ∧ ∃ t, step { busy with pending := [.supervisionExpiry] } = .next t :=
  ⟨busy_modeOk, _, rfl⟩

theorem test_meets_journal : ({ busy with pending := [.planPoint] } : State).journalOk ∧
    ∃ t, step { busy with pending := [.planPoint] } = .next t := by
  refine ⟨{ mode := modeOk_captured rfl rfl rfl (by decide) (fun _ => .inl rfl), slots := by decide, reserved := by decide,
            atMost := by decide, room := by decide, waiting := by decide, checking := fun _ h => (by cases h),
            inHand := fun _ => rfl, named := fun _ h => (by cases h), passed := fun _ _ h => (by cases h), idle := fun h => (by cases h),
            quiescing := fun h => (by cases h), building := ?_, takeList := by decide, build := fun h => absurd rfl h,
            owed := fun _ => rfl }, _, rfl⟩
  intro i hi
  have all : ∀ j < Config.slotCount, ((busy.slot j).state = .building ∧ busy.finished j = false) ↔ j ∈ busy.buildSlots := by
    decide
  exact all i hi

theorem test_meets_tables : busy.tablesOk ∧ ∃ t, step { busy with pending := [.boundary] } = .next t :=
  ⟨⟨by decide, by decide, by decide, fun _ h => (by cases h), fun _ h => (by cases h), trivial, by decide⟩, _, rfl⟩

/-- The layouts in order, and a step that brings a start layout into force. -/
theorem test_meets_layouts : let s := { passedChecks with pending := [.boundary] }
    s.journalOk ∧ s.tablesOk ∧ s.layoutOk ∧ ∃ t, step s = .next t :=
  ⟨passedChecks_journalOk, ⟨passedChecks_tablesOk.1, passedChecks_tablesOk.2, passedChecks_tablesOk.3, passedChecks_tablesOk.4,
    passedChecks_tablesOk.5, passedChecks_tablesOk.6, passedChecks_tablesOk.7⟩,
    ⟨passedChecks_layoutOk.1, passedChecks_layoutOk.2, passedChecks_layoutOk.3, passedChecks_layoutOk.4, passedChecks_layoutOk.5,
      passedChecks_layoutOk.6, passedChecks_layoutOk.7, passedChecks_layoutOk.8, passedChecks_layoutOk.9, passedChecks_layoutOk.10⟩,
    _, rfl⟩

/-- A read that is partly served at the head of the queue, and a write. -/
theorem test_meets_port :
    let r := { busy with pending := [.serve ⟨false, false⟩],
                         port := { busy.port with waiting := [.bar0Read 64 10], partRead := [1, 2] } }
    let w := { busy with pending := [], port := { busy.port with waiting := [.bar0Write 64 [1]], partLost := true } }
    r.portOk ∧ w.portOk ∧ (∃ t, step r = .next t) ∧ ∃ t, step w = .next t :=
  ⟨⟨fun _ => ⟨64, 10, rfl⟩, fun h => (by cases h), fun h => (by cases h)⟩,
    ⟨fun h => absurd rfl h, fun _ => ⟨64, [1], rfl⟩, fun h => (by cases h)⟩, ⟨_, rfl⟩, ⟨_, rfl⟩⟩

/-! Resets, the link, the port. -/

/-- The places of the tables, a byte that is not listed, and a section of a map. -/
theorem test_meets_lookups : busy.takes.slots[3]? = some postedSlot ∧ busy.sources[0]? = some lockedSource ∧
    busy.composer.live.windows[0]? = some shownWindow ∧ busy.composer.live.windows[64]? = none ∧
    (∀ c ∈ busy.ram, c.1 ≠ 4097) ∧ wall[2 - 1]? = some ⟨6208, 12800⟩ := by decide

theorem test_meets_clear : State.reset.modes.mode = .starting ∧ (inMode .run).modes.mode ≠ .starting := by decide

theorem test_meets_linkReset : busy.takes.slots.length = Config.slotCount ∧ busy.takes.checking = none := by decide

theorem test_meets_softReset : (∀ m ∈ modes, (inMode m).accepts (.softReset ⟨true, true⟩)) ∧
    fresh.accepts (.softReset ⟨false, false⟩) ∧ busy.sources.length = Config.allSources ∧
    fresh.modes.captured = none ∧ busy.modes.captured = some capture := by decide

theorem test_meets_switches : State.reset.port.linkUp = true ∧
    ({ State.reset with port := { ExchangePort.reset with linkUp := false } } : State).port.linkUp = false := by decide

theorem test_meets_notClaimed : isAccess (.post 1) = true ∧ isAccess (.bar0Write 262143 [1]) = true ∧
    isAccess (.bar0Read 0 262144) = true ∧ 262143 + [(1 : Byte)].length ≤ 262144 ∧ State.reset.claims = false ∧
    decoding.claims = true := by decide

/-- Behind a write that is held, a held write, behind a POST in hand, and a SLOTREQ write during post checks. -/
theorem test_meets_waits :
    let held := { decoding with port := { decoding.port with holdArea := some ⟨4096, 64⟩ } }
    let behind := { held with port := { held.port with waiting := [.bar0Write 4096 [1]] } }
    let inHand := { busy with takes := { busy.takes with checking := some 0, toHandle := [1] } }
    let checking := { busy with takes := { busy.takes with checking := some 0 } }
    (∀ j ∈ (behind.port.waiting ++ [.serve ⟨false, false⟩]).head?, behind.blocked j = true) ∧
    (∀ j ∈ (held.port.waiting ++ [.bar0Write 4100 [1]]).head?, held.blocked j = true) ∧
    (∀ j ∈ (inHand.port.waiting ++ [.causeWrite 1]).head?, inHand.blocked j = true) ∧
    (∀ j ∈ (checking.port.waiting ++ [.cancel 1]).head?, checking.blocked j = true) ∧
    behind.claims = true ∧ held.claims = true ∧ inHand.claims = true ∧ checking.claims = true := by decide

/-- The handing on of an event: before a capture, by the first entry that holds its kind and index, by the default action, by one
that discards, and into a ring with a place and a full one. -/
theorem test_meets_events :
    let e := overrunEvent 7 1
    let holds : FilterEntry := ⟨true, 0x10, 0, 63, .urgent⟩
    let filters := fun l : List FilterEntry => { busy with composer := { busy.composer with
      live := { busy.composer.live with filters := l } } }
    let full := { busy with report := { busy.report with routineQueue := [], routine := { busy.report.routine with fill := 16 } } }
    fresh.modes.captured = none ∧ busy.modes.captured = some capture ∧ capture.defaultAction = .routine ∧
    (filters [holds]).handEvent e = { filters [holds] with report := { busy.report with
      urgentQueue := busy.report.urgentQueue ++ [e] } } ∧
    (filters [{ holds with action := .discard }, holds]).handEvent e = filters [{ holds with action := .discard }, holds] ∧
    (busy.handEvent e).report.routineQueue = [e] ∧ (full.handEvent e).report.routine.gap = 1 ∧
    (full.handEvent e).causeSet .eventsLost = true := by decide +kernel

/-- An access that asks for its turn behind a controller grant: a write and a read, in one block and in two. -/
theorem test_meets_turn : ∀ i ∈ ([.bar0Write 63 [1], .bar0Write 63 [1, 2], .bar0Read 63 1, .bar0Read 63 2] : List Instr),
    let s := { busy with port := { busy.port with waiting := [i] } }
    s.portAsks = true ∧ s.lastServed = .controller ∧ ({ s with lastServed := .exchangePort } : State).lastServed ≠ .controller ∧
    busy.portAsks = false := by decide

theorem test_meets_bar0 : (inMode .run).accepts (.bar0Write 262143 [1]) ∧ decoding.accepts (.bar0Write 0 [1]) ∧
    (inMode .run).accepts (.bar0Read 262143 1) ∧ decoding.accepts (.bar0Read 0 1) ∧ Config.ramSize < 262143 + 2 ∧
    262143 + 1 ≤ Config.ramSize ∧ (inMode .run).grantSpan 262143 1 = 1 ∧ decoding.grantSpan 0 1 = 1 := by decide

/-- The bytes that take no grant: those of sections 3 to 10 under a captured map, and none without one. And what a write has done
by its next grant: up to the end of its first block; with the block behind it, or before it, where that is wholly
controller-owned; and with both. -/
theorem test_meets_grantSpans :
    let s := inMode .run
    (∀ a ∈ [19008, 27647], s.controllerOwns a = true) ∧
    (∀ a ∈ [0, 4096, 6208, 19007, 27648, 262143], s.controllerOwns a = false) ∧ fresh.controllerOwns 19008 = false ∧
    s.grantSpan 63 2 = 1 ∧ s.grantSpan 19007 2 = 2 ∧ s.grantSpan 27647 2 = 2 ∧ s.grantSpan 27647 66 = 65 ∧
    s.grantSpan 19008 320 = 320 ∧ fresh.grantSpan 19007 2 = 1 := by decide +kernel

/-- A write in the controller-owned sections after a grant to the port, while the ring writer asks (R182): it is discarded at once
and flagged, and the port stays the side served last; behind it a write to the scratch waits. One of which the first byte lies
there and the second does not asks for a grant. -/
theorem test_meets_grantless :
    let s := { inMode .run with lastServed := .exchangePort }
    let queued := { s with port := { s.port with waiting := [.bar0Write 19008 [1, 2]] } }
    s.accepts (.bar0Write 19008 [1, 2]) ∧ s.controllerMaster = some .ringWriter ∧ queued.portAsks = false ∧
    (List.range 2).all (fun k => s.controllerOwns (19008 + k)) = true ∧
    after (.bar0Write 19008 [1, 2]) s (fun t => decide (t.lastServed = .exchangePort) && t.port.waiting.isEmpty &&
      t.causeSet .writeViolation && decide (t.ram = s.ram) &&
      after (.bar0Write 27648 [1]) t (fun u => decide (u.port.waiting = [.bar0Write 27648 [1]]))) = true ∧
    s.serving (.bar0Write 27647 [1, 2]) = .waits ∧ s.controllerOwns (27647 + 1) = false := by decide +kernel

/-- A controller master asks in RUN with ring work to do, and of an access across two blocks one is served, or none after a grant
to the port; none asks in CONFIG before the first activation. -/
theorem test_meets_blocks : (inMode .run).portOk ∧ fresh.portOk ∧
    (inMode .run).lastServed ≠ .exchangePort ∧
    ({ inMode .run with lastServed := .exchangePort } : State).accepts (.bar0Write 63 [1, 2]) ∧
    ({ inMode .run with lastServed := .exchangePort } : State).accepts (.bar0Read 63 2) ∧
    ({ inMode .run with lastServed := .exchangePort } : State).serving (.bar0Read 63 2) = .waits ∧
    (inMode .run).accepts (.bar0Write 63 [1, 2]) ∧ (inMode .run).controllerMaster ≠ none ∧ (inMode .run).grantSpan 63 2 < [(1 : Byte), 2].length ∧
    (inMode .run).controllerOwns 63 = false ∧
    63 + 2 ≤ Config.ramSize ∧ (inMode .run).accepts (.bar0Read 63 2) ∧ (inMode .run).modes.mode ≠ .starting ∧
    fresh.controllerMaster = none ∧ fresh.accepts (.bar0Write 63 [1, 2]) ∧ fresh.modes.mode ≠ .starting ∧
    (inMode .run).serving (.bar0Read 63 2) = .part (.bar0Read 63 1) (.bar0Read 64 1) ∧
    fresh.serving (.bar0Read 63 2) = .whole ∧ (inMode .run).blocked (.bar0Read 63 2) = false := by
  refine ⟨⟨fun h => absurd rfl h, fun h => (by cases h), fun h => (by cases h)⟩,
    ⟨fun h => absurd rfl h, fun h => (by cases h), fun h => (by cases h)⟩, ?_⟩
  decide

/-- Each master stands first in some state, and each side is served last in some state. -/
theorem test_meets_masters : (inMode .run).controllerMaster = some .ringWriter ∧
    State.reset.controllerMaster = some .commitWriter ∧
    ({ quiet (inMode .run) with status := { StatusWriter.reset with headerWrites := [.frame 1] } } : State).controllerMaster =
      some .commitWriter ∧
    ({ fresh with modes := { fresh.modes with reading := true } } : State).controllerMaster = some .takeReader ∧
    ({ fresh with takes := { TakeEngine.reset with checking := some 0 } } : State).controllerMaster = some .takeReader ∧
    ({ inMode .run with report := Report.reset, status := { StatusWriter.reset with toRewrite := [4] } } : State).controllerMaster =
      some .statusWriter ∧
    (inMode .run).grant true = some .exchangePort ∧
    ({ inMode .run with lastServed := .exchangePort } : State).grant true = some .ringWriter := by decide

/-- ACTIVATING under the capture, with a configuration in check that places the fallback record elsewhere. -/
def activatingAgain : State :=
  { inMode .activating with
    modes := { ModeCtl.reset with
      mode := .activating, attempt := 2, captured := some capture
      progress := .checking { image with map := wall.set 0 ⟨32768, 2112⟩ } } }

theorem activatingAgain_modeOk : activatingAgain.modeOk where
  progress := ⟨fun _ => rfl, fun _ h => (by cases h)⟩
  reading := fun h => (by cases h)
  supervision := fun h => absurd rfl h
  captured := fun h => (by cases h)
  placed := fun c h => by
    have : some capture = some c := h
    cases this; exact capture_placed
  read := fun c h => by
    have : Progress.checking { image with map := wall.set 0 ⟨32768, 2112⟩ } = .checking c := h
    cases this; rfl
  passed := fun _ _ h => (by cases h)

/-- Addresses of each row of R180's table, in the modes the rows tell apart: the configuration section, beyond it with no map,
the fallback record, the one in check, the first and the last controller-owned byte, a slot that is POSTED, one whose take has
finished, an IDLE one, one with its post in hand, and scratch behind the last section. -/
theorem test_meets_ownership : (∀ m : Mode, m ≠ .activating → (inMode m).modeOk) ∧ activatingAgain.modeOk ∧
    (∀ a ∈ [4096, 6207], ∀ m ∈ modes, (inMode m).driverMayWrite a = decide (m = .config)) ∧
    (∀ a ∈ [0, 4095], ∀ m ∈ modes, (inMode m).driverMayWrite a = decide (m = .config)) ∧
    fresh.driverMayWrite 4096 = true ∧ fresh.driverMayWrite 262143 = true ∧
    activatingAgain.driverMayWrite 32768 = false ∧ activatingAgain.driverMayWrite 34879 = false ∧
    activatingAgain.driverMayWrite 34880 = true ∧ activatingAgain.driverMayWrite 6208 = true ∧
    (∀ a ∈ [19008, 27647], ∀ m ∈ modes, (inMode m).driverMayWrite a = false) ∧
    (∀ a ∈ [6208, 19007, 27648], ∀ m ∈ modes, (inMode m).driverMayWrite a = decide (m ≠ .starting)) ∧
    busy.driverMayWrite (6208 + 2400) = false ∧ busy.driverMayWrite (6208 + 1600) = false ∧ busy.driverMayWrite (6208 + 1599) = true ∧
    ({ busy with takes := { busy.takes with checking := some 1 } } : State).driverMayWrite (6208 + 1599) = false ∧
    ({ inMode .config with takes := busy.takes } : State).driverMayWrite (6208 + 2400) = true := by
  refine ⟨fun m h => modeOk_inMode h, activatingAgain_modeOk, ?_⟩
  decide +kernel

theorem test_meets_fallbackRead :
    let held := { fresh with port := { fresh.port with holdArea := some ⟨4096, 64⟩ }, modes := { fresh.modes with reading := true } }
    held.modes.reading = true ∧ held.takes.checking = none ∧ held.readerGranted = true ∧ held.port.waiting = [] ∧
    held.takes.toHandle = [] ∧ held.modes.mode ≠ .starting ∧ fresh.controllerMaster = none ∧ fresh.modes.reading = false ∧
    busy.readerGranted = false := by decide

/-! MODECTL, SLOTREQ, RELEASE, causes. -/

/-- Every MODECTL, SLOTREQ, RELEASE and cause access is taken as it arrives, in every mode. -/
theorem test_meets_accepts : ∀ m ∈ modes, ∀ i ∈ ([.requestRun ⟨true, true, true⟩, .requestHold ⟨false, false, true⟩,
    .requestFallback ⟨false, true, false⟩, .requestQuiesce ⟨false, false, false⟩, .requestConfig ⟨false, false, false⟩,
    .requestInvalid 6 ⟨true, false, false⟩, .serve ⟨false, false⟩, .overridePermit ⟨true, false⟩, .intEnable ⟨false, true⟩,
    .post 0, .post 9, .cancel 8, .slotreqNoAction 0 1, .release 0 1, .release 2 2047, .release 3 0, .causeWrite 5,
    .causeenWrite 7, .nextcauseRead 0x1C 4, .nextcauseRead 0x19 4, .nextcauseRead 0x1F 1, .nextcauseWrite 0,
    .registerWriteDiscarded 0x00 4, .registerWriteDiscarded 0x08 4, .registerWriteDiscarded 0x20 4,
    .registerWriteDiscarded 0x0C 2] : List Instr), (inMode m).accepts i := by decide +kernel

theorem test_meets_requests : (building runningBuild).accepts (.requestHold ⟨false, false, false⟩) ∧
    (building runningBuild).buildSlots.Nodup ∧
    (∀ i ∈ (building runningBuild).buildSlots, ((building runningBuild).slot i).state = .building ∧ i < Config.slotCount) ∧
    (building runningBuild).takes.slots.length = Config.slotCount ∧ (building runningBuild).modes.mode = .run := by decide

theorem test_meets_postChecks :
    let s := quiet { busy with takes := { busy.takes with checking := some 0, toHandle := [4, 15] } }
    s.takes.checking = some 0 ∧ s.finished 0 = false ∧ s.readerGranted = true ∧ s.port.waiting = [] ∧
    s.takes.slots.length = Config.slotCount ∧ (∀ j ∈ 0 :: s.takes.toHandle, j < Config.slotCount) ∧ s.takes.behindBuild = false ∧ busy.takes.checking = none ∧
    busy.readerGranted = false := by decide

/-- Post checks that stand behind a build read, and a build read that stands behind post checks. -/
theorem test_meets_order :
    let s := fun b => quiet { building runningBuild with
      takes := { (building runningBuild).takes with checking := some 0, behindBuild := b } }
    (s true).takes.behindBuild = true ∧ (s true).composer.build = some runningBuild ∧ runningBuild.status = .running ∧
    (∃ k ∈ runningBuild.takes, k.result = none) ∧ (s false).takes.checking = some 0 ∧ (s false).finished 0 = false ∧
    (s false).takes.behindBuild = false ∧ (s false).readerGranted = true ∧
    exec .postChecksComplete (s true) = .next (s true) ∧ exec .buildTakeCheck (s false) = .next (s false) :=
  ⟨rfl, rfl, rfl, ⟨_, .head _, rfl⟩, rfl, rfl, rfl, rfl, rfl, rfl⟩

/-- A POSTED slot to cancel with no post in hand, a BUILDING one, an IDLE one and one whose take has finished; and a read of
NEXTCAUSE with no flag enabled. -/
theorem test_meets_cancel : busy.takes.slots.length = Config.slotCount ∧ (busy.slot 3).state = .posted ∧
    busy.finished 3 = false ∧ busy.takes.checking = none ∧ ((building runningBuild).slot 3).state = .building ∧
    (quiet (building runningBuild)).finished 3 = false ∧ (busy.slot 5).state = .idle ∧ busy.finished 2 = true ∧
    busy.causeSet .overrun = true ∧ busy.nextCode = 0 ∧
    (∀ k < 14, (busy.report.causes &&& busy.report.enables).getLsbD k = false) := by decide

/-- A POST in hand at a link reset, its checks ended and not. -/
theorem test_meets_linkPost :
    let s := { busy with takes := { busy.takes with checking := some 5, toHandle := [6] } }
    let ended := { s with report := { s.report with
      journalQueue := [⟨5, .rejected, .badCount, none, none, false, 0, 6, none⟩] } }
    s.takes.checking = some 5 ∧ s.finished 5 = false ∧ ended.takes.checking = some 5 ∧ ended.finished 5 = true ∧
    s.takes.slots.length = Config.slotCount := by decide

theorem test_meets_release : (2 : BitVec 2).toNat = (match RingId.routine with | .journal => 0 | .urgent => 1 | .routine => 2) ∧
    (1 : BitVec 2).toNat = (match RingId.urgent with | .journal => 0 | .urgent => 1 | .routine => 2) ∧
    (0 : BitVec 2).toNat = (match RingId.journal with | .journal => 0 | .urgent => 1 | .routine => 2) := by decide

/-! Activation. -/

theorem test_activation_passes : image.failure none = none ∧ image.filters.length = Config.filterCount ∧
    (∀ i, image.settings[i]? = some ⟨true, 1, 255, 100⟩ ↔ i < 40) := by
  refine ⟨by decide +kernel, by decide, fun i => ?_⟩
  show (List.replicate 40 _)[i]? = _ ↔ _
  rw [List.getElem?_replicate]; split <;> simp_all

/-- The first rows of R133, each with its code and index. -/
theorem test_activation_first :
    ({ image with cols := 9, rate := 1 } : ConfigImage).failure none = some (.geometry, 0) ∧
    ({ image with rate := 50001, lead := 1 } : ConfigImage).failure none = some (.rate, 0) ∧
    ({ image with lead := 2500 } : ConfigImage).failure none = some (.planLead, 0) := by decide

/-- The later rows of R133, each with its code and index. -/
theorem test_activation_codes :
    ({ image with urgent := ⟨16, 17⟩ } : ConfigImage).failure none = some (.ringParam, 1) ∧
    ({ image with map := wall.set 9 ⟨262080, 320⟩ } : ConfigImage).failure none = some (.sectionRange, 10) ∧
    ({ image with map := wall.set 0 ⟨4104, 2104⟩ } : ConfigImage).failure none = some (.sectionAlign, 1) ∧
    ({ image with map := wall.set 1 ⟨6208, 12736⟩ } : ConfigImage).failure none = some (.sectionSize, 2) ∧
    ({ image with map := wall.set 2 ⟨0, 320⟩ } : ConfigImage).failure none = some (.sectionOverlap, 3) ∧
    ({ image with map := wall.set 0 ⟨32768, 2112⟩ } : ConfigImage).failure (some (wall.set 9 ⟨32768, 320⟩)) =
      some (.sectionOverlap, 1) ∧
    ({ image with settings := image.settings.set 7 ⟨true, 1, 7, 0⟩ } : ConfigImage).failure none = some (.sourceParam, 7) ∧
    ({ image with defaultAction := 3 } : ConfigImage).failure none = some (.filterParam, 16) ∧
    ({ image with startSelector := 2 } : ConfigImage).failure none = some (.startLayout, 0) ∧
    ({ image with fallbackCount := 65 } : ConfigImage).failure none = some (.fallbackEntry, 0) ∧
    ({ image with fallbackEntries := [showEntry, { showEntry with window := 1 }] } : ConfigImage).failure none =
      some (.fallbackLayout, 1) := by decide +kernel

/-- ACTIVATING with the checks of attempt 1 in hand. -/
def activating (c : ConfigImage) : State :=
  { decoding with modes := { ModeCtl.reset with mode := .activating, progress := .checking c, attempt := 1 } }

theorem test_meets_checks : (activating image).modes.mode = .activating ∧
    (activating image).modes.progress = .checking image ∧ (activating image).modes.attempt = 1 ∧
    (activating image).takes.checking = none ∧
    (activating image).readerGranted = true ∧ image.failure (activating image).map = none ∧
    ({ image with rate := 1 } : ConfigImage).failure none = some (.rate, 0) := by decide +kernel

theorem test_meets_checksIgnored : (∀ c, busy.modes.progress ≠ .checking c) ∧ (activating image).modes.attempt ≠ 2 ∧
    ({ busy with takes := { busy.takes with checking := some 0 } } : State).takes.checking ≠ none :=
  ⟨fun _ h => (by cases h), by decide, by decide⟩

/-! Plan points, builds, boundaries. -/

theorem test_meets_planPoint : busy.timing.planDone = false ∧ busy.modes.mode = .run ∧ busy.composer.fallbackOwed = false ∧
    busy.takes.slots.length = Config.slotCount ∧ (busy.slotsOf (fun r => r.considered 1)) = [3] ∧ (inMode .hold).timing.planDone = false ∧
    (building runningBuild).timing.planDone = true := by decide

/-- An IDLE slot may keep a sequence of any distance. -/
theorem test_meets_gathering :
    let s := { busy with takes := { busy.takes with slots := busy.takes.slots.set 9 { SlotRec.empty with seq := 0x8005 } } }
    (∀ i, i < Config.slotCount → (s.slot i).state = .posted ∧ s.finished i = false ∧ passed (s.slot i).due 1 = true →
      ((s.slot i).seq - 5).toNat < 2 ^ 15) ∧ s.gathered 1 = [3] := by decide

/-- A substitute edit of each kind: for a window in NONE, and for one that shows its backup; and a restore edit. -/
theorem test_meets_edits :
    let w := busy.composer.live.windows
    let lost := { busy with sources := busy.sources.set 0 { lockedSource with state := .absent } }
    let backed := { shownWindow with sub := .backup, shown := 40 }
    0 < w.length ∧ (windowAt w 0).visible = true ∧ (windowAt w 0).routed = 0 ∧ (windowAt w 0).sub = .none ∧
    (busy.source 0).state = .locked ∧ (lost.source 0).state ≠ .locked ∧ lost.fitBackup w 0 = some 40 ∧
    ({ lost with sources := lost.sources.set 40 lockedSource } : State).fitBackup
      (w.set 0 { shownWindow with loss := .slate }) 0 = none ∧
    backed.sub = .backup ∧ backed.visible = true ∧ backed.restore = .auto ∧ (lost.source backed.shown).state = .locked ∧
    (windowAt w 1).visible = false := by decide +kernel

theorem test_meets_buildTake : (building runningBuild).composer.build = some runningBuild ∧ runningBuild.status = .running ∧
    runningBuild.takes = [] ++ ⟨3, none⟩ :: [] ∧ (quiet (building runningBuild)).readerGranted = true ∧
    (∀ k ∈ ([] : List BuildTake), k.result ≠ none) ∧
    busy.composer.build = none := by decide

/-- The entries of a build's take: one left that passes, one left that fails, one that has failed, and none left. -/
theorem test_meets_entryGrants :
    let s := fun (r : Memory) (p : Option TakeCheck) => quiet { building { runningBuild with inTake := p } with ram := r }
    let hide : Memory := [(8640, 6)]
    let failed : TakeCheck := ⟨0, Layout.cleared, some .badKind⟩
    let ended : TakeCheck := ⟨1, Layout.cleared, none⟩
    (((s hide none).grantTo .takeReader).composer.build.bind (·.inTake)) = some ended ∧
    (((s [] none).grantTo .takeReader).composer.build.bind (·.inTake)) = some failed ∧
    ((s [] (some failed)).grantTo .takeReader).composer = (s [] (some failed)).composer ∧
    ((s hide (some ended)).grantTo .takeReader).composer = (s hide (some ended)).composer ∧
    (Memory.entries hide ((s hide none).slotStart 3) ((s hide none).slot 3).header.count).length = 1 ∧
    (s hide none).readerGranted = true := by decide +kernel

theorem test_meets_entries : entryKind showEntry.kind = some .show ∧ entryKind 6 = some .hide ∧ entryKind 9 = some .filter ∧
    showEntry.window < Layout.cleared.windows.length := by decide

/-- The build with its take checked, and READY. -/
def checkedBuild : BuildRecord := { runningBuild with takes := [⟨3, some ⟨true, .none, none, none⟩⟩] }
def readyBuild : BuildRecord := { checkedBuild with status := .ready }

theorem test_meets_buildComplete : checkedBuild.status = .running ∧ (∀ k ∈ checkedBuild.takes, k.result ≠ none) ∧
    checkedBuild.attempt ≠ 1 ∧ ∃ k ∈ runningBuild.takes, k.result = none := by decide

/-- A live table with one scaled window, and a draft that scales a second. -/
def liveWindows : List WindowRec := busy.composer.live.windows
def draftWindows : List WindowRec := liveWindows.set 5 { shownWindow with ctx := none, rank := 2 }

theorem liveWindows_ctx_none (i : Nat) (h : i ≠ 0) : (windowAt liveWindows i).ctx = none := by
  by_cases hi : i < 64
  · have all : ∀ j < 64, j ≠ 0 → (windowAt liveWindows j).ctx = none := by decide +kernel
    exact all i hi h
  · have hl : liveWindows.length = 64 := by decide
    unfold windowAt
    rw [List.getD_eq_default _ _ (by omega)]
    rfl

theorem test_meets_contexts : liveWindows.length = draftWindows.length ∧ scalersExhausted draftWindows = false ∧
    (∀ i c, (windowAt liveWindows i).ctx = some c → c < Config.scalerContexts) ∧
    (∀ i, (windowAt liveWindows i).scaled = true → (windowAt liveWindows i).ctx ≠ none) ∧
    (∀ i j c, (windowAt liveWindows i).ctx = some c → (windowAt liveWindows j).ctx = some c → i = j) ∧
    (windowAt liveWindows 0).scaled = true ∧ (windowAt draftWindows 0).scaled = true ∧
    (windowAt draftWindows 5).scaled = true := by
  have zero : ∀ i c, (windowAt liveWindows i).ctx = some c → i = 0 := fun i c h => by
    by_contra hi; rw [liveWindows_ctx_none i hi] at h; cases h
  have first : (windowAt liveWindows 0).ctx = some 0 := by decide
  refine ⟨by decide, by decide +kernel, ?_, ?_, ?_, by decide, by decide, by decide⟩
  · intro i c h
    rw [zero i c h, first] at h; cases h; decide
  · intro i h hc
    by_cases hi : i = 0
    · rw [hi, first] at hc; cases hc
    · by_cases h64 : i < 64
      · have all : ∀ j < 64, j ≠ 0 → (windowAt liveWindows j).scaled = false := by decide +kernel
        rw [all i h64 hi] at h; cases h
      · have hl : liveWindows.length = 64 := by decide
        unfold windowAt at h
        rw [List.getD_eq_default _ _ (by omega)] at h
        cases h
  · intro i j c h1 h2
    rw [zero i c h1, zero j c h2]

theorem test_meets_idleBoundary : busy.composer.build = none ∧ busy.composer.fallbackOwed = false ∧
    busy.modes.mode ≠ .quiescing ∧ busy.modes.mode ≠ .activating ∧ busy.ports.length = Config.tilePorts := by decide

/-- Header writes that wait, with the ring writer idle, and above a take reader that reads. -/
theorem test_meets_commitWriter :
    let s := { quiet busy with status := { StatusWriter.reset with headerWrites := [.marker .tilePlans, .frame 7] } }
    let reads := { s with takes := { s.takes with checking := some 0 } }
    s.map = some wall ∧ s.status.frameWaits = true ∧ s.readerGranted = true ∧ 3 ∉ s.status.toRewrite ∧
    s.status.slotHeaderDirty = false ∧ reads.writerGranted = false ∧ reads.readerGranted = true ∧
    busy.status.headerWrites = [] := by decide

theorem test_meets_commit : ∀ b ∈ [readyBuild, runningBuild], (building b).composer.build = some b ∧
    (building b).composer.fallbackOwed = false ∧ (building b).modes.mode ≠ .activating ∧
    (building b).ports.length = Config.tilePorts ∧ (b.takes.map (·.slot)).Nodup ∧ (building b).map = some wall ∧
    (∀ k ∈ b.takes, k.slot < (building b).takes.slots.length) ∧ readyBuild.status = .ready := by decide

/-- FALLBACK with its commit owed. -/
def owed : State :=
  { inMode .fallback with composer := { Composer.reset with fallbackOwed := true, fallbackPlan := some image.fallbackPlan } }

theorem test_meets_fallbackCommit : owed.composer.fallbackOwed = true ∧ owed.composer.fallbackPlan = some image.fallbackPlan ∧
    owed.ports.length = Config.tilePorts := ⟨rfl, rfl, by decide⟩

theorem test_meets_activationEnd : passedChecks.modes.mode = .activating ∧
    passedChecks.modes.progress = .passed capture image.fallbackPlan ∧ passedChecks.modeOk ∧ passedChecks.tablesOk ∧
    passedChecks.layoutOk ∧ capture.rate ≠ passedChecks.timing.rate :=
  ⟨rfl, rfl, passedChecks_modeOk, passedChecks_tablesOk, passedChecks_layoutOk, by decide⟩

/-- A commit, an overrun that is the third, and a fallback commit, each with its mode in order, in QUIESCING as well. -/
theorem test_meets_quiescing :
    let quiesces := fun s : State => { s with modes := { s.modes with mode := .quiescing, supervision := none } }
    (building readyBuild).modeOk ∧ (quiesces (building readyBuild)).modeOk ∧ owed.modeOk ∧ (quiesces owed).modeOk ∧
    (quiesces (building readyBuild)).modes.mode = .quiescing ∧ (quiesces owed).modes.mode = .quiescing ∧
    (quiesces owed).report.journalQueue = [] ∧
    (quiesces (building runningBuild)).modes.mode ≠ .activating ∧
    (building runningBuild).modes.mode = .run ∧
    3 ≤ min 255 (({ (building runningBuild).composer with overruns := 2 } : Composer).overruns + 1) :=
  ⟨modeOk_captured rfl rfl rfl (by decide) (fun _ => .inl rfl), modeOk_captured rfl rfl rfl (by decide) (fun h => absurd rfl h),
    modeOk_captured rfl rfl rfl (by decide) (fun h => absurd rfl h), modeOk_captured rfl rfl rfl (by decide) (fun h => absurd rfl h),
    rfl, rfl, rfl, by decide, rfl, by decide⟩

/-! Status writer, rings, sources, timing. -/

/-- Grants to the ring writer and to the status writer with no block left to write: no work, and a work whose blocks all stand. -/
theorem test_meets_noBlock :
    let idle := quiet (inMode .run)
    let ended := { quiet (inMode .run) with
      report := { idle.report with ringJob := some (.clear .urgent, 4) }
      status := { StatusWriter.reset with job := some (.source 0, 2) } }
    idle.report.ringJob = none ∧ idle.report.nextRingJob = none ∧ idle.status.job = none ∧ idle.status.next = none ∧
    (ended.ringBlocks (.clear .urgent))[4]? = none ∧ (ended.statusBlocks (.source 0))[2]? = none ∧
    ({ StatusWriter.reset with slotDirty := 1, sourceDirty := 1 } : StatusWriter).next = none := by decide +kernel

/-- The bounds of R117, the rounding of R118 and the period of each reference state (R112). -/
theorem test_meets_periods :
    let t := fun (r : RefState) (m : Option Time) => { Timing.reset with rate := .r59940, ref := r, measured := m }
    [198999, 199000, 201000, 201001].map (goodInterval .r50000) = [false, true, true, false] ∧
    [165998, 165999, 167667, 167668].map (goodInterval .r59940) = [false, true, true, false] ∧
    [165833, 165834, 167500, 167501].map (goodInterval .r60000) = [false, true, true, false] ∧
    meanInterval [1, 2] = 2 ∧ meanInterval [1, 1, 2] = 1 ∧ (t .freerun none).period = 166833 ∧
    (t .locked (some 166700)).period = 166700 ∧ (t .holdover (some 166700)).period = 166700 := by decide

theorem test_meets_statusWriter :
    let s := quiet { busy with status := { StatusWriter.reset with
      windowsPending := true, plansPending := true, filtersPending := true
      slotHeaderDirty := true, slotDirty := 0x8001, sourceDirty := 1 } }
    s.map = some wall ∧ s.writerGranted = true ∧ busy.writerGranted = false ∧ (∀ k, s.status.rewriting k = true) ∧
    s.status.sourceDirty.getLsbD (0 : Fin 44).val = true ∧
    s.status.slotHeaderDirty = true ∧ s.status.slotDirty.getLsbD (15 : Fin 16).val = true ∧ s.status.toRewrite = [] ∧
    fresh.map = none ∧ (∀ k, busy.status.rewriting k = false) ∧
    (∀ n ∈ [3, 4, 5, 6, 7], n ∈ (busy.softReset).status.toRewrite) ∧ s.status.next = some (.mirror .windowTable) ∧
    ({ StatusWriter.reset with sourceDirty := 0x0C } : StatusWriter).next = some (.source 2) := by
  refine ⟨by decide, by decide, by decide, ?_, by decide, by decide, by decide, by decide, by decide, ?_, by decide⟩ <;>
    (intro k; cases k <;> decide)

/-- A work in hand whose next block stands to be written, of the status writer and of the ring writer; and the source record that
stands next, one in hand before one of a lower index. -/
theorem test_meets_works :
    let w := { StatusWriter.reset with sourceDirty := 0x0C, job := some (.source 3, 1) }
    let s := quiet { busy with status := w }
    let r := { inMode .run with report := { (inMode .run).report with ringJob := some (.clear .journal, 7) } }
    ((s.statusBlocks (.source 3))[1]?).isSome = true ∧ (s.statusLeft (.source 3)).length = 1 ∧ w.nextSource = some 3 ∧
    ({ w with job := none } : StatusWriter).nextSource = some 2 ∧ s.writerGranted = true ∧
    s.status.sourceDirty.getLsbD (3 : Fin 44).val = true ∧ 6 ∉ s.status.toRewrite ∧
    ((r.ringBlocks (.clear .journal))[7]?).isSome = true ∧ (r.ringLeft (.clear .journal)).length = 1 ∧
    (r.report.written (.entry .journal)) = 0 := by decide +kernel

theorem test_meets_ringEntry : busy.map = some wall ∧ busy.report.journalQueue ≠ [] ∧
    (∀ e ∈ busy.report.journalQueue, e.slot < busy.takes.slots.length) ∧ busy.takes.toHandle = [] ∧
    busy.takes.checking = none ∧ RingId.urgent ≠ .journal ∧
    busy.report.queue .urgent = modeEvent .activating .run .activationDone :: [overrunEvent 7 1] ∧
    busy.report.queue .routine = [] ∧ fresh.report.journalQueue = [] ∧
    (let r := { (quiet busy).report with journalQueue := busy.report.journalQueue, urgentQueue := busy.report.urgentQueue };
      r.journal.initPending = false ∧ r.journal.headerPending = false ∧ r.journalQueue.map (·.slot) = [2] ∧
      r.urgent.initPending = false ∧ r.urgent.headerPending = false ∧ (r.queue .urgent).length = 2) := by decide

theorem test_meets_ringHeader : ((inMode .run).report.ring .urgent).initPending = true ∧
    (State.reset.report.ring .urgent).initPending = false ∧ (State.reset.report.ring .urgent).headerPending = false ∧
    fresh.map = none ∧ fresh.report.ringJob = none ∧
    ({ fresh with report := { Report.reset with urgent := { Ring.none with headerPending := true } } } : State).report.urgent.headerPending =
      true := by decide

/-- A grant that begins a work and one that goes on with it, of the ring writer and of the status writer. -/
theorem test_meets_grants :
    let s := quiet { busy with status := { StatusWriter.reset with filtersPending := true } }
    (inMode .run).report.ringJob = none ∧ (inMode .run).report.nextRingJob = some (.clear .journal) ∧
    ((inMode .run).ringBlocks (.clear .journal)).length = 8 ∧
    ((inMode .run).grantTo .ringWriter).report.ringJob = some (.clear .journal, 1) ∧
    (((inMode .run).grantTo .ringWriter).ringLeft (.clear .journal)).length = 7 ∧
    s.status.job = none ∧ s.status.next = some (.mirror .filterList) ∧ (s.statusBlocks (.mirror .filterList)).length = 5 ∧
    (s.grantTo .statusWriter).status.job = some (.mirror .filterList, 1) ∧
    ((s.grantTo .statusWriter).statusLeft (.mirror .filterList)).length = 4 := by decide +kernel

/-- A source in each state, with and without activity. -/
theorem test_meets_sourcesTable : busy.sources.length = Config.allSources ∧ (busy.source 0).activity = true ∧
    (busy.source 1).activity = false ∧ (busy.source 0).state = .locked ∧
    (∀ st ∈ ([.disabled, .absent, .acquiring, .locked, .overclass, .lossHold] : List SourceState),
      let s := { busy with sources := sourcesReset.set 0 { lockedSource with state := st, holdEnd := some 900 } }
      s.sources.length = Config.allSources ∧ (s.source 0).state = st ∧ (s.source 0).holdEnd = some 900) := by decide

/-- A first frame, whose period is left out, a later one, and one without the period that is due; periods at the edge of the band
and beyond it. -/
theorem test_meets_frames :
    let m : Measurement := ⟨1280, 720, .progressive, none, some 40000⟩
    let framed := { lockedSource with framed := true }
    lockedSource.reports m = true ∧ (lockedSource.measures m).period = none ∧ framed.reports m = true ∧ framed.measures m = m ∧
    framed.reports { m with period := none } = false ∧ candidateMatches m { m with period := some 40400 } = true ∧
    candidateMatches m { m with period := some 40401 } = false ∧ candidateMatches m { m with tag := some 0 } = false ∧
    candidateMatches m { m with period := none } = true ∧ lockedSource.frameMatches { m with period := some 16667 } = true ∧
    lockedSource.frameMatches m = false ∧ lockedSource.stableAfter m = 1 ∧
    ({ lockedSource with stable := 2, candidate := some m } : SourceRec).stableAfter m = 3 := by decide

/-- Timing in FREERUN with seven good intervals; an arrival that is not good, and the eighth good one. -/
def sevenGood : Timing := { Timing.reset with goodRun := 7, runIntervals := List.replicate 7 166667, prevArrival := some 1000000 }

theorem test_meets_reference : sevenGood.ref ≠ .locked ∧ (sevenGood.runAfter 1100000).1 < 8 ∧
    8 ≤ (sevenGood.runAfter 1166667).1 := by decide

/-- The three clauses of a lock at time 1,166,667: near in HOLDOVER, early in the frame, and late in it. -/
theorem test_meets_realignments :
    let at' := fun (ref : RefState) (last : Time) =>
      { busy with timing := { sevenGood with ref := ref, lastBoundary := last, nextBoundary := last + 166667 } }
    let near := fun s : State => s.timing.ref = .holdover ∧ 200 * min (distance 1166667 s.timing.lastBoundary)
      (distance 1166667 s.timing.nextBoundary) ≤ meanInterval (s.timing.runAfter 1166667).2
    (∀ r ∈ [RefState.freerun, .holdover], ∀ last ∈ [1000100, 1150000, 1083333, 1083334],
      (at' r last).timing.ref ≠ .locked ∧ 8 ≤ ((at' r last).timing.runAfter 1166667).1 ∧
        meanInterval ((at' r last).timing.runAfter 1166667).2 = 166667) ∧
    near (at' .holdover 1000100) ∧ ¬ near (at' .freerun 1000100) ∧
    (¬ near (at' .holdover 1083334) ∧ 2 * (1166667 - (at' .holdover 1083334).timing.lastBoundary) < 166667) ∧
    (¬ near (at' .holdover 1083333) ∧ 166667 ≤ 2 * (1166667 - (at' .holdover 1083333).timing.lastBoundary)) ∧
    (∀ c plan, busy.modes.progress ≠ .passed c plan) ∧
    ∀ c plan, ({ at' .freerun 1083333 with modes := activatingAgain.modes } : State).modes.progress ≠ .passed c plan := by
  refine ⟨by decide, by decide, by decide, by decide, by decide, ?_, ?_⟩ <;> intro _ _ h <;> cases h

/-- LOCKED with a prediction; arrivals at the edges of the window and outside it. -/
theorem test_meets_window :
    let t : Timing := { Timing.reset with ref := .locked, measured := some 166667, prediction := some 2000000 }
    t.ref = .locked ∧ t.prediction = some 2000000 ∧ 200 * distance 2000833 2000000 ≤ t.measured.getD t.rate.nominal ∧
    200 * distance 1999167 2000000 ≤ t.measured.getD t.rate.nominal ∧
    t.measured.getD t.rate.nominal < 200 * distance 2000834 2000000 := by decide

theorem test_meets_holdover :
    let t : Timing := { Timing.reset with ref := .holdover, holdoverStart := some 5 }
    t.ref = .holdover ∧ t.holdoverStart = some 5 ∧ t.ref ≠ .locked ∧ Timing.reset.ref ≠ .holdover := by decide

theorem test_meets_supervision : busy.modes.supervision = some 0 ∧ busy.modes.captured = some capture ∧
    busy.takes.slots.length = Config.slotCount ∧ busy.buildSlots.Nodup ∧
    (∀ i ∈ busy.buildSlots, (busy.slot i).state = .building ∧ i < Config.slotCount) ∧
    fresh.modes.supervision = none := by decide

theorem test_meets_serial : passed 500 502 = true ∧ passed 0xFFFFFFF0 5 = true ∧ earlier 0xFFFFFFF0 5 = true ∧
    passed 6 5 = false ∧ seqLower 0xFFFF 0 = true ∧ seqLower 0 0x8000 = true ∧ seqLower 0x8000 0 = false := by decide

/-! One step of each command. -/

theorem test_powerOnReset : after .powerOnReset busy (fun t => t == State.reset) = true := by decide +kernel

theorem test_ramClearComplete : after .ramClearComplete State.reset (fun t =>
    t.modes.mode == .config && t.registerValue 0x00 == 0x84412899) = true := by decide +kernel

theorem test_linkReset : after (.linkReset .perst) busy (fun t =>
    !t.port.linkUp && (t.slot 3).state == .posted && t.finished 3 && t.report.journalQueue.map (·.outcome) == [.applied, .abandoned] &&
      t.report.causes == 0 && t.modes.supervision == some 0) = true := by decide +kernel

theorem test_linkReturn : after .linkReturn { State.reset with port := { ExchangePort.reset with linkUp := false } } (fun t =>
    t == State.reset) = true := by decide +kernel

theorem test_pcieConfigChange : after (.pcieConfigChange ⟨true, false, false, false⟩) State.reset (fun t =>
    t == decoding) = true := by decide +kernel

/-- Of eight bytes across the end of the fallback record, which is the end of a block, the four beyond it are the driver's in RUN:
the first block is lost, and the rest waits for a grant behind the ring writer. -/
theorem test_bar0Write : after (.bar0Write 6204 [1, 2, 3, 4, 5, 6, 7, 8]) (inMode .run) (fun t =>
    t.ram == [] && t.port.partLost && t.port.waiting == [.bar0Write 6208 [5, 6, 7, 8]] && !t.causeSet .writeViolation &&
      t.tick.ram == [(6208, 5), (6209, 6), (6210, 7), (6211, 8)] && t.tick.causeSet .writeViolation && !t.tick.port.partLost) =
    true := by decide +kernel

/-- A read torn by the write of an entry: its second block is read after that and before the ring's header, for it waits for no
more than one grant of a controller master. -/
theorem test_bar0Read : after (.bar0Read 4095 2) busy (fun t =>
    t.port.partRead == [0] && t.port.waiting == [.bar0Read 4096 1] && t.tick.port.completion == [0, 7]) = true ∧
    after (.bar0Read 27007 2) cleared (fun t => t.port.partRead == [0] &&
      after (.ringEntryWrite .urgent) t (fun u => u.port.completion == [0, 0] && u.port.partRead == [] &&
        u.ram.find? (fun c => c.1 == 27008) == some (27008, 16))) = true ∧
    after (.bar0Read 27311 2) { cleared with lastServed := .exchangePort, port := { cleared.port with
        waiting := [.bar0Read 27312 1] } } (fun t => t.port.waiting == [.bar0Read 27312 1, .bar0Read 27311 2] &&
      after (.ringEntryWrite .urgent) t (fun u => u.port.completion == [0, 6])) = true := by
  decide +kernel

theorem test_bar0_outside : exec (.bar0Read 262143 2) busy = .fault .outsideBar0 ∧
    exec (.bar0Write 262143 [1, 2]) busy = .fault .outsideBar0 := ⟨rfl, rfl⟩

theorem test_fallbackRecordReadDone : after .fallbackRecordReadDone
    { fresh with modes := { fresh.modes with reading := true }
                 port := { fresh.port with holdArea := some ⟨4096, 64⟩, waiting := [.bar0Write 4096 [9]] } } (fun t =>
    t.ram == [(4096, 9)] && t.port.waiting == [] && t.port.holdArea == none) = true := by decide +kernel

theorem test_softReset : after (.softReset ⟨true, true⟩) busy (fun t =>
    t.modes.mode == .config && t.modes.captured == some capture && t.takes == TakeEngine.reset &&
      t.registerValue 0x08 == 0x000002C0) = true := by decide +kernel

theorem test_requestRun : after (.requestRun ⟨false, false, false⟩) (inMode .config) (fun t =>
    t.modes.mode == .activating && t.modes.attempt == 1) = true := by decide +kernel

theorem test_requestHold : after (.requestHold ⟨false, false, false⟩) (building runningBuild) (fun t =>
    t.modes.mode == .hold && (t.slot 3).state == .posted && t.composer.build == none && t.causeSet .holdEntered) = true := by
  decide +kernel

theorem test_requestFallback : after (.requestFallback ⟨false, false, false⟩) busy (fun t =>
    t.modes.mode == .fallback && t.composer.fallbackOwed && t.causeSet .fallbackEntered && t.report.journalQueue == [] &&
      t.report.journal.fill == 5 && t.busyCount == 0 && Memory.read t.ram (26432 + 64 + 32 * 3) == 2 &&
      Memory.read t.ram (26432 + 64 + 32 * 4) == 3) = true := by decide +kernel

theorem test_requestQuiesce : after (.requestQuiesce ⟨false, false, false⟩) busy (fun t =>
    t.modes.mode == .quiesced && t.causeSet .modeReached && t.modes.supervision == none && t.busyCount == 0 &&
      t.report.journal.fill == 5) = true := by decide +kernel

theorem test_requestConfig : after (.requestConfig ⟨false, false, false⟩) busy (fun t =>
    t.modes.mode == .quiesced && t.causeSet .modeFail) = true := by decide +kernel

theorem test_requestInvalid : after (.requestInvalid 7 ⟨false, true, false⟩) busy (fun t =>
    t.modes.mode == .run && t.causeSet .modeFail && t.modes.permit) = true := by decide +kernel

theorem test_serve : after (.serve ⟨false, false⟩) { busy with now := 77 } (fun t =>
    t.modes.supervision == some 77) = true := by decide +kernel

theorem test_overridePermit : after (.overridePermit ⟨true, false⟩) busy (fun t =>
    t.registerValue 0x04 == 0x100 && t.modes.supervision == some 0) = true := by decide +kernel

/-- The legacy line follows the master enable. -/
theorem test_intEnable : after (.intEnable ⟨false, true⟩) { busy with report := { busy.report with enables := 0x3FFF } } (fun t =>
    t.port.line && t.report.condition && t.registerValue 0x04 == 0x200) = true := by decide +kernel

/-- Slot 3 is busy; slot 5 takes the place that is left. -/
theorem test_post : after (.post 0x28) busy (fun t =>
    (t.slot 3).lastRefusal == .busy && t.takes.checking == some 5 && t.causeSet .slotRefused &&
      t.report.journal.reserved == 3) = true := by decide +kernel

/-- The header of slot 5 is all zero, so its count fails; its place in the journal and the slot are held until the entry counts.
-/
theorem test_postChecksComplete : let s := quiet { busy with takes := { busy.takes with checking := some 5 } }
    after .postChecksComplete s (fun t =>
      t.takes.checking == some 5 && t.report.journalQueue.map (·.reason) == [.badCount] && t.report.journal.fill == 3 &&
        after (.ringEntryWrite .journal) t (fun u =>
          u.takes.checking == none && u.report.journal.fill == 4 && u.report.journal.reserved == 1)) = true := by decide +kernel

theorem test_cancel : after (.cancel 0x28) busy (fun t =>
    (t.slot 3).state == .idle && (t.slot 3).lastRefusal == .none && t.report.journal.fill == 5 && t.report.journalQueue == [] &&
      (t.slot 5).lastRefusal == .notPosted && t.causeSet .slotRefused) = true := by decide +kernel

/-- A POST behind the cancel finds the slot IDLE. -/
theorem test_cancelThenPost : after (.cancel 8) busy (fun t => after (.post 8) t (fun u =>
    u.takes.checking == some 3 && (u.slot 3).lastRefusal == .none)) = true := by decide +kernel

theorem test_slotreqNoAction : after (.slotreqNoAction 0 0xFFFF) { busy with now := 5 } (fun t =>
    t.modes.supervision == some 5 && t.takes == busy.takes) = true := by decide +kernel

/-- R151's example: a release of 4 from a ring that counts 3 empties it and sets RELEASE_ERROR. -/
theorem test_release : after (.release 0 4) busy (fun t =>
    t.report.journal.fill == 0 && t.report.journal.releaseIndex == 3 && t.causeSet .releaseError) = true := by decide +kernel

theorem test_causeWrite : after (.causeWrite 0x80) busy (fun t => t.report.causes == 0) = true := by decide +kernel

theorem test_causeenWrite : after (.causeenWrite 0xFFFFFFFF) busy (fun t => t.registerValue 0x18 == 0x3FFF) = true := by
  decide +kernel

theorem test_nextcauseRead : after (.nextcauseRead 0x1C 4) { busy with report := { busy.report with enables := 0x3FFF } } (fun t =>
    t.port.completion == [8, 0, 0, 0] && !t.causeSet .overrun) = true := by decide +kernel

theorem test_nextcauseWrite : after (.nextcauseWrite 0) busy (fun t => t.report.causes == 0) = true := by decide +kernel

theorem test_registerWriteDiscarded : after (.registerWriteDiscarded 0x10 2) busy (fun t =>
    t.causeSet .writeViolation && t.report.journal == busy.report.journal) = true := by decide +kernel

theorem test_activationChecksComplete : after (.activationChecksComplete 1) (activating image) (fun t =>
    t.modes.progress == .passed capture image.fallbackPlan) = true ∧
    after (.activationChecksComplete 1) (activating { image with rate := 1 }) (fun t =>
      t.modes.mode == .config && t.modes.failCode == .rate && t.causeSet .activationFailed) = true := by decide +kernel

theorem test_planPoint : after .planPoint busy (fun t =>
    (t.slot 3).state == .building && (t.composer.build.map (·.target)) == some 1 && t.now == 146667) = true := by decide +kernel

/-- A take of one entry that hides window 0: it applies to a draft of cleared windows, and it fails as a whole layout on a draft
with two windows of one rank. -/
theorem test_buildTakeCheck_layout :
    let s := fun d : Layout => quiet { building { runningBuild with draft := d } with ram := [(8640, 6)] }
    after .buildTakeCheck (s Layout.cleared) (fun t =>
      (t.composer.build.map (·.takes)) == some [⟨3, some ⟨true, .none, none, none⟩⟩]) = true ∧
    after .buildTakeCheck (s { Layout.cleared with windows :=
        (Layout.cleared.windows.set 1 shownWindow).set 2 { shownWindow with rect := ⟨700, 0, 64, 36⟩ } }) (fun t =>
      (t.composer.build.map (·.takes)) == some [⟨3, some ⟨false, .rankClash, none, none⟩⟩]) = true := by decide +kernel

/-- The slot's first entry is all zero, so its kind fails. -/
theorem test_buildTakeCheck : after .buildTakeCheck (quiet (building runningBuild)) (fun t =>
    (t.composer.build.map (·.takes)) == some [⟨3, some ⟨false, .badKind, some 0, none⟩⟩]) = true := by decide +kernel

theorem test_buildComplete : after (.buildComplete 1 0) (building checkedBuild) (fun t =>
    (t.composer.build.map (·.status)) == some .ready) = true := by decide +kernel

theorem test_boundary_commit : after .boundary (building readyBuild) (fun t =>
    t.composer.epoch == 1 && (t.slot 3).state == .building && t.finished 3 && t.timing.frame == 1 && t.now == 166667 &&
      t.report.journalQueue.map (·.outcome) == [.applied, .applied]) = true := by decide +kernel

theorem test_boundary_overrun : after .boundary (building runningBuild) (fun t =>
    t.composer.overruns == 1 && (t.slot 3).state == .posted && t.composer.epoch == 0) = true := by decide +kernel

theorem test_boundary_fallback : after .boundary owed (fun t =>
    !t.composer.fallbackOwed && (windowAt t.composer.live.windows 0).visible &&
      (t.ports.map (·.plan.length)).take 5 == [1, 0, 0, 0, 0]) = true := by decide +kernel

theorem test_boundary_activation : after .boundary passedChecks (fun t =>
    t.modes.mode == .run && t.causeSet .modeReached && t.modes.supervision == some 166667 && t.timing.rate == .r50000 &&
      (t.source 0).state == .absent) = true := by decide +kernel

theorem test_mirrorRewriteDone : after (.mirrorRewriteDone .filterList)
    { quiet (inMode .run) with status := { StatusWriter.reset with filtersPending := true }
                               composer := { Composer.reset with epoch := 0x0A0B } } (fun t =>
    !t.status.filtersPending && t.ram.take 2 == [(26112, 0x0B), (26113, 0x0A)]) = true := by decide +kernel

theorem test_sourceRecordPublished : after (.sourceRecordPublished 0)
    { quiet busy with ram := [], status := { StatusWriter.reset with sourceDirty := 1 } } (fun t =>
    t.status.sourceDirty == 0 && t.status.changeCount == 1 && t.ram.take 2 == [(24640, 1), (24705, 3)]) = true := by decide +kernel

theorem test_slotTableWritten : after (.slotTableWritten (.record 3))
    { quiet busy with ram := [], status := { StatusWriter.reset with slotDirty := 8 } } (fun t =>
    t.status.slotDirty == 0 && t.ram.take 1 == [(19120, 1)]) = true := by decide +kernel

/-- The second event waits for a ring that the first one fills, and is lost. -/
theorem test_ringEntryWrite : after (.ringEntryWrite .urgent) busy (fun t =>
    t.report.urgent.fill == 16 && t.report.urgent.gap == 1 && t.report.urgentQueue == [] && t.causeSet .eventsLost &&
      Memory.read t.ram (27008 + 64 + 16 * 15) == 6) = true := by decide +kernel

theorem test_ringHeaderRewrite : after (.ringHeaderRewrite .journal) busy (fun t =>
    !t.report.journal.headerPending && t.report.journal.fill == 3) = true := by decide +kernel

theorem test_activityArrival : after (.activityArrival 1)
    { busy with sources := sourcesReset.set 1 { SourceRec.external with state := .absent } } (fun t =>
    (t.source 1).state == .acquiring) = true := by decide +kernel

theorem test_activityLoss : after (.activityLoss 0) busy (fun t =>
    (t.source 0).state == .lossHold && (t.source 0).holdEnd == some 10000000) = true := by decide +kernel

/-- The third matching frame locks the source: a period of 40,000 µs is 25,000 millihertz (R80). -/
theorem test_frameArrival :
    let m : Measurement := ⟨1280, 720, .progressive, none, some 40000⟩
    after (.frameArrival 0 m) { busy with
        sources := sourcesReset.set 0 { SourceRec.external with state := .acquiring, activity := true, stable := 2,
                                                                candidate := some m, settings := ⟨true, 1, none, 0⟩,
                                                                framed := true } } (fun t =>
      (t.source 0).state == .locked && ((t.source 0).qualified.map (·.rate)) == some 25000 && (t.source 0).lockCount == 1) =
      true := by decide +kernel

theorem test_frameTimeout : after (.frameTimeout 0) busy (fun t =>
    (t.source 0).state == .lossHold && t.now == 10000000) = true := by decide +kernel

theorem test_lossHoldExpiry : after (.lossHoldExpiry 0)
    { busy with sources := sourcesReset.set 0 { lockedSource with state := .lossHold, holdEnd := some 900 } } (fun t =>
    (t.source 0).state == .absent && (t.source 0).lossCount == 1 &&
      t.composer.pendingEdits.map (·.cause) == [.routedLoss] && t.now == 900) = true := by decide +kernel

/-- The eighth good interval, half a period after the boundary, takes the next boundary at the pulse. -/
theorem test_referenceArrival : after (.referenceArrival 1166667) { busy with
    timing := { sevenGood with lastBoundary := 1083333, nextBoundary := 1250000, planDone := true } } (fun t =>
    t.timing.ref == .locked && t.timing.frame == 1 && t.timing.lastBoundary == 1166667 &&
      t.timing.nextBoundary == 1333334 && t.causeSet .timingChange) = true := by decide +kernel

theorem test_missingPulse : after .missingPulse { busy with
    timing := { Timing.reset with ref := .locked, measured := some 166667, prediction := some 2000000, missingRun := 1 } } (fun t =>
    t.timing.ref == .holdover && t.timing.holdoverStart == some 2000833) = true := by decide +kernel

theorem test_holdoverExpiry : after .holdoverExpiry { busy with
    timing := { Timing.reset with ref := .holdover, holdoverStart := some 5 } } (fun t =>
    t.timing.ref == .freerun && t.now == 100000005 && t.causeSet .timingChange) = true := by decide +kernel

theorem test_supervisionExpiry : after .supervisionExpiry busy (fun t =>
    t.modes.mode == .fallback && t.now == 10000000 && t.composer.fallbackOwed) = true := by decide +kernel

theorem test_tick : step (quiet busy) = .next { quiet busy with now := 1 } := rfl

/-- A tick serves one block: the ring writer begins to clear the journal's entry area. -/
theorem test_tick_grants : (match step busy with
    | .next t => t.now == 1 && t.report.ringJob == some (.clear .journal, 1)
    | _ => false) = true := by decide +kernel

/-- A finished take keeps its slot and its place in the journal until its entry counts. -/
theorem test_entry_counts : busy.finished 2 = true ∧ after (.ringEntryWrite .journal) busy (fun t =>
    (t.slot 2).state == .idle && t.report.journal.fill == 4 && t.report.journal.reserved == 1) = true := by decide +kernel

/-- A POST in hand whose entry the entry to FALLBACK writes goes on under RUN: its further slot is accepted (log 10). -/
theorem test_requestFallback_post :
    let s := { busy with
      takes := { TakeEngine.reset with checking := some 2, toHandle := [3] }
      report := { busy.report with journal := { busy.report.journal with reserved := 1 } } }
    let t := s.fallbackRequest
    t.modes.mode = .fallback ∧ t.takes.checking = some 3 ∧ (t.slot 3).lastRefusal = .none := by decide +kernel

/-! Byte layouts (R190 to R193). -/

/-- A fragment without a scaler context. -/
def fragment : Fragment := ⟨1, 2, 4, none, ⟨0, 0, 640, 480⟩, ⟨0, 0, 1280, 720⟩⟩

/-- A slot record, an applied edit's event and a plan's tile block, byte by byte from the tables. -/
theorem test_layouts_written :
    slotRecordBytes postedSlot = [1, 0, 0, 0, 5, 0, 0, 0, 0, 0, 0, 0, 0, 0, 0, 0] ∧
    eventBytes (editEvent ⟨0, .substitute, 7, 0, .backupLoss⟩ .backup .slate 40 1) 2 1 =
      [3, 7, 1, 2, 2, 0, 0, 0, 40, 2, 0, 0, 1, 0, 0, 0] ∧
    [fragment].length ≤ 8 ∧ (tileBlockBytes [fragment]).take 36 = [1, 4, 0, 0, 0, 0, 0, 0, 0, 0, 0, 0, 0, 0, 0, 0,
      1, 2, 4, 255, 0, 0, 0, 0, 128, 2, 224, 1, 0, 0, 0, 0, 0, 5, 208, 2] := by decide +kernel

/-- An entry read from bytes written out from the table (R192). -/
theorem test_layout_entry :
    (Memory.entry (Memory.write [] 64 [1, 0, 0, 1, 0x10, 0, 0, 0, 0, 0, 0, 0, 128, 2, 224, 1]) 64) =
      { showEntry with filter := ⟨false, 0, 0, 0, 0x0280⟩ } := by decide +kernel

/-- The spec's own check codes (R40). -/
theorem test_checkCodes : crc [0x31, 0x32, 0x33, 0x34, 0x35, 0x36, 0x37, 0x38, 0x39] = 0x29B1 ∧ crc [0] = 0xE1F0 := by
  decide +kernel

end Sys2Proof.Tests
end

