-- ==== Sys2Proof/Proofs/Edits.lean ====
section
/-! PROOF. How a build resolves the part's own edits (R102 to R106). -/

namespace Sys2Proof.Machine

/-! The window table. -/

theorem windowAt_set_self {ws : List WindowRec} {i : Nat} (w : WindowRec) (h : i < ws.length) :
    windowAt (ws.set i w) i = w := by
  simp [windowAt, h]

theorem indexed_eq_map_range (ws : List WindowRec) :
    indexed ws = (List.range ws.length).map (fun i => (windowAt ws i, i)) := by
  apply List.ext_getElem
  · simp [indexed]
  · intro i h _
    have hi : i < ws.length := by simpa [indexed] using h
    simp [indexed, windowAt, hi]

/-! The fetch charge of a tile (R19, R20). The model sorts the windows of a tile by rank; a sum does not depend on their order. -/

theorem insertByRank_perm (p : WindowRec × Nat) (l : List (WindowRec × Nat)) : (insertByRank p l).Perm (p :: l) := by
  induction l with
  | nil => exact .refl _
  | cons q l ih =>
    unfold insertByRank
    split
    · exact .refl _
    · exact (ih.cons q).trans (.swap p q l)

theorem foldr_insertByRank_perm (l : List (WindowRec × Nat)) : (l.foldr insertByRank []).Perm l := by
  induction l with
  | nil => exact .refl _
  | cons p l ih => exact (insertByRank_perm p _).trans (ih.cons p)

theorem windowsOn_perm_touching (g : Geometry) (ws : List WindowRec) (t : Nat) :
    (windowsOn ws (g.tileRect t)).Perm ((touching g ws t).map (fun i => (windowAt ws i, i))) := by
  refine (foldr_insertByRank_perm _).trans (.of_eq ?_)
  simp [visibleOf, touching, indexed_eq_map_range, List.filter_map, List.filter_filter, Function.comp_def, Bool.and_comm]

theorem tileCharge_eq_chargeOn (g : Geometry) (cls : Nat → Nat) (ws : List WindowRec) (t : Nat) :
    tileCharge g cls ws t = chargeOn g cls ws t := by
  unfold tileCharge
  rw [((windowsOn_perm_touching g ws t).map _).sum_eq]
  simp [chargeOn, WindowRec.charge, Function.comp_def]

theorem fetchFits_iff (g : Geometry) (cls : Nat → Nat) (ws : List WindowRec) (i : Nat) :
    fetchFits g cls ws i = true ↔
      ∀ t, t < g.tiles → (windowAt ws i).rect.overlaps (g.tileRect t) = true → chargeOn g cls ws t ≤ 16 := by
  simp [fetchFits, tileCharge_eq_chargeOn, ← Bool.not_eq_true, ← imp_iff_not_or]

/-! The backup that is fit (R104). -/

theorem State.fitBackup_eq_some_iff (s : State) {ws : List WindowRec} {i : Nat} (h : i < ws.length) (b : Nat) :
    s.fitBackup ws i = some b ↔
      (s.source (windowAt ws i).routed).settings.backup = some b ∧ (windowAt ws i).loss = .follow ∧
      (s.source b).state = .locked ∧
      (∀ tag, (windowAt ws i).expectedTag = some tag → (s.source b).qualified.bind (·.tag) = some tag) ∧
      (∀ t, t < s.geometry.tiles → (windowAt ws i).rect.overlaps (s.geometry.tileRect t) = true →
        chargeOn s.geometry s.classOf (ws.set i ((windowAt ws i).substituted .backup b)) t ≤ 16) := by
  have fits : ∀ c, fetchFits s.geometry s.classOf (ws.set i ((windowAt ws i).substituted .backup c)) i = true ↔
      ∀ t, t < s.geometry.tiles → (windowAt ws i).rect.overlaps (s.geometry.tileRect t) = true →
        chargeOn s.geometry s.classOf (ws.set i ((windowAt ws i).substituted .backup c)) t ≤ 16 := by
    intro c
    rw [fetchFits_iff, windowAt_set_self _ h]
    rfl
  cases hb : (s.source (windowAt ws i).routed).settings.backup with
  | none => simp [State.fitBackup, hb]
  | some c =>
    suffices s.fitBackup ws i = some b ↔ c = b ∧ (windowAt ws i).loss = .follow ∧ (s.source c).state = .locked ∧
        (∀ tag, (windowAt ws i).expectedTag = some tag → (s.source c).qualified.bind (·.tag) = some tag) ∧
        fetchFits s.geometry s.classOf (ws.set i ((windowAt ws i).substituted .backup c)) i = true by
      rw [this, fits, Option.some.injEq]
      exact and_congr_right fun hcb => by rw [hcb]
    cases ht : (windowAt ws i).expectedTag <;> simp [State.fitBackup, hb, ht] <;> tauto

/-! The rows of the tables for an edit that is not stale (R103, R105). -/

theorem SourceState.present_iff (x : SourceState) : x.present = true ↔ x = .locked ∨ x = .lossHold := by
  cases x <;> simp [SourceState.present]

section
variable {s : State} {ws : List WindowRec} {i : Nat}

theorem State.resolveSubstitute_back (hsub : (windowAt ws i).sub = .none)
    (h : (s.source (windowAt ws i).routed).state.present = true) : s.resolveSubstitute ws i = none := by
  simp [State.resolveSubstitute, hsub, h]

theorem State.resolveSubstitute_fit {b : Nat} (hsub : (windowAt ws i).sub = .none)
    (h : (s.source (windowAt ws i).routed).state.present = false) (hb : s.fitBackup ws i = some b) :
    s.resolveSubstitute ws i = some (.backup, b) := by
  simp [State.resolveSubstitute, hsub, h, hb]

theorem State.resolveSubstitute_unfit (hsub : (windowAt ws i).sub = .none)
    (h : (s.source (windowAt ws i).routed).state.present = false) (hb : s.fitBackup ws i = none) :
    s.resolveSubstitute ws i = some (.slate, Config.slate) := by
  simp [State.resolveSubstitute, hsub, h, hb]

theorem State.resolveSubstitute_return (hsub : (windowAt ws i).sub = .backup)
    (h : (s.source (windowAt ws i).routed).state = .locked) :
    s.resolveSubstitute ws i = some (.none, (windowAt ws i).routed) := by
  simp [State.resolveSubstitute, hsub, h]

theorem State.resolveSubstitute_backupBack (hsub : (windowAt ws i).sub = .backup)
    (h : (s.source (windowAt ws i).routed).state ≠ .locked)
    (hb : (s.source (windowAt ws i).shown).state.present = true) : s.resolveSubstitute ws i = none := by
  simp [State.resolveSubstitute, hsub, h, hb]

theorem State.resolveSubstitute_backupLost (hsub : (windowAt ws i).sub = .backup)
    (h : (s.source (windowAt ws i).routed).state ≠ .locked)
    (hb : (s.source (windowAt ws i).shown).state.present = false) :
    s.resolveSubstitute ws i = some (.slate, Config.slate) := by
  simp [State.resolveSubstitute, hsub, h, hb]

theorem State.resolveSubstitute_slate (hsub : (windowAt ws i).sub = .slate) : s.resolveSubstitute ws i = none := by
  simp [State.resolveSubstitute, hsub]

theorem State.resolveRestore_eq_some (hsub : (windowAt ws i).sub ≠ .none) (ha : (windowAt ws i).restore = .auto)
    (h : (s.source (windowAt ws i).routed).state = .locked) :
    s.resolveRestore ws i = some (.none, (windowAt ws i).routed) :=
  if_pos ⟨hsub, ha, h⟩

theorem State.resolveRestore_eq_none (h : (windowAt ws i).sub = .none ∨ (windowAt ws i).restore ≠ .auto ∨
    (s.source (windowAt ws i).routed).state ≠ .locked) : s.resolveRestore ws i = none :=
  if_neg (by tauto)

end

/-! One edit (R102), and the edit set (R53, R106). -/

theorem Edit.stale_iff (e : Edit) (ws : List WindowRec) :
    e.stale ws = true ↔ (windowAt ws e.window).visible = false ∨ (windowAt ws e.window).routed ≠ e.routed := by
  simp [Edit.stale]

/-- What the table of an edit's kind gives for the edit, none when it is dropped (R103, R105). -/
def State.editResult (s : State) (ws : List WindowRec) (e : Edit) : Option (SubState × Nat) :=
  match e.kind with
  | .substitute => s.resolveSubstitute ws e.window
  | .restore => s.resolveRestore ws e.window

section
variable {s : State} {ws : List WindowRec} {e : Edit}

theorem State.editResult_substitute (h : e.kind = .substitute) : s.editResult ws e = s.resolveSubstitute ws e.window := by
  simp [State.editResult, h]

theorem State.editResult_restore (h : e.kind = .restore) : s.editResult ws e = s.resolveRestore ws e.window := by
  simp [State.editResult, h]

theorem State.resolveEdit_of_stale (h : e.stale ws = true) : s.resolveEdit ws e = (ws, .dropped) := if_pos h

theorem State.resolveEdit_of_none (h : s.editResult ws e = none) : s.resolveEdit ws e = (ws, .dropped) := by
  cases hk : e.kind with
  | substitute =>
    rw [State.editResult_substitute hk] at h
    simp [State.resolveEdit, hk, h]
  | restore =>
    rw [State.editResult_restore hk] at h
    simp [State.resolveEdit, hk, h]

theorem State.resolveEdit_of_some {sub : SubState} {shown : Nat} (hs : ¬ e.stale ws = true)
    (h : s.editResult ws e = some (sub, shown)) :
    s.resolveEdit ws e = (ws.set e.window ((windowAt ws e.window).substituted sub shown),
      .applied (windowAt ws e.window).sub sub shown) := by
  cases hk : e.kind with
  | substitute =>
    rw [State.editResult_substitute hk] at h
    simp [State.resolveEdit, hk, hs, h]
  | restore =>
    rw [State.editResult_restore hk] at h
    simp [State.resolveEdit, hk, hs, h]

end

theorem State.resolveEdits_cons (s : State) (ws : List WindowRec) (e : Edit) (es : List Edit) :
    s.resolveEdits ws (e :: es) = ((s.resolveEdits (s.resolveEdit ws e).1 es).1,
      (e, (s.resolveEdit ws e).2) :: (s.resolveEdits (s.resolveEdit ws e).1 es).2) := rfl

/-- Settles O39: the edit set by its recursion, one edit by the row of the table that it meets. -/
theorem editsResolveAsTabled : Obligations.EditsResolveAsTabled := by
  unfold Obligations.EditsResolveAsTabled
  refine ⟨fun s ws e es => ⟨rfl, s.resolveEdits_cons ws e es⟩, fun s ws e hlen => ?_⟩
  intro w routed shown becomes drop
  have absent : ∀ {x : SourceState}, x ≠ .locked → x ≠ .lossHold → x.present = false := fun hl hh =>
    Bool.eq_false_iff.2 fun h => ((SourceState.present_iff _).1 h).elim hl hh
  have fresh : w.visible = true → w.routed = e.routed → ¬ e.stale ws = true := fun hv hr h =>
    ((e.stale_iff ws).1 h).elim (fun hidden => Bool.false_ne_true (hidden.symm.trans hv)) (absurd hr)
  refine ⟨fun h => State.resolveEdit_of_stale ((e.stale_iff ws).2 h), fun hv hr hk => ?_, fun hv hr hk => ?_,
    s.fitBackup_eq_some_iff hlen⟩
  · have drops : s.resolveSubstitute ws e.window = none → drop := fun h =>
      State.resolveEdit_of_none ((State.editResult_substitute hk).trans h)
    have applies : ∀ {sub i}, s.resolveSubstitute ws e.window = some (sub, i) → becomes sub i := fun h =>
      State.resolveEdit_of_some (fresh hv hr) ((State.editResult_substitute hk).trans h)
    exact ⟨fun hsub h => drops (State.resolveSubstitute_back hsub ((SourceState.present_iff _).2 h)),
      fun hsub hl hh _ hb => applies (State.resolveSubstitute_fit hsub (absent hl hh) hb),
      fun hsub hl hh hb => applies (State.resolveSubstitute_unfit hsub (absent hl hh) hb),
      fun hsub h => applies (State.resolveSubstitute_return hsub h),
      fun hsub h hb => drops (State.resolveSubstitute_backupBack hsub h ((SourceState.present_iff _).2 hb)),
      fun hsub h hl hh => applies (State.resolveSubstitute_backupLost hsub h (absent hl hh)),
      fun hsub => drops (State.resolveSubstitute_slate hsub)⟩
  · exact ⟨fun hsub ha h => State.resolveEdit_of_some (fresh hv hr)
        ((State.editResult_restore hk).trans (State.resolveRestore_eq_some hsub ha h)),
      fun h => State.resolveEdit_of_none ((State.editResult_restore hk).trans (State.resolveRestore_eq_none h))⟩

end Sys2Proof.Machine
end

