-- ==== Sys2Proof/Proofs/SerialOrder.lean ====
section
/-! PROOF. Frame numbers and post sequences are ordered by serial comparison (R116). -/

namespace Sys2Proof.Machine

/-! Frames passed at a counter value. -/

theorem passed_iff (f c : Word) : passed f c = true ↔ (c - f).toNat < 2 ^ 31 := decide_eq_true_iff

theorem passed_iff_exists (f c : Word) : passed f c = true ↔ ∃ k, k < 2 ^ 31 ∧ f = c - BitVec.ofNat 32 k := by
  rw [passed_iff]
  constructor
  · intro h
    exact ⟨(c - f).toNat, h, by rw [BitVec.ofNat_toNat, BitVec.setWidth_eq]; exact (sub_sub_self c f).symm⟩
  · rintro ⟨k, hk, rfl⟩
    rw [sub_sub_self, BitVec.toNat_ofNat]
    exact (Nat.mod_le k _).trans_lt hk

theorem passed_self (c : Word) : passed c c = true := by
  simp [passed_iff]

theorem passed_succ (c : Word) : passed (c + 1) c = false := by
  rw [← Bool.not_eq_true, passed_iff]
  bv_omega

/-! Earlier frames. -/

theorem earlier_iff (f g : Word) : earlier f g = true ↔ f ≠ g ∧ passed f g = true := by
  simp [earlier]

/-- Of frames passed at `n`, the earlier is the one that lies more frames before `n`: the two distances differ by less than
2^31, so their difference does not wrap. -/
theorem earlier_iff_of_passed {f g n : Word} (hf : passed f n = true) (hg : passed g n = true) :
    earlier f g = true ↔ (n - g).toNat < (n - f).toNat := by
  rw [passed_iff] at hf hg
  rw [earlier_iff, passed_iff]
  bv_omega

theorem earlier_iff_not_earlier {f g n : Word} (hf : passed f n = true) (hg : passed g n = true) (hne : f ≠ g) :
    earlier f g = true ↔ earlier g f = false := by
  have apart : (n - f).toNat ≠ (n - g).toNat := fun h => hne (sub_right_injective (BitVec.eq_of_toNat_eq h))
  rw [← Bool.not_eq_true, earlier_iff_of_passed hf hg, earlier_iff_of_passed hg hf]
  omega

/-! The deadline test (R49). -/

theorem SlotRec.pastDeadline_iff (r : SlotRec) (n : Word) : r.pastDeadline n = true ↔
    r.header.deadline ≠ 0 ∧ r.header.deadline < (n.toNat + 2 ^ 32 - r.due.toNat) % 2 ^ 32 := by
  have before : (n - r.due).toNat = (n.toNat + 2 ^ 32 - r.due.toNat) % 2 ^ 32 := by bv_omega
  simp [SlotRec.pastDeadline, before]

/-! Post sequences. -/

theorem seqLower_iff (a b : Half) : seqLower a b = true ↔
    (1 ≤ (b - a).toNat ∧ (b - a).toNat ≤ 32767) ∨ ((b - a).toNat = 32768 ∧ a.toNat < b.toNat) := decide_eq_true_iff

/-- The distances from each of two different sequences to the other add up to 2^16: one of them is below 2^15, or both are
2^15 and the numeric values decide. -/
theorem seqLower_iff_not_seqLower {a b : Half} (hne : a ≠ b) : seqLower a b = true ↔ seqLower b a = false := by
  have around : (a - b).toNat + (b - a).toNat = 2 ^ 16 := by bv_omega
  have values : a.toNat ≠ b.toNat := fun h => hne (BitVec.eq_of_toNat_eq h)
  rw [← Bool.not_eq_true, seqLower_iff, seqLower_iff]
  omega

/-! The LATE check at post (R39, R41). -/

theorem State.passed_of_postCheck_late {s : State} {i : Nat} {h : TakeHeader} (hc : s.postCheck i h = some .late) :
    h.dueAt = true ∧ passed h.dueFrame s.timing.frame = true := by
  unfold State.postCheck at hc
  split_ifs at hc with badCount badCheck noCheck late
  · cases hc
  · cases hc
  · cases hc
  · exact Bool.and_eq_true_iff.1 late

theorem State.not_passed_of_postCheck_none {s : State} {i : Nat} {h : TakeHeader} (hc : s.postCheck i h = none)
    (hd : h.dueAt = true) : passed h.dueFrame s.timing.frame = false := by
  unfold State.postCheck at hc
  split_ifs at hc with badCount badCheck noCheck late
  rw [hd, Bool.true_and] at late
  exact Bool.eq_false_iff.2 late

/-- Settles O59, from what serial comparison says of two frames, of two frames passed at one value, and of two post
sequences. -/
theorem serialComparisonOrders : Obligations.SerialComparisonOrders :=
  ⟨fun f c => ⟨passed_iff f c, passed_iff_exists f c, passed_self c, passed_succ c⟩,
    earlier_iff,
    fun _ _ _ => earlier_iff_not_earlier,
    SlotRec.pastDeadline_iff,
    fun a b => ⟨seqLower_iff a b, seqLower_iff_not_seqLower⟩,
    fun _ _ _ => State.passed_of_postCheck_late,
    fun _ _ _ => State.not_passed_of_postCheck_none⟩

end Sys2Proof.Machine
end

section
/-! PROOF. A RELEASE takes a count of entries off a ring (R144, R151). -/

namespace Sys2Proof.Machine

/-! Serving supervision (R144). -/

@[simp] theorem State.serve_report (s : State) : s.serve.report = s.report := by
  unfold State.serve
  split <;> rfl

@[simp] theorem State.serve_port (s : State) : s.serve.port = s.port := by
  unfold State.serve
  split <;> rfl

theorem State.serve_sets (s : State) : SetsFlags s s.serve :=
  SetsFlags.of_frame s.serve_only (hm := by rw [s.serve_modes])

/-! One ring (R151). -/

/-- The count is clamped to the fill count, by which both the fill count and the release index move. -/
theorem Ring.released_eq (r : Ring) (n : Nat) : r.released n = { r with
    fill := r.fill - n, releaseIndex := (r.releaseIndex + min n r.fill) % r.capacity, headerPending := true } := by
  have clamped : r.fill - min n r.fill = r.fill - n := by omega
  simp only [Ring.released, clamped]

/-! The rings (R151). -/

@[simp] theorem State.releaseRing_zero (s : State) (i : RingId) : s.releaseRing i 0 = s := if_pos rfl

theorem State.releaseRing_of_ne_zero (s : State) (i : RingId) {n : Nat} (h : n ≠ 0) : s.releaseRing i n =
    (s.setReport (s.report.setRing i ((s.report.ring i).released n))).raiseIf
      (decide ((s.report.ring i).fill < n)) .releaseError := if_neg h

/-- A release of no entries leaves even the ring it names. -/
theorem State.releaseRing_self (s : State) (i : RingId) (n : Nat) :
    (s.releaseRing i n).report.ring i = if n = 0 then s.report.ring i else (s.report.ring i).released n := by
  split
  next h => rw [h, s.releaseRing_zero]
  next h => simp [s.releaseRing_of_ne_zero i h, (State.raiseIf_ring _ _ _ _).1]

theorem State.releaseRing_other (s : State) {i q : RingId} (hq : q ≠ i) (n : Nat) :
    (s.releaseRing i n).report.ring q = s.report.ring q := by
  by_cases h : n = 0
  · rw [h, s.releaseRing_zero]
  · simp [s.releaseRing_of_ne_zero i h, (State.raiseIf_ring _ _ _ _).1, hq]

/-- A release changes none of what waits for the rings, nor the ring writer's work in hand. -/
theorem State.releaseRing_waiting (s : State) (i : RingId) (n : Nat) :
    (s.releaseRing i n).report.ringPart.2 = s.report.ringPart.2 := by
  by_cases h : n = 0
  · rw [h, s.releaseRing_zero]
  · rw [s.releaseRing_of_ne_zero i h, State.raiseIf_ringPart]
    cases i <;> rfl

/-- A count above the fill count sets RELEASE_ERROR, and a release sets no other flag. -/
theorem State.releaseRing_causeSet (s : State) (i : RingId) (n : Nat) (c : Cause) : (s.releaseRing i n).causeSet c =
    (s.causeSet c || (decide (c = .releaseError) && decide ((s.report.ring i).fill < n))) := by
  by_cases h : n = 0
  · simp [h]
  · have causes : (s.report.setRing i ((s.report.ring i).released n)).causes = s.report.causes := Report.setRing_causes ..
    rw [s.releaseRing_of_ne_zero i h, State.causeSet_raiseIf, State.causeSet_congr (s := s) causes]

theorem State.releaseRing_sets (s : State) (i : RingId) (n : Nat) : SetsFlags s (s.releaseRing i n) := by
  by_cases h : n = 0
  · rw [h, s.releaseRing_zero]
    exact SetsFlags.refl s
  · rw [s.releaseRing_of_ne_zero i h]
    exact (SetsFlags.of_quiet (s.setReport_ring i _)).next (State.raiseIf_sets _ _ _)

/-! The command (R144, R151). -/

/-- A register write asks for no grant, so that a RELEASE that need not wait is taken as it arrives. -/
theorem exec_release {s : State} {selector : BitVec 2} {count : BitVec 11} (h : s.accepts (.release selector count)) :
    exec (.release selector count) s = .next (s.takeRelease selector count) :=
  congrArg Host.Outcome.next (State.arrive_eq h (State.serving_whole (.inl rfl)))

theorem State.takeRelease_of_ring (s : State) {selector : BitVec 2} {i : RingId} (count : BitVec 11)
    (h : ringOfSelector selector.toNat = some i) : s.takeRelease selector count = s.serve.releaseRing i count.toNat := by
  simp only [State.takeRelease, h]

theorem State.takeRelease_three (s : State) (count : BitVec 11) :
    s.takeRelease 3 count = s.serve.raise .releaseError := rfl

theorem State.serve_releaseRing_modes (s : State) (i : RingId) (n : Nat) :
    (s.serve.releaseRing i n).modes = { s.modes with supervision := s.servedTimer } := by
  rw [(State.releaseRing_only _ _ _).modes_eq, s.serve_modes]

/-- With supervision served first, an evaluation still delivers from the state before (R172): serving touches neither the
condition nor the port. -/
theorem State.serve_raise_delivers (s : State) (c : Cause) : Delivers s (s.serve.raise c) :=
  Delivers.of_evaluate (by simp) s.serve_port

/-- Settles O29, from what serving, the release of one ring and setting RELEASE_ERROR do. -/
theorem releaseTakesCountOffRing : Obligations.ReleaseTakesCountOffRing := by
  refine ⟨fun s r selector count h hsel => ?_, fun s count h => ?_⟩
  · have named : ringOfSelector selector.toNat = some r := by rw [hsel]; cases r <;> rfl
    have waiting := s.serve.releaseRing_waiting r count.toNat
    simp only [Report.ringPart, s.serve_report, Prod.mk.injEq] at waiting
    obtain ⟨journalQueue, urgentQueue, routineQueue, ringJob⟩ := waiting
    have sets := s.serve_sets.next (s.serve.releaseRing_sets r count.toNat)
    have frame := s.takeRelease_only selector count
    rw [s.takeRelease_of_ring count named] at frame
    refine ⟨_, (exec_release h).trans (congrArg _ (s.takeRelease_of_ring count named)), s.serve_releaseRing_modes r _, ?_,
      fun q hq => ?_, journalQueue, urgentQueue, routineQueue, ringJob, fun c => ?_, sets.enables, sets.delivery,
      frame.mono (by decide)⟩
    · have count_zero : count.toNat = 0 ↔ count = 0 := (BitVec.toNat_eq (y := 0)).symm
      simp only [State.releaseRing_self, s.serve_report, Ring.released_eq, count_zero]
    · rw [State.releaseRing_other _ hq, s.serve_report]
    · rw [State.releaseRing_causeSet, s.serve_report, State.causeSet_congr (congrArg Report.causes s.serve_report)]
  · refine ⟨_, (exec_release h).trans (congrArg _ (s.takeRelease_three count)), ?_, fun c => ?_, ?_,
      s.serve_raise_delivers _, (s.serve_only.mono (by decide)).next (State.raise_only _ _) (by decide)⟩
    · rw [(State.raise_only _ _).modes_eq, s.serve_modes]
    · rw [State.causeSet_raise, State.causeSet_congr (congrArg Report.causes s.serve_report)]
    · rw [State.raise_enables, s.serve_report]

end Sys2Proof.Machine
end

section
/-! PROOF. A write to CAUSE clears the flags it names, a write to NEXTCAUSE all of them (R170, R174). -/

namespace Sys2Proof.Machine

/-! An access that asks for no grant (R177, R184). -/

/-- Such an access, if it need not wait, is taken as it arrives. -/
theorem State.arrive_of_not_asksGrant {s : State} {i : Instr} (h : s.accepts i) (hg : s.asksGrant i = false) :
    s.arrive i = takeAccess i s :=
  State.arrive_eq h (State.serving_whole (.inl hg))

theorem exec_causeWrite {s : State} {v : Word} (h : s.accepts (.causeWrite v)) :
    exec (.causeWrite v) s = .next (s.takeCauseWrite v) :=
  congrArg Host.Outcome.next (State.arrive_of_not_asksGrant h rfl)

theorem exec_nextcauseWrite {s : State} {v : Word} (h : s.accepts (.nextcauseWrite v)) :
    exec (.nextcauseWrite v) s = .next (s.setCauses 0) :=
  congrArg Host.Outcome.next (State.arrive_of_not_asksGrant h rfl)

/-! The flags (R169, R170, R174, R194). -/

/-- A flag is set by its event, whatever has been cleared before. -/
theorem State.causeSet_raise_self (s : State) (c : Cause) : (s.raise c).causeSet c = true := by
  simp

/-- Every flag has a position below 14, so that the bits of the value from 14 on name none. -/
theorem State.causeSet_takeCauseWrite (s : State) (v : Word) (c : Cause) :
    (s.takeCauseWrite v).causeSet c = (s.causeSet c && !v.getLsbD (c.code - 1)) := by
  have position := c.code_lt
  simp [State.causeSet_eq, State.takeCauseWrite, position]

theorem State.causeSet_setCauses_zero (s : State) (c : Cause) : (s.setCauses 0).causeSet c = false := by
  simp [State.causeSet_eq]

/-- A read of CAUSE shows every flag at its position, and 0 from position 14 on. -/
theorem State.causeValue_getLsbD (s : State) (k : Nat) :
    (s.registerValue 0x14).getLsbD k = s.report.causes.getLsbD k := by
  change (s.report.causes.setWidth 32).getLsbD k = _
  rw [BitVec.getLsbD_setWidth, Bool.and_eq_right_iff_imp]
  exact fun set => decide_eq_true ((BitVec.lt_of_getLsbD set).trans (by decide))

/-! The interrupt and the summary (R166, R171, R172). -/

theorem interruptCondition_eq_false_of_causes {r : Report} (master : Bool) (h : r.causes = 0) :
    interruptCondition master r = false := by
  simp [interruptCondition, h]

/-- The legacy line follows the condition down. -/
theorem Delivers.line_eq_false {s t : State} (h : Delivers s t) (hc : t.report.condition = false) : t.port.line = false := by
  simp [h.line, hc]

/-- A message is sent only when the condition becomes true. -/
theorem Delivers.msiSent_eq {s t : State} (h : Delivers s t) (hc : t.report.condition = false) :
    t.port.msiSent = s.port.msiSent := by
  simp [h.message, hc]

theorem State.setCauses_zero_condition (s : State) : (s.setCauses 0).report.condition = false :=
  (s.setCauses_delivers 0).condition.trans (interruptCondition_eq_false_of_causes _ (s.setCauses_causes 0))

/-- Of the summary only CAUSE_PENDING is read from the flags. -/
theorem State.setCauses_summary (s : State) (v : BitVec 14) :
    (s.setCauses v).summary = { s.summary with causePending := v != 0 } := rfl

/-- Settles O30, from what a CAUSE write does to each flag and how the interrupt is delivered over it. -/
theorem causeWriteClearsNamedFlags : Obligations.CauseWriteClearsNamedFlags := by
  refine ⟨fun s v h => ?_, fun s k => ⟨rfl, s.causeValue_getLsbD k⟩⟩
  exact ⟨s.takeCauseWrite v, exec_causeWrite h, s.causeSet_takeCauseWrite v, s.setCauses_enables _,
    s.setCauses_delivers _, s.takeCauseWrite_only v, State.causeSet_raise_self _⟩

/-- Settles O33: with no flag left the condition is false, so that the line falls and no message goes out. -/
theorem nextcauseWriteClearsAllFlags : Obligations.NextcauseWriteClearsAllFlags := by
  intro s v h
  have delivers := s.setCauses_delivers 0
  have condition := s.setCauses_zero_condition
  have frame := s.setCauses_only 0
  exact ⟨s.setCauses 0, exec_nextcauseWrite h, s.causeSet_setCauses_zero, condition, s.setCauses_enables 0, frame.modes_eq,
    s.setCauses_summary 0, delivers.line_eq_false condition, delivers.msiSent_eq condition, frame,
    State.causeSet_raise_self _⟩

end Sys2Proof.Machine
end

section
-- Many short proofs follow one another: taken one at a time they need one thread's memory, not one's for each.
set_option Elab.async false
/-! PROOF. What every operation but a reset or a register write does to the Exchange RAM, the flags, the event rings and the
port's queue: it is a run of blocks written by a controller master or by the port at its turn, of flags set, of events written,
and of changes that touch none of these. An invariant of those parts is proved for each of them once. -/

namespace Sys2Proof.Machine

/-! The steps of a run. -/

/-- A change that touches neither the Exchange RAM nor a flag, of the port only the held area and the completion, and keeps both
event rings within their capacities. -/
structure Quiet (s t : State) : Prop where
  ram : t.ram = s.ram
  causes : t.report.causePart = s.report.causePart
  master : t.modes.intEnable = s.modes.intEnable
  starting : t.modes.mode = .starting → s.modes.mode = .starting
  port : t.port = { s.port with holdArea := t.port.holdArea, completion := t.port.completion }
  rings : s.eventRingsOk → t.eventRingsOk

/-- One step of a run. -/
inductive Deed : State → State → Prop
  | quiet {s t} (h : Quiet s t) : Deed s t
  | portTurn (s) : Deed s s.portTurn
  | put (s a bs) : Deed s (s.putBlock a bs)
  | raise (s c) : Deed s (s.raise c)
  | event (s i) : Deed s (s.writeEvent i)

/-- A run from `s`. -/
inductive Runs (s : State) : State → Prop
  | refl : Runs s s
  | tail {t u} (h : Runs s t) (d : Deed t u) : Runs s u

/-- A relation that holds across every step of a run, and along one, holds across the run. -/
theorem Runs.keeps {P : State → Prop} (hP : ∀ s t, Deed s t → P s → P t) {s t : State} (h : Runs s t) (hs : P s) : P t := by
  induction h with
  | refl => exact hs
  | tail _ d ih => exact hP _ _ d ih

variable {s t u : State}

theorem Runs.trans (h : Runs s t) (k : Runs t u) : Runs s u := by
  induction k with
  | refl => exact h
  | tail _ d ih => exact ih.tail d

theorem Runs.foldl {α : Type} {f : State → α → State} (h : Runs s t) (hf : ∀ u a, Runs u (f u a)) (l : List α) :
    Runs s (l.foldl f t) := by
  induction l generalizing t with
  | nil => exact h
  | cons a l ih => exact ih (h.trans (hf t a))

theorem Runs.andThen {f : State → State} (h : Runs s t) (k : ∀ u, Runs s u → Runs s (f u)) : Runs s (t.andThen f) := k t h

/-! Quiet changes. -/

theorem eventRingsOk_congr (h : t.report.eventPart = s.report.eventPart) : s.eventRingsOk → t.eventRingsOk := by
  simp only [Report.eventPart, Prod.mk.injEq] at h
  obtain ⟨⟨hu, hn⟩, hqu, hqn⟩ := h
  simp only [State.eventRingsOk, hu, hn, hqu, hqn, imp_self]

theorem OnlyChanges.port_eq {l : List Part} (h : OnlyChanges l s t) (hk : Part.link ∉ l) (hw : Part.waiting ∉ l)
    (hb : Part.blocks ∉ l) (hi : Part.interrupt ∉ l) :
    t.port = { s.port with holdArea := t.port.holdArea, completion := t.port.completion } := by
  have link := h.link_eq hk
  have waiting := h.waiting_eq hw
  have blocks := h.blocks_eq hb
  have interrupt := h.interrupt_eq hi
  dsimp only
  rw [← link.1, ← link.2, ← waiting, ← blocks.1, ← blocks.2, ← interrupt.1, ← interrupt.2]

/-- The frame of a quiet change names none of these parts. -/
def quietFrame (l : List Part) : Bool :=
  l.all (fun p => match p with
    | .ram | .causes | .link | .waiting | .blocks | .interrupt => false
    | _ => true)

theorem quietFrame_not_mem {l : List Part} (h : quietFrame l = true) : Part.ram ∉ l ∧ Part.causes ∉ l ∧ Part.link ∉ l ∧
    Part.waiting ∉ l ∧ Part.blocks ∉ l ∧ Part.interrupt ∉ l := by
  unfold quietFrame at h
  rw [List.all_eq_true] at h
  exact ⟨fun m => (by cases h _ m), fun m => (by cases h _ m), fun m => (by cases h _ m), fun m => (by cases h _ m),
    fun m => (by cases h _ m), fun m => (by cases h _ m)⟩

/-- Nor, where neither the rings nor the mode controller change, these. -/
def quietestFrame (l : List Part) : Bool :=
  quietFrame l && l.all (fun p => match p with
    | .rings | .modes => false
    | _ => true)

theorem quietestFrame_not_mem {l : List Part} (h : quietestFrame l = true) :
    quietFrame l = true ∧ Part.rings ∉ l ∧ Part.modes ∉ l := by
  unfold quietestFrame at h
  rw [Bool.and_eq_true, List.all_eq_true] at h
  exact ⟨h.1, fun m => (by cases h.2 _ m), fun m => (by cases h.2 _ m)⟩

/-- A change of the rings that keeps the event rings, and of the mode controller that keeps the mode and the master enable. -/
theorem Quiet.of_frame {l : List Part} (h : OnlyChanges l s t)
    (rings : s.eventRingsOk → t.eventRingsOk) (master : t.modes.intEnable = s.modes.intEnable)
    (starting : t.modes.mode = .starting → s.modes.mode = .starting) (hl : quietFrame l = true := by rfl) : Quiet s t := by
  obtain ⟨hr, hc, hk, hw, hb, hi⟩ := quietFrame_not_mem hl
  exact ⟨h.ram_eq hr, h.causes_eq hc, master, starting, h.port_eq hk hw hb hi, rings⟩

/-- A run followed by a change that touches neither the rings nor the mode controller. -/
theorem Runs.frame {l : List Part} (h : Runs s t) (k : OnlyChanges l t u) (hl : quietestFrame l = true := by rfl) : Runs s u := by
  obtain ⟨quiet, hg, hm⟩ := quietestFrame_not_mem hl
  exact h.tail (.quiet (.of_frame k (eventRingsOk_congr (Report.eventPart_congr (k.rings_eq hg))) (by rw [k.modes_eq hm])
    (by rw [k.modes_eq hm]; exact id) quiet))

/-- A run followed by a change of the rings or of the queues that leaves the event rings as they were. -/
theorem Runs.journalFrame {l : List Part} (h : Runs s t) (k : OnlyChanges l t u) (he : u.report.eventPart = t.report.eventPart)
    (hm : u.modes = t.modes := by rfl) (hl : quietFrame l = true := by rfl) : Runs s u :=
  h.tail (.quiet (.of_frame k (eventRingsOk_congr he) (by rw [hm]) (by rw [hm]; exact id) hl))

/-- A run followed by a change of the mode controller that keeps the master enable and does not enter STARTING. -/
theorem Runs.modModes (h : Runs s t) {f : ModeCtl → ModeCtl} (master : (f t.modes).intEnable = t.modes.intEnable := by rfl)
    (starting : (f t.modes).mode = .starting → t.modes.mode = .starting := by exact id) : Runs s (t.modModes f) :=
  h.tail (.quiet (.of_frame (t.modModes_only f) id master starting))

/-! Flags and events. -/

theorem Runs.raise (h : Runs s t) (c : Cause) : Runs s (t.raise c) := h.tail (.raise t c)

theorem Runs.raiseIf (h : Runs s t) (b : Bool) (c : Cause) : Runs s (t.raiseIf b c) := by
  cases b
  · exact h
  · exact h.raise c

/-- A ring replaced by one with as many places and no more entries. -/
theorem Runs.setRing (h : Runs s t) (i : RingId) (v : Ring) (hc : v.capacity = (t.report.ring i).capacity := by rfl)
    (hf : v.fill ≤ (t.report.ring i).fill := by exact Nat.le_refl _) : Runs s (t.setReport (t.report.setRing i v)) := by
  refine h.tail (.quiet (.of_frame (t.setReport_ring i v) (fun ok => ?_) rfl id))
  obtain ⟨⟨uf, uq⟩, nf, nq⟩ := ok
  cases i
  · exact ⟨⟨uf, uq⟩, nf, nq⟩
  · exact ⟨⟨by change v.fill ≤ v.capacity; exact hc ▸ hf.trans uf,
      fun hq => by change v.fill < v.capacity; exact hc ▸ hf.trans_lt (uq hq)⟩, nf, nq⟩
  · exact ⟨⟨uf, uq⟩, by change v.fill ≤ v.capacity; exact hc ▸ hf.trans nf,
      fun hq => by change v.fill < v.capacity; exact hc ▸ hf.trans_lt (nq hq)⟩

theorem Runs.loseEvents (h : Runs s t) (i : RingId) (n : Nat) : Runs s (t.loseEvents i n) := by
  unfold State.loseEvents
  split
  · exact h
  · exact (h.setRing i _).raise _

/-- An event joins those that wait for a ring, where one waits already or the ring has a place. -/
theorem Quiet.enqueue (s : State) {i : RingId} (e : Event)
    (h : ¬ (s.report.queue i = [] ∧ (s.report.ring i).capacity ≤ (s.report.ring i).fill)) :
    Quiet s (s.setReport (s.report.setQueue i (s.report.queue i ++ [e]))) := by
  refine .of_frame (s.setReport_queue i _) (fun ok => ?_) rfl id
  obtain ⟨⟨uf, uq⟩, nf, nq⟩ := ok
  rw [Classical.not_and_iff_not_or_not, not_le] at h
  cases i
  · exact ⟨⟨uf, uq⟩, nf, nq⟩
  · exact ⟨⟨uf, fun _ => h.elim uq id⟩, nf, nq⟩
  · exact ⟨⟨uf, uq⟩, nf, fun _ => h.elim nq id⟩

theorem Runs.sendEvent (h : Runs s t) (i : RingId) (e : Event) : Runs s (t.sendEvent i e) := by
  unfold State.sendEvent
  split
  · exact h.loseEvents i 1
  · next hq => exact h.tail (.quiet (.enqueue t e hq))

theorem Runs.handEvent (h : Runs s t) (e : Event) : Runs s (t.handEvent e) := by
  unfold State.handEvent
  split
  · exact h
  · split
    · exact h
    · exact h.sendEvent _ e
    · exact h.sendEvent _ e

theorem Runs.handEvents (h : Runs s t) (es : List Event) : Runs s (t.handEvents es) :=
  h.foldl (fun _ e => Runs.refl.handEvent e) es

/-! The blocks of the controller's masters (R184). -/

theorem Runs.ctlRead (h : Runs s t) : Runs s t.ctlRead := (h.tail (.portTurn t)).frame (State.setLastServed_only _ _)

theorem Runs.ctlWrite (h : Runs s t) (a : Nat) (bs : List Byte) : Runs s (t.ctlWrite a bs) :=
  (h.tail (.portTurn t)).tail (.put _ a bs)

theorem Runs.ctlWrites (h : Runs s t) (l : Blocks) : Runs s (t.ctlWrites l) :=
  h.foldl (f := fun (u : State) (b : Nat × List Byte) => u.ctlWrite b.1 b.2) (fun _ b => Runs.refl.ctlWrite b.1 b.2) l

/-! Slots and takes. -/

theorem Runs.handEntry (h : Runs s t) (e : JournalEntry) : Runs s (t.handEntry e) := h.journalFrame (t.handEntry_only e) rfl

theorem Runs.finishTake (h : Runs s t) (i : Nat) (res : TakeOutcome × Reason × Option Nat × Option Nat) (c : Bool)
    (f : Option Word) : Runs s (t.finishTake i res c f) := h.handEntry _

theorem Runs.setSlot (h : Runs s t) (i : Nat) (r : SlotRec) : Runs s (t.setSlot i r) := h.frame (t.setSlot_only i r)

theorem Runs.cancelTakes (h : Runs s t) (l : List Nat) (f : Option Word) : Runs s (t.cancelTakes l f) :=
  h.foldl (fun _ _ => Runs.refl.finishTake ..) l

theorem Runs.abandonTakes (h : Runs s t) (l : List Nat) : Runs s (t.abandonTakes l) :=
  h.foldl (fun _ _ => Runs.refl.finishTake ..) l

theorem Runs.returnTake (h : Runs s t) (f : Option Word) (i : Nat) : Runs s (t.returnTake f i) := by
  unfold State.returnTake
  split
  · exact h.finishTake ..
  · exact h.setSlot ..

theorem Runs.setBuild (h : Runs s t) (b : Option BuildRecord) : Runs s (t.setBuild b) := h.frame (t.setBuild_only b)

theorem Runs.discardBuild (h : Runs s t) (f : Option Word) : Runs s (t.discardBuild f) :=
  (h.foldl (fun _ i => Runs.refl.returnTake f i) _).setBuild none

theorem Runs.refuse (h : Runs s t) (i : Nat) (r : RefusalReason) : Runs s (t.refuse i r) :=
  (h.frame (t.recordRefusal_only i r)).raise _

theorem Runs.acceptPost (h : Runs s t) (i : Nat) : Runs s (t.acceptPost i) :=
  have reserved : Runs s (t.recordRefusal i .none).reserve :=
    (h.frame (t.recordRefusal_only i .none)).journalFrame (State.reserve_only _) rfl
  reserved.frame (State.modTakes_only _ (fun te => { te with
    checking := some i, behindBuild := (t.recordRefusal i .none).reserve.buildReading }))

theorem Runs.handlePosts (h : Runs s t) (l : List Nat) : Runs s (t.handlePosts l) := by
  induction l generalizing t with
  | nil => exact h.frame (State.modTakes_only _ _)
  | cons i l ih =>
    unfold State.handlePosts
    split
    · exact ih (h.refuse i _)
    · exact (h.acceptPost i).frame (State.modTakes_only _ _)

theorem Runs.finishChecks (h : Runs s t) (i : Nat) : Runs s (t.finishChecks i) := by
  unfold State.finishChecks State.andThen
  dsimp only
  split
  · exact h.ctlRead.handEntry _
  · split
    · exact h.ctlRead.frame (State.recordPost_only _ _ _)
    · exact (h.ctlRead.frame (State.recordPost_only _ _ _)).finishTake ..

theorem Runs.continuePosts (h : Runs s t) : Runs s t.continuePosts := by
  unfold State.continuePosts State.andThen
  split
  · exact h
  · dsimp only
    split
    · exact h.finishChecks _
    · exact ((h.finishChecks _).frame (State.modTakes_only _ _)).handlePosts _

/-! The ring writer (R149, R184). -/

theorem Runs.setRingJob (h : Runs s t) (j : Option (RingJob × Nat)) : Runs s (t.setRingJob j) :=
  h.journalFrame (t.setRingJob_only j) rfl

theorem Runs.doRingJob (h : Runs s t) (j : RingJob) : Runs s (t.doRingJob j) :=
  ((h.tail (.portTurn t)).ctlWrites _).setRingJob _

theorem Runs.writeRingHeader (h : Runs s t) (i : RingId) : Runs s (t.writeRingHeader i) := by
  unfold State.writeRingHeader
  split
  · exact h.ctlWrite ..
  · exact h

theorem Runs.flushRing (h : Runs s t) (i : RingId) : Runs s (t.flushRing i) := by
  have ring := (t.doRingJob_rings (.clear i) i).2.1
  unfold State.flushRing State.andThen
  dsimp only
  by_cases hi : (t.report.ring i).initPending = true
  · simp only [hi, if_true, Bool.true_or]
    exact ((h.doRingJob (.clear i)).setRing i _ (by rw [ring]) (by rw [ring])).writeRingHeader i
  · rw [if_neg hi]
    split
    · exact (h.setRing i _).writeRingHeader i
    · exact h

theorem Runs.countJournalEntry (h : Runs s t) : Runs s (t.countEntry .journal) := by
  unfold State.countEntry
  have counted := h.journalFrame (t.setReport_ring .journal ((t.report.ring .journal).counted .journal)) (by rfl)
  exact (counted.writeRingHeader .journal).raiseIf ..

theorem Runs.endTake (h : Runs s t) (i : Nat) : Runs s (t.endTake i) := by
  unfold State.endTake
  split
  · exact (h.frame (State.modTakes_only _ _)).handlePosts _
  · exact h.setSlot ..

/-- An entry that waited first for the journal is taken off the queue. -/
theorem Runs.dequeueEntry (h : Runs s t) (q : List JournalEntry) :
    Runs s (t.modReport (fun re => { re with journalQueue := q })) :=
  h.journalFrame (t.modReport_rings (fun re => { re with journalQueue := q }) rfl) rfl

theorem Runs.writeJournalEntry (h : Runs s t) : Runs s t.writeJournalEntry := by
  unfold State.writeJournalEntry State.andThen
  split
  · exact h
  · exact ((((h.flushRing _).doRingJob _).dequeueEntry _).countJournalEntry).endTake _

theorem Runs.writeEntry (h : Runs s t) (i : RingId) : Runs s (t.writeEntry i) := by
  cases i
  · exact h.writeJournalEntry
  · exact h.tail (.event t _)
  · exact h.tail (.event t _)

theorem Runs.writeEntries (h : Runs s t) (i : RingId) (n : Nat) : Runs s (t.writeEntries i n) := by
  induction n generalizing t with
  | zero => exact h
  | succ n ih => exact ih (h.writeEntry i)

theorem Runs.journalDone (h : Runs s t) : Runs s t.journalDone := h.writeEntries ..

theorem Runs.ringDone (h : Runs s t) (i : RingId) : Runs s (t.ringDone i) := (h.writeEntries i _).flushRing i

theorem Runs.ringsDone (h : Runs s t) : Runs s t.ringsDone := ((h.ringDone _).ringDone _).ringDone _

theorem Runs.completePosts (h : Runs s t) (n : Nat) : Runs s (t.completePosts n) := by
  induction n generalizing t with
  | zero => exact h
  | succ n ih =>
    unfold State.completePosts
    split
    · exact h
    · split
      · exact ih h.journalDone
      · exact ih h.continuePosts

theorem Runs.ringGrant (h : Runs s t) : Runs s t.ringGrant := by
  unfold State.ringGrant
  split
  · exact h.frame (State.setLastServed_only _ _)
  · split
    · exact h.frame (State.setLastServed_only _ _)
    · exact (h.tail (.put t ..)).setRingJob _

theorem Runs.cancelSlot (h : Runs s t) (i : Nat) : Runs s (t.cancelSlot i) := by
  unfold State.cancelSlot
  split
  · exact ((h.frame (State.recordRefusal_only _ _ _)).finishTake ..).journalDone
  · exact h.setSlot ..
  · exact h.refuse ..

theorem Runs.cancelSlots (h : Runs s t) (l : List Nat) : Runs s (t.cancelSlots l) := h.foldl (fun _ i => Runs.refl.cancelSlot i) l

theorem Runs.releaseRing (h : Runs s t) (i : RingId) (n : Nat) : Runs s (t.releaseRing i n) := by
  unfold State.releaseRing
  split
  · exact h
  · exact (h.setRing i _ (hf := by exact Nat.sub_le _ _)).raiseIf ..

/-! The mode controller. -/

theorem Runs.startSupervision (h : Runs s t) : Runs s t.startSupervision := by
  unfold State.startSupervision
  exact h.modModes

theorem Runs.stopSupervision (h : Runs s t) : Runs s t.stopSupervision := h.modModes

theorem Runs.serve (h : Runs s t) : Runs s t.serve := by
  unfold State.serve
  split
  · exact h.startSupervision
  · exact h

theorem Runs.moveMode (h : Runs s t) {m : Mode} (hm : m ≠ .starting) (r : Trigger) : Runs s (t.moveMode m r) :=
  (h.modModes (f := fun mo => { mo with mode := m }) (starting := fun e => absurd e hm)).handEvent _

theorem Runs.enterHold (h : Runs s t) (r : Trigger) : Runs s (t.enterHold r) :=
  ((h.moveMode (by decide) r).raise _).startSupervision

theorem Runs.enterFallback (h : Runs s t) (r : Trigger) : Runs s (t.enterFallback r) := by
  unfold State.enterFallback State.andThen
  have dropped := (h.abandonTakes t.buildSlots).setBuild none
  have idle := (dropped.abandonTakes ((t.abandonTakes t.buildSlots).setBuild none).postedSlots).journalDone
  exact ((idle.stopSupervision.raise .fallbackEntered).moveMode (m := .fallback) (by decide) r).frame (State.modComposer_only _ _)

theorem Runs.quiesceDone (h : Runs s t) : Runs s t.quiesceDone := (h.journalDone.raise _).moveMode (by decide) _

theorem Runs.enterQuiescing (h : Runs s t) (r : Trigger) : Runs s (t.enterQuiescing r) := by
  unfold State.enterQuiescing State.andThen
  dsimp only
  split
  · exact ((h.cancelTakes _ _).stopSupervision.moveMode (by decide) r).quiesceDone
  · exact (h.cancelTakes _ _).stopSupervision.moveMode (by decide) r

theorem Runs.setHoldArea (h : Runs s t) (v : Option Section) : Runs s (t.modPort (fun pt => { pt with holdArea := v })) :=
  h.frame (t.modPort_holdArea v)

theorem Runs.endActivation (h : Runs s t) (r : Trigger) : Runs s (t.endActivation r) :=
  ((h.modModes (f := fun mo => { mo with progress := .none, reading := false })).setHoldArea none).moveMode (by decide) r

theorem Runs.startActivation (h : Runs s t) : Runs s t.startActivation := by
  unfold State.startActivation State.andThen
  dsimp only
  split
  · exact (h.modModes.setHoldArea _).moveMode (by decide) _
  · exact h.modModes.moveMode (by decide) _

theorem Runs.runRequest (h : Runs s t) : Runs s t.runRequest := by
  unfold State.runRequest
  split
  · exact h
  · exact h.startActivation
  · exact h.raise _
  · exact h
  · exact ((h.frame (State.modComposer_only _ _)).moveMode (by decide) _).startSupervision
  · exact (h.moveMode (by decide) _).startSupervision
  · exact h.raise _
  · exact (h.moveMode (by decide) _).startSupervision

theorem Runs.holdRequest (h : Runs s t) : Runs s t.holdRequest := by
  unfold State.holdRequest
  split
  · exact h
  · exact (h.discardBuild none).enterHold _
  · exact h
  all_goals exact h.raise _

theorem Runs.fallbackRequest (h : Runs s t) : Runs s t.fallbackRequest := by
  unfold State.fallbackRequest
  split
  · exact h
  · exact h.enterFallback _
  · exact h.enterFallback _
  · exact h.enterFallback _
  · exact h
  all_goals exact h.raise _

theorem Runs.quiesceRequest (h : Runs s t) : Runs s t.quiesceRequest := by
  unfold State.quiesceRequest
  split
  · exact h
  · exact h.enterQuiescing _
  · exact h.enterQuiescing _
  · exact h.enterQuiescing _
  · exact h
  · exact h
  all_goals exact h.raise _

theorem Runs.configRequest (h : Runs s t) : Runs s t.configRequest := by
  unfold State.configRequest
  split
  · exact h
  · exact h
  · exact h.endActivation _
  · exact (h.raise _).enterQuiescing _
  · exact (h.raise _).enterQuiescing _
  · exact (h.raise _).enterQuiescing _
  · exact h.raise _
  · exact (h.moveMode (by decide) _).frame (State.clearLayoutForConfig_only _)

theorem Runs.checksComplete (h : Runs s t) (image : ConfigImage) : Runs s (t.checksComplete image) := by
  unfold State.checksComplete State.andThen
  split
  · exact (h.modModes.raise _).endActivation _
  · exact h.modModes.setHoldArea none

/-! The composer and the wall timing unit. -/

theorem Runs.checkBuildTake (h : Runs s t) (b : BuildRecord) : Runs s (t.checkBuildTake b) := by
  unfold State.checkBuildTake State.andThen
  dsimp only
  split
  · exact h.ctlRead
  · exact (h.ctlRead.setBuild _).frame (State.modTakes_only _ _)

theorem Runs.expireTakes (h : Runs s t) (n : Word) : Runs s (t.expireTakes n) := h.foldl (fun _ _ => Runs.refl.finishTake ..) _

theorem Runs.planPoint (h : Runs s t) : Runs s t.planPoint := by
  have done := h.frame (State.modTiming_only t (fun ti => { ti with planDone := true }))
  unfold State.planPoint State.andThen
  dsimp only
  split
  · unfold State.gatherAndBuild State.andThen
    have expired := done.expireTakes (t.timing.frame + 1)
    dsimp only
    split
    · exact expired
    · exact ((expired.frame (State.startTakes_only _ _)).frame (State.modTakes_only _ _)).setBuild _
  · exact done

theorem Runs.commitBuild (h : Runs s t) (b : BuildRecord) (n : Word) : Runs s (t.commitBuild b n) :=
  (((h.frame (State.setComposer_only _ _)).foldl (fun _ _ => Runs.refl.finishTake ..) _).handEvents _).frame
    (State.layoutReplaced_only _)

theorem Runs.overrunBuild (h : Runs s t) (b : BuildRecord) (n : Word) : Runs s (t.overrunBuild b n) := by
  unfold State.overrunBuild State.andThen
  dsimp only
  have ended : Runs s (if t.modes.mode = .quiescing then (t.cancelTakes t.buildSlots (some n)).setBuild none
      else t.discardBuild (some n)) := by
    split
    · exact (h.cancelTakes _ _).setBuild none
    · exact h.discardBuild _
  generalize (if t.modes.mode = .quiescing then (t.cancelTakes t.buildSlots (some n)).setBuild none
      else t.discardBuild (some n)) = v at ended ⊢
  split
  · exact (((ended.frame (State.modComposer_only _ _)).handEvent _).raise _).enterHold _
  · exact ((ended.frame (State.modComposer_only _ _)).handEvent _).raise _

theorem Runs.timingChange (h : Runs s t) (old new : RefState) (n : Nat) (a b c : Bool) :
    Runs s (t.timingChange old new n a b c) := (h.handEvent _).raise _

theorem Runs.applyRate (h : Runs s t) (rate : WallRate) (lead : Nat) : Runs s (t.applyRate rate lead) := by
  unfold State.applyRate State.andThen
  dsimp only
  split_ifs
  · exact h.frame (State.setTiming_only _ _)
  · exact h.frame (State.setTiming_only _ _)
  · exact (h.frame (State.setTiming_only _ _)).timingChange ..

theorem Runs.changeSource (h : Runs s t) (i : Nat) (r : SourceRec) (g a : Bool) : Runs s (t.changeSource i r g a) :=
  ((h.frame (State.setSource_only _ _ _)).frame (State.setComposer_only _ _)).handEvent _

theorem Runs.applySettings (h : Runs s t) (i : Nat) (new : SourceSettings) : Runs s (t.applySettings i new) := by
  have set (r : SourceRec) : Runs s (t.setSource i r) := h.frame (State.setSource_only _ _ _)
  unfold State.applySettings State.andThen
  dsimp only
  split
  · split
    · exact (h.changeSource ..).changeSource ..
    · exact h.changeSource ..
  · split
    · exact h.changeSource ..
    · split
      · exact set _
      · split
        · split
          · exact h.changeSource ..
          · exact set _
        · split
          · exact h.changeSource ..
          · exact set _
        · exact set _

theorem Runs.applyAllSettings (h : Runs s t) (i : Nat) (l : List SourceSettings) : Runs s (t.applyAllSettings i l) := by
  induction l generalizing t i with
  | nil => exact h
  | cons n l ih => exact ih (h.applySettings i n) (i + 1)

/-- The rings as they are initialised hold no entry and nothing waits for them. -/
theorem Quiet.initialRings (s : State) (c : Captured) : Quiet s (s.modReport (fun re => { re with
    journal := Ring.initial c.journal, urgent := Ring.initial c.urgent, routine := Ring.initial c.routine,
    journalQueue := [], urgentQueue := [], routineQueue := [], ringJob := none })) :=
  .of_frame (State.modReport_rings _ _ rfl)
    (fun _ => ⟨⟨Nat.zero_le _, fun h => absurd rfl h⟩, Nat.zero_le _, fun h => absurd rfl h⟩) rfl id

theorem Runs.captureConfig (h : Runs s t) (c : Captured) (plan : List WindowRec) (n : Word) :
    Runs s (t.captureConfig c plan n) := by
  unfold State.captureConfig
  refine h.ringsDone.andThen fun u h => ?_
  refine (h.modModes (f := fun mo => { mo with captured := some c, progress := .none })).andThen fun u h => ?_
  refine (h.tail (.quiet (.initialRings u c))).andThen fun u h => ?_
  refine (h.frame (u.modComposer_only (fun co => { co with live := { co.live with filters := c.filters } }))).andThen
    fun u h => ?_
  refine (h.frame (u.setTakes_only u.takes.clearRefusals)).andThen fun u h => ?_
  refine (h.applyRate c.rate c.lead).andThen fun u h => ?_
  refine ((h.applyAllSettings 0 c.settings).frame (State.setInternalRate_only _ c.rate.millihertz)).andThen fun u h => ?_
  refine (h.frame u.rewriteSections_only).andThen fun u h => ?_
  refine (h.frame (u.modComposer_only (fun co => { co with fallbackPlan := some plan }))).andThen fun u h => ?_
  refine (h.frame (u.startLayout_only c plan n)).andThen fun u h => ?_
  exact ((h.raise .modeReached).moveMode (by decide) .activationDone).startSupervision

theorem Runs.composerBoundary (h : Runs s t) (n : Word) : Runs s (t.composerBoundary n) := by
  unfold State.composerBoundary
  split
  · exact h.frame (State.fallbackCommit_only _ _)
  · split
    · exact h.captureConfig ..
    · split
      · exact h
      · split
        · exact h.commitBuild ..
        · exact h.overrunBuild ..

theorem Runs.boundary (h : Runs s t) : Runs s t.boundary := by
  unfold State.boundary State.andThen
  have acted := (h.frame (State.setTiming_only t t.timing.taken)).composerBoundary
    (t.setTiming t.timing.taken).timing.frame
  refine ((Runs.frame ?_ (State.beginOutputFrames_only _)).frame (State.writeFrame_only _)).frame (State.setTiming_only _ _)
  split
  · exact acted.quiesceDone
  · exact acted

/-! The commit writer and the status writer. -/

theorem Runs.commitGrant (h : Runs s t) : Runs s t.commitGrant := by
  unfold State.commitGrant
  split
  · exact h.frame (State.setLastServed_only _ _)
  · exact (h.tail (.put t ..)).frame (State.modStatus_only _ _)

theorem Runs.commitDone (h : Runs s t) : Runs s t.commitDone := (h.ctlWrites _).frame (State.modStatus_only _ _)

theorem Runs.doStatusJob (h : Runs s t) (j : StatusJob) : Runs s (t.doStatusJob j) :=
  (h.ctlWrites _).frame (State.modStatus_only _ _)

theorem Runs.writeSection (h : Runs s t) (n : Nat) : Runs s (t.writeSection n) := by
  unfold State.writeSection State.andThen
  exact ((h.doStatusJob _).ctlWrite _ _).frame (State.modStatus_only _ _)

theorem Runs.completeMirror (h : Runs s t) (m : Mirror) : Runs s (t.completeMirror m) := by
  unfold State.completeMirror State.andThen
  exact ((h.doStatusJob _).ctlWrite _ _).frame (State.modStatus_only _ _)

theorem Runs.publishSource (h : Runs s t) (m : SectionMap) (i : Nat) : Runs s (t.publishSource m i) := by
  unfold State.publishSource State.andThen
  exact (((h.doStatusJob _).ctlWrite _ _).ctlWrite _ _).frame (State.modStatus_only _ _)

theorem Runs.copySlotPart (h : Runs s t) (m : SectionMap) (p : SlotTablePart) : Runs s (t.copySlotPart m p) := by
  unfold State.copySlotPart
  split
  · exact (h.ctlWrite _ _).frame (State.modStatus_only _ _)
  · exact (h.ctlWrite _ _).frame (State.modStatus_only _ _)

theorem Runs.statusGrant (h : Runs s t) : Runs s t.statusGrant := by
  unfold State.statusGrant
  split
  · exact h.frame (State.setLastServed_only _ _)
  · split
    · exact h.frame (State.setLastServed_only _ _)
    · exact (h.tail (.put t ..)).frame (State.modStatus_only _ _)

theorem Runs.grantTo (h : Runs s t) (m : Master) : Runs s (t.grantTo m) := by
  cases m
  · exact h
  · exact h.ringGrant
  · exact h.commitGrant
  · exact h.frame (State.readerGrant_only _)
  · exact h.statusGrant

/-! An event written (R149, R155). -/

/-- What a grant at the port's turn and a controller master's block keep, and every change of the rings and flags alone, the
writing of an event keeps. -/
theorem State.writeEvent_holds {P : State → Prop} (s : State) (i : RingId) (turn : ∀ u, P u → P u.portTurn)
    (put : ∀ u a bs, P u → P (u.putBlock a bs))
    (report : ∀ u v, OnlyChanges [.interrupt, .rings, .causes] u v → P u → P v) (hs : P s) : P (s.writeEvent i) := by
  have write (u : State) (a : Nat) (bs : List Byte) (h : P u) : P (u.ctlWrite a bs) := put _ _ _ (turn _ h)
  have writes (u : State) (l : Blocks) (h : P u) : P (u.ctlWrites l) := by
    induction l generalizing u with
    | nil => exact h
    | cons b l ih => exact ih _ (write u _ _ h)
  have job (u : State) (j : RingJob) (h : P u) : P (u.doRingJob j) :=
    report _ _ ((State.setRingJob_only _ _).mono (by decide)) (writes _ _ (turn _ h))
  have ring (u : State) (v : Ring) (h : P u) : P (u.setReport (u.report.setRing i v)) :=
    report _ _ ((State.setReport_ring _ _ _).mono (by decide)) h
  have header (u : State) (h : P u) : P (u.writeRingHeader i) := by
    unfold State.writeRingHeader
    split
    · exact write u _ _ h
    · exact h
  have flush (u : State) (h : P u) : P (u.flushRing i) := by
    have begun : P (if (u.report.ring i).initPending then u.doRingJob (.clear i) else u) := by
      split
      · exact job u _ h
      · exact h
    unfold State.flushRing State.andThen
    dsimp only
    split
    · exact header _ (ring _ _ begun)
    · exact h
  have count (u : State) (h : P u) : P (u.countEntry i) := by
    unfold State.countEntry
    exact report _ _ ((State.raiseIf_only _ _ _).mono (by decide)) (header _ (ring _ _ h))
  unfold State.writeEvent State.andThen
  split
  · exact hs
  · next q _ =>
    have queued := report _ _ ((State.setReport_queue ((s.flushRing i).doRingJob (.entry i)) i q).mono (by decide))
      (job _ (.entry i) (flush s hs))
    exact report _ _ ((State.loseWaiting_only _ i).mono (by decide)) (count _ queued)

end Sys2Proof.Machine
end

section
-- Many short proofs follow one another: taken one at a time they need one thread's memory, not one's for each.
set_option Elab.async false
/-! PROOF. What a step is made of: every step is a run of moves, one for each shared operation, with what is known where it
comes. An invariant that every move keeps is kept by every step. -/

namespace Sys2Proof.Machine

/-! The moves. -/

/-- A move that is a run as such: a shared operation, with the guards under which a step comes to it. -/
inductive Work : State → State → Prop
  | pending (s q) : Work s (s.setPending q)
  | clock (s t) : Work s (s.setNow t)
  | freeIdx (s n) : Work s (s.setFreeIdx n)
  | completed (s bs) : Work s (s.complete bs)
  | raise (s c) : Work s (s.raise c)
  | event (s e) : Work s (s.handEvent e)
  | serve (s) : Work s s.serve
  | runRequest (s) : Work s s.runRequest
  | holdRequest (s) : Work s s.holdRequest
  | fallbackRequest (s) : Work s s.fallbackRequest
  | quiesceRequest (s) : Work s s.quiesceRequest
  | configRequest (s) : Work s s.configRequest
  | posts (s mask) (h : s.takes.checking = none) : Work s (s.handlePosts (maskSlots mask))
  | cancels (s mask) : Work s (s.cancelSlots (maskSlots mask))
  | continuePosts (s) (h : s.checksInHand = true) : Work s s.continuePosts
  | release (s r n) : Work s (s.releaseRing r n)
  | ctlRead (s) : Work s s.ctlRead
  | commitDone (s) : Work s s.commitDone
  | readingDone (s) : Work s ((s.modModes (fun mo => { mo with reading := false })).modPort (fun pt => { pt with holdArea := none }))
  | checksComplete (s image) (h : s.modes.progress = .checking image) (hc : s.takes.checking = none) :
      Work s (s.checksComplete image)
  | checkBuildTake (s b) (h : s.composer.build = some b) (hr : s.readsBuild = true) : Work s (s.checkBuildTake b)
  | buildComplete (s b) (h : s.composer.build = some b) (hr : b.status = .running) (hc : b.allChecked = true) :
      Work s (s.setBuild (some { b with status := .ready, draft := s.completeDraft b }))
  | writeSection (s n) : Work s (s.writeSection n)
  | completeMirror (s m) : Work s (s.completeMirror m)
  | publishSource (s m i) : Work s (s.publishSource m i)
  | copySlotPart (s m p) : Work s (s.copySlotPart m p)
  | writeEntry (s r) : Work s (s.writeEntry r)
  | flushRing (s r) : Work s (s.flushRing r)
  | grant (s m) : Work s (s.grantTo m)
  | planPoint (s) (h : s.timing.planDone = false) : Work s s.planPoint
  | boundary (s) : Work s s.boundary
  | timing (s v) (h : v.planDone = s.timing.planDone) : Work s (s.setTiming v)
  | setSource (s i r) (ok : (s.source i).ok → r.ok) (hs : r.settings = (s.source i).settings) : Work s (s.setSource i r)
  | changeSource (s i r g) (ok : (s.source i).ok → r.ok) (hs : r.settings = (s.source i).settings) :
      Work s (s.changeSource i r g false)
  | supervisionFallback (s) (h : s.modes.supervision ≠ none) : Work s (s.enterFallback .supervision)

theorem Work.runs {s t : State} (h : Work s t) : Runs s t := by
  cases h with
  | pending q => exact Runs.refl.frame (s.setPending_only q)
  | clock t => exact Runs.refl.frame (s.setNow_only t)
  | freeIdx n => exact Runs.refl.frame (s.setFreeIdx_only n)
  | completed bs => exact Runs.refl.frame (s.complete_only bs)
  | raise c => exact Runs.refl.raise c
  | event e => exact Runs.refl.handEvent e
  | serve => exact Runs.refl.serve
  | runRequest => exact Runs.refl.runRequest
  | holdRequest => exact Runs.refl.holdRequest
  | fallbackRequest => exact Runs.refl.fallbackRequest
  | quiesceRequest => exact Runs.refl.quiesceRequest
  | configRequest => exact Runs.refl.configRequest
  | posts mask h => exact Runs.refl.handlePosts _
  | cancels mask => exact Runs.refl.cancelSlots _
  | continuePosts h => exact Runs.refl.continuePosts
  | release r n => exact Runs.refl.releaseRing r n
  | ctlRead => exact Runs.refl.ctlRead
  | commitDone => exact Runs.refl.commitDone
  | readingDone => exact (Runs.refl.modModes (f := fun mo => { mo with reading := false })).setHoldArea none
  | checksComplete image h hc => exact Runs.refl.checksComplete image
  | checkBuildTake b h hr => exact Runs.refl.checkBuildTake b
  | buildComplete b h hr hc => exact Runs.refl.setBuild _
  | writeSection n => exact Runs.refl.writeSection n
  | completeMirror m => exact Runs.refl.completeMirror m
  | publishSource m i => exact Runs.refl.publishSource m i
  | copySlotPart m p => exact Runs.refl.copySlotPart m p
  | writeEntry r => exact Runs.refl.writeEntry r
  | flushRing r => exact Runs.refl.flushRing r
  | grant m => exact Runs.refl.grantTo m
  | planPoint h => exact Runs.refl.planPoint
  | boundary => exact Runs.refl.boundary
  | timing v h => exact Runs.refl.frame (s.setTiming_only v)
  | setSource i r ok hs => exact Runs.refl.frame (s.setSource_only i r)
  | changeSource i r g ok hs => exact Runs.refl.changeSource i r g false
  | supervisionFallback h => exact Runs.refl.enterFallback _

/-- A move: a run as such, the port's queue and the blocks of its accesses, a write of the flags, the enables or the stored
fields, a reset, or a change of the link. What the guards of the port's moves say is proved where a step comes to them. -/
inductive Move : State → State → Prop
  | work {s t} (h : Work s t) : Move s t
  | queue (s q) (h : s.portOk → (s.setWaiting q).portOk) : Move s (s.setWaiting q)
  | taken (s i) (h : s.portOk → (takeRamAccess i (s.setWaiting [])).portOk) : Move s (takeRamAccess i (s.setWaiting []))
  | part (s first rest r) (h : s.portOk → ((servePart first s).setWaiting (rest :: r)).portOk) :
      Move s ((servePart first s).setWaiting (rest :: r))
  | causes (s v) : Move s (s.setCauses v)
  | enables (s v) : Move s (s.takeCauseenWrite v)
  | fields (s permit intEnable) : Move s (s.modectl false permit intEnable)
  | softReset (s) (h : s.modes.mode ≠ .starting) : Move s s.softReset
  | powerOn (s) : Move s s.powerOn
  | clearDone (s) (h : s.modes.mode = .starting) : Move s (((s.setRam []).setLastServed .controller).setMode .config)
  | linkReset (s) : Move s s.linkReset
  | switches (s p) (h : s.port.linkUp = true) : Move s (s.setSwitches p)
  | linkReturn (s) : Move s (s.modPort (fun pt => { pt with linkUp := true }))

/-- A run of moves from `s`. -/
inductive Moves (s : State) : State → Prop
  | refl : Moves s s
  | tail {t u} (h : Moves s t) (m : Move t u) : Moves s u

/-- A predicate that every move keeps is kept by a run of moves. -/
theorem Moves.keeps {P : State → Prop} (hP : ∀ s t, Move s t → P s → P t) {s t : State} (h : Moves s t) (hs : P s) : P t := by
  induction h with
  | refl => exact hs
  | tail _ m ih => exact hP _ _ m ih

theorem Moves.trans {s t u : State} (h : Moves s t) (k : Moves t u) : Moves s u := by
  induction k with
  | refl => exact h
  | tail _ m ih => exact ih.tail m

theorem Moves.does {s t u : State} (h : Moves s t) (w : Work t u) : Moves s u := h.tail (.work w)

/-! Flags and fields. -/

theorem Moves.raiseIf (s : State) (b : Bool) (c : Cause) : Moves s (s.raiseIf b c) := by
  cases b
  · exact Moves.refl
  · exact Moves.refl.does (.raise s c)

theorem State.modectl_eq (s : State) (serve permit intEnable : Bool) : s.modectl serve permit intEnable =
    if serve && decide ((s.modectl false permit intEnable).modes.mode ≠ .starting) then (s.modectl false permit intEnable).serve
    else s.modectl false permit intEnable := rfl

theorem Moves.modectl (s : State) (serve permit intEnable : Bool) : Moves s (s.modectl serve permit intEnable) := by
  rw [State.modectl_eq]
  split
  · exact (Moves.refl.tail (.fields s permit intEnable)).does (.serve _)
  · exact Moves.refl.tail (.fields s permit intEnable)

theorem Moves.timingChange (s : State) (old new : RefState) (n : Nat) (a b c : Bool) :
    Moves s (s.timingChange old new n a b c) :=
  (Moves.refl.does (.event s _)).does (.raise _ _)

/-! The port's queue. -/

/-- No block of an access that is partly served is left. -/
def State.noPart (s : State) : Prop := s.port.partRead = [] ∧ s.port.partLost = false

/-- An access to BAR0. -/
def isRamAccess : Instr → Bool
  | .bar0Write _ _ | .bar0Read _ _ => true
  | _ => false

theorem State.noPart.portOk {s : State} (h : s.noPart) : s.portOk :=
  ⟨fun hr => absurd h.1 hr, fun hl => by simp [h.2] at hl, fun _ => h⟩

theorem State.portOk.noPart {s : State} (h : s.portOk) (hw : ∀ i, s.port.waiting.head? = some i → isRamAccess i = false) :
    s.noPart := by
  constructor
  · by_contra hr
    obtain ⟨offset, length, head⟩ := h.read hr
    exact absurd (hw _ head) (by simp [isRamAccess])
  · by_contra hl
    obtain ⟨offset, data, head⟩ := h.lost (by simpa using hl)
    exact absurd (hw _ head) (by simp [isRamAccess])

theorem State.portOk.noPart_of_empty {s : State} (h : s.portOk) (hw : s.port.waiting = []) : s.noPart :=
  h.noPart (by simp [hw])

/-- Before a write no read is partly served. -/
theorem State.portOk.beforeWrite {s : State} (h : s.portOk) {offset : Nat} {data : List Byte}
    (hd : s.noPart ∨ s.port.waiting.head? = some (.bar0Write offset data)) : s.port.partRead = [] := by
  rcases hd with hd | hd
  · exact hd.1
  · by_contra hr
    obtain ⟨o, n, head⟩ := h.read hr
    rw [hd] at head
    cases head

/-- Before a read no write is partly served. -/
theorem State.portOk.beforeRead {s : State} (h : s.portOk) {offset length : Nat}
    (hd : s.noPart ∨ s.port.waiting.head? = some (.bar0Read offset length)) : s.port.partLost = false := by
  rcases hd with hd | hd
  · exact hd.2
  · by_contra hl
    obtain ⟨o, n, head⟩ := h.lost (by simpa using hl)
    rw [hd] at head
    cases head

/-- The blocks of an access served by its next grant belong to its rest, which stands at the head. -/
theorem State.portOk.part {s : State} (h : s.portOk) {i first rest : Instr} (r : List Instr)
    (hd : s.noPart ∨ s.port.waiting.head? = some i) (hm : s.modes.mode ≠ .starting) (hf : s.firstGrant i = some (first, rest)) :
    ((servePart first s).setWaiting (rest :: r)).portOk := by
  cases i with
  | bar0Write offset data =>
    simp only [State.firstGrant, Option.ite_none_right_eq_some, Option.some.injEq, Prod.mk.injEq] at hf
    obtain ⟨-, rfl, rfl⟩ := hf
    exact ⟨fun hr => absurd (h.beforeWrite hd) hr, fun _ => ⟨_, _, rfl⟩, fun hs => absurd hs hm⟩
  | bar0Read offset length =>
    simp only [State.firstGrant, Option.ite_none_right_eq_some, Option.some.injEq, Prod.mk.injEq] at hf
    obtain ⟨-, rfl, rfl⟩ := hf
    exact ⟨fun _ => ⟨_, _, rfl⟩, fun hl => absurd (h.beforeRead hd) (by rw [Bool.not_eq_false]; exact hl),
      fun hs => absurd hs hm⟩
  | _ => simp [State.firstGrant] at hf

theorem State.raiseIf_port (s : State) (b : Bool) (c : Cause) : (s.raiseIf b c).port.partRead = s.port.partRead ∧
    (s.raiseIf b c).port.partLost = s.port.partLost := by
  cases b <;> exact ⟨rfl, rfl⟩

/-- An access taken with its last block leaves none. -/
theorem State.portOk.taken {s : State} (h : s.portOk) {i : Instr} (q : List Instr)
    (hd : s.noPart ∨ s.port.waiting.head? = some i) (hi : isRamAccess i = true) :
    (takeRamAccess i (s.setWaiting q)).noPart := by
  cases i with
  | bar0Write offset data =>
    simp only [takeRamAccess, State.takeBar0Write]
    split
    · next hm => exact h.starting hm
    · obtain ⟨hr, hl⟩ := State.raiseIf_port (((s.setWaiting q).storePart offset data).modPort
        (fun pt => { pt with partLost := false })) ((s.setWaiting q).storePart offset data).port.partLost .writeViolation
      exact ⟨hr.trans (h.beforeWrite hd), hl⟩
  | bar0Read offset length =>
    simp only [takeRamAccess, State.takeBar0Read]
    split
    · next hm => exact h.starting hm
    · exact ⟨rfl, h.beforeRead hd⟩
  | _ => cases hi

theorem State.asksGrant_isRamAccess {s : State} {i : Instr} (h : s.asksGrant i = true) : isRamAccess i = true := by
  cases i <;> first | rfl | cases h

theorem State.portOk.portTurn {s : State} (h : s.portOk) : s.portTurn.portOk := by
  unfold State.portTurn
  split
  · next hp =>
    rw [Bool.and_eq_true] at hp
    obtain ⟨i, r, hw, asks, -, hm⟩ := State.portAsks_spec hp.1
    have hd : s.noPart ∨ s.port.waiting.head? = some i := .inr (by rw [hw]; rfl)
    rw [hw]
    simp only [State.serveBlock]
    split
    · next hf => exact h.part r hd hm hf
    · exact (h.taken r hd (State.asksGrant_isRamAccess asks)).portOk
  · exact h

theorem State.portOk.congr {s t : State} (h : s.portOk) (hp : t.port.waiting = s.port.waiting)
    (hr : t.port.partRead = s.port.partRead) (hl : t.port.partLost = s.port.partLost)
    (hm : t.modes.mode = .starting → s.modes.mode = .starting) : t.portOk :=
  ⟨by rw [hr, hp]; exact h.read, by rw [hl, hp]; exact h.lost, fun hs => by rw [hr, hl]; exact h.starting (hm hs)⟩

theorem OnlyChanges.portOk {l : List Part} {s t : State} (h : OnlyChanges l s t) (ok : s.portOk)
    (hm : t.modes.mode = .starting → s.modes.mode = .starting) (hw : Part.waiting ∉ l := by decide)
    (hb : Part.blocks ∉ l := by decide) : t.portOk :=
  ok.congr (h.waiting_eq hw) (h.blocks_eq hb).1 (h.blocks_eq hb).2 hm

theorem State.writeEvent_portOk {s : State} (i : RingId) (ok : s.portOk) : (s.writeEvent i).portOk :=
  s.writeEvent_holds i (fun _ ok => ok.portTurn) (fun _ _ _ ok => (State.putBlock_only _ _ _).portOk ok id)
    (fun _ _ h ok => h.portOk ok (by rw [h.modes_eq]; exact id)) ok

theorem Runs.portOk {s t : State} (h : Runs s t) (ok : s.portOk) : t.portOk := by
  refine h.keeps (P := State.portOk) (fun s t d ok => ?_) ok
  cases d with
  | quiet q => exact ok.congr (by rw [q.port]) (by rw [q.port]) (by rw [q.port]) q.starting
  | portTurn => exact ok.portTurn
  | put a bs => exact (s.putBlock_only a bs).portOk ok id
  | raise c => exact (s.raise_only c).portOk ok id
  | event i => exact s.writeEvent_portOk i ok

theorem State.softReset_modes (s : State) : s.softReset.modes = s.modes.softReset := (State.rewriteSections_only _).modes_eq

/-- A link reset leaves nothing of an access (R188). -/
theorem State.linkReset_portOk (s : State) : s.linkReset.portOk := by
  have reset : (s.setPort s.port.linkReset).portOk := State.noPart.portOk ⟨rfl, rfl⟩
  have posts := (Runs.refl.completePosts (2 * (s.takes.toHandle.length + 1))).portOk reset
  have cleared := (State.clearInterrupt_only (((s.setPort s.port.linkReset).completePosts
    (2 * (s.takes.toHandle.length + 1))).modModes (fun mo => { mo with permit := false, intEnable := false }))).portOk
    ((State.modModes_only _ _).portOk posts id) id
  exact ((Runs.refl.abandonTakes _).frame (State.restartBuild_only _)).portOk cleared

/-- Every move keeps what the port holds of a partly served access in order. -/
theorem Move.portOk {s t : State} (h : Move s t) (ok : s.portOk) : t.portOk := by
  cases h with
  | work w => exact w.runs.portOk ok
  | queue q h => exact h ok
  | taken i h => exact h ok
  | part first rest r h => exact h ok
  | causes v => exact (s.setCauses_only v).portOk ok id
  | enables v => exact (s.takeCauseenWrite_only v).portOk ok id
  | fields p i => exact (s.modectl_only false p i).portOk ok id
  | softReset h => exact s.softReset_only.portOk ok (fun hs => by rw [s.softReset_modes] at hs; cases hs)
  | powerOn => exact State.noPart.portOk ⟨rfl, rfl⟩
  | clearDone h => exact ok.congr rfl rfl rfl (fun hs => by cases hs)
  | linkReset => exact s.linkReset_portOk
  | switches p h => exact ok.congr rfl rfl rfl id
  | linkReturn => exact ok.congr rfl rfl rfl id

/-! Driver accesses. -/

theorem State.not_blocked_slotreq {s : State} {i : Instr} (h : s.blocked i = false) (hi : isSlotreq i = true) :
    s.takes.checking = none := by
  simp only [State.blocked, hi, Bool.true_and, Bool.or_eq_false_iff] at h
  simpa using h.1.2

theorem State.serve_takes (s : State) : s.serve.takes = s.takes := s.serve_only.takes_eq

/-- An access that is not one to BAR0 is taken. -/
theorem Moves.takeAccess {i : Instr} {s : State} (hi : isRamAccess i = false) (h : isSlotreq i = true → s.takes.checking = none) :
    Moves s (takeAccess i s) := by
  cases i with
  | bar0Write offset data => cases hi
  | bar0Read offset length => cases hi
  | softReset w =>
    simp only [Machine.takeAccess, State.takeSoftReset]
    split
    · exact Moves.modectl s _ _ _
    · exact Moves.refl.tail (.softReset s ‹_›)
  | requestRun w => exact (Moves.modectl s _ _ _).does (.runRequest _)
  | requestHold w => exact (Moves.modectl s _ _ _).does (.holdRequest _)
  | requestFallback w => exact (Moves.modectl s _ _ _).does (.fallbackRequest _)
  | requestQuiesce w => exact (Moves.modectl s _ _ _).does (.quiesceRequest _)
  | requestConfig w => exact (Moves.modectl s _ _ _).does (.configRequest _)
  | requestInvalid v w =>
    simp only [Machine.takeAccess, State.invalidRequest]
    split
    · exact Moves.modectl s _ _ _
    · exact (Moves.modectl s _ _ _).does (.raise _ _)
  | serve w => exact Moves.modectl s _ _ _
  | overridePermit w => exact Moves.modectl s _ _ _
  | intEnable w => exact Moves.modectl s _ _ _
  | post mask => exact (Moves.refl.does (.serve s)).does (.posts _ mask (s.serve_takes ▸ h rfl))
  | cancel mask => exact (Moves.refl.does (.serve s)).does (.cancels _ mask)
  | slotreqNoAction a m => exact Moves.refl.does (.serve s)
  | release selector count =>
    simp only [Machine.takeAccess, State.takeRelease]
    split
    · exact (Moves.refl.does (.serve s)).does (.release _ _ _)
    · exact (Moves.refl.does (.serve s)).does (.raise _ _)
  | causeWrite v => exact Moves.refl.tail (.causes s _)
  | causeenWrite v => exact Moves.refl.tail (.enables s v)
  | nextcauseRead offset length =>
    have completed : Moves s (s.complete (s.bar2Bytes offset length)) := Moves.refl.does (.completed s _)
    simp only [Machine.takeAccess, State.takeRegisterRead, State.andThen, State.popCause]
    split_ifs
    · exact completed
    · exact completed.tail (.causes _ _)
    · exact completed
  | nextcauseWrite v => exact Moves.refl.tail (.causes s 0)
  | registerWriteDiscarded offset length => exact Moves.raiseIf s _ _
  | _ => exact Moves.refl

/-- The port goes on with a queue: no access is partly served, or the one at the head is that of the queue as it stood. -/
theorem Moves.drain (l : List Instr) (s : State) (hd : s.portOk → s.noPart ∨ l.head? = s.port.waiting.head?) :
    Moves s (drain l s) := by
  induction l generalizing s with
  | nil =>
    refine Moves.refl.tail (.queue s [] (fun ok => State.noPart.portOk ?_))
    exact (hd ok).elim id (fun head => ok.noPart (fun i hi => by rw [← head] at hi; cases hi))
  | cons i r ih =>
    have stays : Moves s (s.setWaiting (i :: r)) := Moves.refl.tail (.queue s _ (fun ok => (hd ok).elim
      (fun none => State.noPart.portOk none)
      (fun head => ⟨fun hr => by obtain ⟨o, n, e⟩ := ok.read hr; exact ⟨o, n, head.trans e⟩,
        fun hl => by obtain ⟨o, d, e⟩ := ok.lost hl; exact ⟨o, d, head.trans e⟩, ok.starting⟩)))
    have at_head (ok : s.portOk) : s.noPart ∨ s.port.waiting.head? = some i := (hd ok).imp_right Eq.symm
    simp only [Machine.drain]
    split
    · exact stays
    · next hb =>
      have hb : s.blocked i = false := by simpa using hb
      split
      · refine Moves.trans ?_ (ih _ (fun ok => .inl (ok.noPart_of_empty (takeAccess_keeps i (s.setWaiting []) rfl))))
        by_cases hi : isRamAccess i = true
        · have taken : Machine.takeAccess i (s.setWaiting []) = takeRamAccess i (s.setWaiting []) := by
            cases i <;> first | rfl | cases hi
          rw [taken]
          exact Moves.refl.tail (.taken s i (fun ok => (ok.taken [] (at_head ok) hi).portOk))
        · rw [Bool.not_eq_true] at hi
          have emptied : Moves s (s.setWaiting []) := Moves.refl.tail (.queue s [] (fun ok => State.noPart.portOk
            ((at_head ok).elim id (fun head => ok.noPart (fun j hj => by rw [head] at hj; cases hj; exact hi)))))
          exact emptied.trans (Moves.takeAccess hi (State.not_blocked_slotreq hb))
      · exact stays
      · next first rest hs =>
        have hf : s.firstGrant i = some (first, rest) ∧ s.modes.mode ≠ .starting := by
          unfold State.serving at hs
          split at hs
          · cases hs
          · next h0 =>
            split at hs
            · cases hs
            · split at hs
              · next hf =>
                cases hs
                simp only [Bool.or_eq_true, decide_eq_true_eq, not_or] at h0
                exact ⟨hf, h0.1.2⟩
              · cases hs
        exact Moves.refl.tail (.part s first rest r (fun ok => ok.part r (at_head ok) hf.2 hf.1))

theorem Moves.arrive (s : State) (i : Instr) : Moves s (s.arrive i) := by
  unfold State.arrive
  split
  · refine Moves.drain _ s (fun ok => ?_)
    cases hw : s.port.waiting with
    | nil => exact .inl (ok.noPart_of_empty hw)
    | cons j r => exact .inr rfl
  · exact Moves.refl

theorem Moves.resume {s t : State} (h : Moves s t) : Moves s t.resume := h.trans (Moves.drain _ t (fun _ => .inr rfl))

/-! Commands of the controller's masters. -/

/-- The commit writer's header writes leave the takes, the build, the mode controller and the entries that wait as they were. -/
theorem State.commitDone_reads (s : State) : s.commitDone.takes = s.takes ∧ s.commitDone.composer = s.composer ∧
    s.commitDone.modes = s.modes ∧ s.commitDone.report.journalQueue = s.report.journalQueue :=
  let frame := s.commitDone_only
  ⟨frame.takes_eq, frame.composer_eq, frame.modes_eq, (Report.ringPart_parts frame.rings_eq .journal).2.2.2.1⟩

theorem State.ctlRead_reads (s : State) : s.ctlRead.takes = s.takes ∧ s.ctlRead.composer = s.composer ∧
    s.ctlRead.modes = s.modes ∧ s.ctlRead.report.journalQueue = s.report.journalQueue :=
  let frame := s.ctlRead_only
  ⟨frame.takes_eq, frame.composer_eq, frame.modes_eq, (Report.ringPart_parts frame.rings_eq .journal).2.2.2.1⟩

theorem State.checksInHand_congr {s t : State} (ht : t.takes = s.takes) (hq : t.report.journalQueue = s.report.journalQueue) :
    t.checksInHand = s.checksInHand := by
  simp only [State.checksInHand, ht, State.finished_congr hq]

theorem State.readsBuild_congr {s t : State} (ht : t.takes = s.takes) (hc : t.composer = s.composer)
    (hq : t.report.journalQueue = s.report.journalQueue) : t.readsBuild = s.readsBuild := by
  simp only [State.readsBuild, State.buildReading, hc, State.checksInHand_congr ht hq, ht]

theorem Moves.readDone (s : State) : Moves s ((s.commitDone.ctlRead.modModes (fun mo => { mo with reading := false })).modPort
    (fun pt => { pt with holdArea := none })) :=
  ((Moves.refl.does (.commitDone s)).does (.ctlRead _)).does (.readingDone _)

theorem Moves.exec_postChecksComplete {s t : State} (h : execPostChecksComplete s = .next t) : Moves s t := by
  unfold execPostChecksComplete at h
  split at h
  · next hg =>
    cases h
    obtain ⟨takes, -, -, queue⟩ := s.commitDone_reads
    have hand : s.commitDone.checksInHand = true := by
      rw [State.checksInHand_congr takes queue]
      simp only [Bool.and_eq_true] at hg
      exact hg.1.1
    exact Moves.resume ((Moves.refl.does (.commitDone s)).does (.continuePosts _ hand))
  · cases h; exact Moves.refl

theorem Moves.exec_buildTakeCheck {s t : State} (h : execBuildTakeCheck s = .next t) : Moves s t := by
  unfold execBuildTakeCheck at h
  split at h
  · cases h; exact Moves.refl
  · next b hb =>
    split at h
    · next hg =>
      cases h
      obtain ⟨takes, composer, -, queue⟩ := s.commitDone_reads
      have reads : s.commitDone.readsBuild = true := by
        rw [State.readsBuild_congr takes composer queue]
        simp only [Bool.and_eq_true] at hg
        exact hg.1
      exact Moves.resume ((Moves.refl.does (.commitDone s)).does (.checkBuildTake _ b (composer ▸ hb) reads))
    · cases h; exact Moves.refl

theorem Moves.exec_fallbackRecordReadDone {s t : State} (h : execFallbackRecordReadDone s = .next t) : Moves s t := by
  unfold execFallbackRecordReadDone at h
  split at h
  · cases h; exact Moves.resume (Moves.readDone s)
  · cases h; exact Moves.refl

theorem Moves.exec_activationChecksComplete {s t : State} {n : Nat} (h : execActivationChecksComplete n s = .next t) :
    Moves s t := by
  unfold execActivationChecksComplete at h
  split at h
  · next image hp =>
    split at h
    · next hg =>
      cases h
      obtain ⟨takes, -, modes, -⟩ := s.commitDone_reads
      obtain ⟨takes', -, modes', -⟩ := s.commitDone.ctlRead_reads
      have none : s.takes.checking = none := by
        simp only [Bool.and_eq_true] at hg
        simpa using hg.1.2
      exact Moves.resume (((Moves.refl.does (.commitDone s)).does (.ctlRead _)).does
        (.checksComplete _ image (by rw [modes', modes, hp]) (by rw [takes', takes, none])))
    · cases h; exact Moves.refl
  all_goals cases h; exact Moves.refl

theorem Moves.exec_buildComplete {s t : State} {n : Word} {a : Nat} (h : execBuildComplete n a s = .next t) : Moves s t := by
  unfold execBuildComplete at h
  split at h
  · cases h; exact Moves.refl
  · next b hb =>
    split at h
    · next hg =>
      cases h
      obtain ⟨running, -, -, checked⟩ := hg
      exact Moves.refl.does (.buildComplete s b hb running checked)
    · cases h; exact Moves.refl

theorem Moves.exec_mirrorRewriteDone {s t : State} {m : Mirror} (h : execMirrorRewriteDone m s = .next t) : Moves s t := by
  unfold execMirrorRewriteDone at h
  split_ifs at h
  · cases h; exact Moves.resume ((Moves.refl.does (.commitDone s)).does (.writeSection _ _))
  · cases h; exact Moves.resume ((Moves.refl.does (.commitDone s)).does (.completeMirror _ _))
  all_goals cases h; exact Moves.refl

theorem Moves.exec_sourceRecordPublished {s t : State} {i : Fin 44} (h : execSourceRecordPublished i s = .next t) :
    Moves s t := by
  unfold execSourceRecordPublished at h
  split at h
  · cases h; exact Moves.refl
  · split_ifs at h
    · cases h; exact Moves.resume ((Moves.refl.does (.commitDone s)).does (.writeSection _ _))
    · cases h; exact Moves.resume ((Moves.refl.does (.commitDone s)).does (.publishSource _ _ _))
    all_goals cases h; exact Moves.refl

theorem Moves.exec_slotTableWritten {s t : State} {p : SlotTablePart} (h : execSlotTableWritten p s = .next t) : Moves s t := by
  unfold execSlotTableWritten at h
  split at h
  · cases h; exact Moves.refl
  · split_ifs at h
    · cases h; exact Moves.resume ((Moves.refl.does (.commitDone s)).does (.writeSection _ _))
    · cases h; exact Moves.resume ((Moves.refl.does (.commitDone s)).does (.copySlotPart _ _ _))
    · cases h; exact Moves.resume (Moves.refl.does (.commitDone s))
    · cases h; exact Moves.refl

/-! The source monitor. -/

theorem SourceRec.cleared_ok (r : SourceRec) {st : SourceState} (n : Nat) (c : Option Measurement)
    (h : st = .disabled ∨ st = .absent ∨ st = .acquiring) : (r.cleared st n c).ok := by
  rcases h with rfl | rfl | rfl <;> simp [SourceRec.ok, SourceRec.cleared]

theorem SourceRec.lostRec_ok (r : SourceRec) : r.lostRec.ok := by
  simp [SourceRec.ok, SourceRec.lostRec, SourceRec.cleared]

theorem Moves.noteLane (s : State) (i : Nat) (a : Bool) (w : Time) : Moves s (s.noteLane i a w) :=
  Moves.refl.does (.setSource s i _ (fun h => h) rfl)

theorem Moves.noteFrame (s : State) (i : Nat) (m : Measurement) : Moves s (s.noteFrame i m) :=
  Moves.refl.does (.setSource s i _ (fun h => h) rfl)

theorem Moves.loseLocked (s : State) (i : Nat) (hl : (s.source i).state = .locked) : Moves s (s.loseLocked i) := by
  unfold State.loseLocked
  dsimp only
  split
  · exact Moves.refl.does (.changeSource s i _ _ (fun _ => SourceRec.lostRec_ok _) rfl)
  · refine Moves.refl.does (.changeSource s i _ _ (fun h => ?_) rfl)
    simp only [SourceRec.ok, hl] at h
    simpa [SourceRec.ok] using h.1

theorem Moves.sourceLoss (s : State) (i : Nat) : Moves s (s.sourceLoss i) := by
  unfold State.sourceLoss
  dsimp only
  split
  · exact Moves.refl.does (.changeSource s i _ _ (fun _ => SourceRec.cleared_ok _ _ _ (by simp)) rfl)
  · exact Moves.refl.does (.changeSource s i _ _ (fun _ => SourceRec.cleared_ok _ _ _ (by simp)) rfl)
  · exact Moves.loseLocked s i ‹_›
  all_goals exact Moves.refl

theorem Moves.requalify (s : State) (i : Nat) (m : Measurement) : Moves s (s.requalify i m) :=
  Moves.refl.does (.changeSource s i _ _ (fun _ => SourceRec.cleared_ok _ _ _ (by simp)) rfl)

theorem State.useRate_source (s : State) (m : Measurement) (i : Nat) : (s.useRate m).source i = s.source i := by
  simp only [State.source, (s.useRate_only m).sources_eq]

theorem Moves.useRate (s : State) (m : Measurement) : Moves s (s.useRate m) := by
  unfold State.useRate
  split
  · exact Moves.refl
  · exact Moves.refl.does (.freeIdx s _)

theorem Moves.qualify (s : State) (i : Nat) (m : Measurement) (ha : (s.source i).state = .acquiring) :
    Moves s (s.qualify i m) := by
  have held (h : ((s.useRate m).source i).ok) : ((s.useRate m).source i).holdEnd = none := by
    rw [State.useRate_source] at h ⊢
    simpa [SourceRec.ok, ha] using h.2
  unfold State.qualify State.andThen
  dsimp only
  split
  · exact (Moves.useRate s m).does (.changeSource _ i _ _ (fun h => by simp [SourceRec.ok, held h]) rfl)
  · exact (Moves.useRate s m).does (.changeSource _ i _ _ (fun h => by simp [SourceRec.ok, held h]) rfl)

theorem State.acquireFrame_eq (s : State) (i : Nat) (m : Measurement) : s.acquireFrame i m =
    if 3 ≤ (s.source i).stableAfter m then s.qualify i m
    else s.setSource i { s.source i with stable := (s.source i).stableAfter m, candidate := some m } := rfl

theorem Moves.acquireFrame (s : State) (i : Nat) (m : Measurement) (ha : (s.source i).state = .acquiring) :
    Moves s (s.acquireFrame i m) := by
  rw [State.acquireFrame_eq]
  split
  · exact Moves.qualify s i m ha
  · exact Moves.refl.does (.setSource s i _ (fun h => h) rfl)

theorem Moves.sourceFrame (s : State) (i : Nat) (m : Measurement) : Moves s (s.sourceFrame i m) := by
  unfold State.sourceFrame
  dsimp only
  split
  case h_1 => exact Moves.refl
  case h_2 => exact Moves.requalify s i m
  case h_3 h => exact Moves.acquireFrame s i m h
  case h_4 =>
    split
    · exact Moves.refl
    · split
      · exact Moves.requalify s i m
      · exact (Moves.refl.does (.event s _)).trans (Moves.requalify _ i m)
  case h_5 =>
    split
    · exact Moves.refl
    · exact Moves.requalify s i m
  case h_6 hl =>
    split
    · refine Moves.refl.does (.changeSource s i _ _ (fun h => ?_) rfl)
      simp only [SourceRec.ok, hl] at h
      simpa [SourceRec.ok] using h.1
    · exact Moves.requalify s i m

theorem Moves.exec_activityArrival {s t : State} {lane : Fin 40} (h : execActivityArrival lane s = .next t) : Moves s t := by
  unfold execActivityArrival State.andThen at h
  dsimp only at h
  split at h
  · cases h; exact Moves.refl
  · cases h
    split
    · exact (Moves.noteLane s _ _ _).does (.changeSource _ _ _ _ (fun _ => SourceRec.cleared_ok _ _ _ (by simp)) rfl)
    all_goals exact Moves.noteLane s _ _ _

theorem Moves.exec_activityLoss {s t : State} {lane : Fin 40} (h : execActivityLoss lane s = .next t) : Moves s t := by
  unfold execActivityLoss at h
  dsimp only at h
  split at h
  · cases h; exact (Moves.noteLane s _ _ _).trans (Moves.sourceLoss _ _)
  · cases h; exact Moves.refl

theorem Moves.exec_frameArrival {s t : State} {lane : Fin 40} {m : Measurement} (h : execFrameArrival lane m s = .next t) :
    Moves s t := by
  unfold execFrameArrival at h
  dsimp only at h
  split at h
  · cases h; exact (Moves.noteFrame s _ _).trans (Moves.sourceFrame _ _ _)
  · cases h; exact Moves.refl

theorem Moves.exec_frameTimeout {s t : State} {lane : Fin 40} (h : execFrameTimeout lane s = .next t) : Moves s t := by
  unfold execFrameTimeout State.andThen at h
  dsimp only at h
  split at h
  · cases h
    split
    · exact (Moves.refl.does (.clock s _)).does (.setSource _ _ _ (fun h => h) rfl)
    · exact (Moves.refl.does (.clock s _)).trans (Moves.sourceLoss _ _)
    · exact (Moves.refl.does (.clock s _)).trans (Moves.sourceLoss _ _)
    all_goals exact Moves.refl
  · cases h; exact Moves.refl

theorem Moves.exec_lossHoldExpiry {s t : State} {lane : Fin 40} (h : execLossHoldExpiry lane s = .next t) : Moves s t := by
  unfold execLossHoldExpiry at h
  dsimp only at h
  split at h
  · cases h
    exact (Moves.refl.does (.clock s _)).does (.changeSource _ _ _ _ (fun _ => SourceRec.lostRec_ok _) rfl)
  · cases h; exact Moves.refl

/-! The wall timing unit. -/

theorem Timing.moveNext_planDone (t : Timing) (r : Time) : (t.moveNext r).planDone = t.planDone := by
  unfold Timing.moveNext
  split <;> rfl

theorem Timing.correct_planDone (t : Timing) (r : Time) (p : Nat) : (t.correct r p).planDone = t.planDone := by
  unfold Timing.correct
  split
  · exact t.moveNext_planDone _
  · rfl

theorem Timing.goodArrival_planDone (t : Timing) (r : Time) : (t.goodArrival r).planDone = t.planDone := by
  unfold Timing.goodArrival
  dsimp only
  rw [Timing.correct_planDone]
  split <;> rfl

theorem Timing.countRun_planDone (t : Timing) (iv : Option Nat) : (t.countRun iv).planDone = t.planDone := by
  unfold Timing.countRun
  split
  · split <;> rfl
  · rfl

/-- The schedule of the next boundary as a realignment at `r` leaves it, in each of its two cases (R122). -/
theorem State.realign_eq (s : State) (old : RefState) (r : Time) (p : Nat) : s.realign old r p =
    if 2 * (r - s.timing.lastBoundary) < p then
      (s.setTiming { s.timing.moveNext (r + p) with prediction := some (r + p) }).timingChange old .locked
        (wholeMicros (r - s.timing.lastBoundary)) true false false
    else
      (if s.timing.planDone then s.setTiming { s.timing with nextBoundary := r, prediction := some (r + p) }
        else (s.setTiming { s.timing with nextBoundary := r, prediction := some (r + p) }).planPoint).boundary.timingChange old
          .locked (wholeMicros (s.timing.nextBoundary - r)) true true false := rfl

theorem Moves.realign (s : State) (old : RefState) (r : Time) (p : Nat) : Moves s (s.realign old r p) := by
  rw [State.realign_eq]
  split
  · exact (Moves.refl.does (.timing s { s.timing.moveNext (r + p) with prediction := some (r + p) }
      (Timing.moveNext_planDone s.timing (r + p)))).trans (Moves.timingChange ..)
  · have set : Moves s (s.setTiming { s.timing with nextBoundary := r, prediction := some (r + p) }) :=
      Moves.refl.does (.timing s _ (by rfl))
    refine Moves.trans ?_ (Moves.timingChange ..)
    split
    · exact set.does (.boundary _)
    · next h => exact (set.does (.planPoint _ (by simpa using h))).does (.boundary _)

/-- The eighth good interval moves the state to LOCKED, and the schedule is corrected or realigned (R118, R121). -/
theorem State.lockReference_eq (s : State) (r : Time) : s.lockReference r =
    let t := s.timing.lock r
    let p := meanInterval s.timing.runIntervals
    if s.timing.ref = .holdover ∧ 200 * min (distance r t.lastBoundary) (distance r t.nextBoundary) ≤ p then
      ((s.setTiming t).setTiming (t.correct r p)).timingChange s.timing.ref .locked 0 false false false
    else (s.setTiming t).realign s.timing.ref r p := rfl

theorem Moves.lockReference (s : State) (r : Time) : Moves s (s.lockReference r) := by
  have lock : Moves s (s.setTiming (s.timing.lock r)) := Moves.refl.does (.timing s _ (by rfl))
  rw [State.lockReference_eq]
  dsimp only
  split
  · exact (lock.does (.timing _ _ (Timing.correct_planDone _ _ _))).trans (Moves.timingChange ..)
  · exact lock.trans (Moves.realign ..)

/-- What a pulse does once the clock has reached its time (R117 to R121). -/
theorem execReferenceArrival_eq (time : Time) (s : State) : execReferenceArrival time s =
    let u := s.reach time
    let t := { u.timing with prevArrival := some time }
    let run := t.countRun (u.timing.prevArrival.map (fun q => time - q))
    match t.ref with
    | .locked => match t.prediction with
      | none => .next (u.setTiming t)
      | some q =>
        if inWindow (t.measured.getD t.rate.nominal) q time then .next (u.setTiming (t.goodArrival time)) else .next (u.setTiming t)
    | .freerun | .holdover =>
      if 8 ≤ (u.setTiming run).timing.goodRun then .next ((u.setTiming run).lockReference time) else .next (u.setTiming run) := rfl

theorem Moves.exec_referenceArrival {s t : State} {time : Time} (h : execReferenceArrival time s = .next t) : Moves s t := by
  have clock : Moves s (s.reach time) := Moves.refl.does (.clock s _)
  have run (v : Timing) (hv : v.planDone = (s.reach time).timing.planDone) : Moves s ((s.reach time).setTiming v) :=
    clock.does (.timing _ v hv)
  have count := run _ (Timing.countRun_planDone { (s.reach time).timing with prevArrival := some time }
    ((s.reach time).timing.prevArrival.map (fun q => time - q)))
  rw [execReferenceArrival_eq] at h
  dsimp only at h
  split at h
  · split at h
    · injection h with h
      exact h ▸ run _ (by rfl)
    · split at h
      · injection h with h
        exact h ▸ run _ (Timing.goodArrival_planDone _ _)
      · injection h with h
        exact h ▸ run _ (by rfl)
  all_goals
    split at h
    · injection h with h
      exact h ▸ count.trans (Moves.lockReference _ _)
    · injection h with h
      exact h ▸ count

theorem Moves.exec_missingPulse {s t : State} (h : execMissingPulse s = .next t) : Moves s t := by
  unfold execMissingPulse State.andThen at h
  split at h
  · next q _ hq =>
    have clock : Moves s (s.reach (q + s.timing.measured.getD s.timing.rate.nominal / 200)) := Moves.refl.does (.clock s _)
    dsimp only at h
    split at h
    · injection h with h
      subst h
      exact (clock.does (.timing _ _ (by rfl))).trans (Moves.timingChange ..)
    · injection h with h
      subst h
      exact clock.does (.timing _ _ (by rfl))
  · injection h with h
    exact h ▸ Moves.refl

theorem Moves.exec_holdoverExpiry {s t : State} (h : execHoldoverExpiry s = .next t) : Moves s t := by
  unfold execHoldoverExpiry State.andThen at h
  split at h
  · next start _ hs =>
    have clock : Moves s (s.reach (start + 10 * oneSecond)) := Moves.refl.does (.clock s _)
    injection h with h
    subst h
    exact (clock.does (.timing _ _ (by rfl))).trans (Moves.timingChange ..)
  · injection h with h
    exact h ▸ Moves.refl

theorem Moves.exec_supervisionExpiry {s t : State} (h : execSupervisionExpiry s = .next t) : Moves s t := by
  unfold execSupervisionExpiry State.andThen at h
  split at h
  · cases h; exact Moves.refl
  · next start hs =>
    injection h with h
    subst h
    have clock : Moves s (s.reach (start + (s.modes.captured.map (·.supervision)).getD 0 * hundredMs)) := Moves.refl.does (.clock s _)
    refine (clock.does (.event _ _)).does (.supervisionFallback _ ?_)
    rw [(State.handEvent_only _ _).modes_eq, (State.reach_only _ _).modes_eq, hs]
    exact Option.some_ne_none start

/-! Every command. -/

/-- What a command can do. -/
theorem Moves.exec {i : Instr} {s t : State} (h : exec i s = .next t) : Moves s t := by
  cases i with
  | powerOnReset => cases h; exact Moves.refl.tail (.powerOn s)
  | ramClearComplete =>
    change execRamClearComplete s = _ at h
    unfold execRamClearComplete at h
    split at h
    · cases h; exact Moves.refl.tail (.clearDone s ‹_›)
    · cases h; exact Moves.refl
  | linkReset cause => cases h; exact Moves.refl.tail (.linkReset s)
  | pcieConfigChange p =>
    change execPcieConfigChange p s = _ at h
    unfold execPcieConfigChange at h
    split at h
    · cases h; exact Moves.refl.tail (.switches s p ‹_›)
    · cases h; exact Moves.refl
  | linkReturn => cases h; exact Moves.refl.tail (.linkReturn s)
  | bar0Write offset data =>
    change execBar0Write offset data s = _ at h
    unfold execBar0Write at h
    split at h
    · cases h; exact Moves.arrive s _
    · cases h
  | bar0Read offset length =>
    change execBar0Read offset length s = _ at h
    unfold execBar0Read at h
    split at h
    · cases h; exact Moves.arrive s _
    · cases h
  | fallbackRecordReadDone => exact Moves.exec_fallbackRecordReadDone h
  | postChecksComplete => exact Moves.exec_postChecksComplete h
  | activationChecksComplete n => exact Moves.exec_activationChecksComplete h
  | planPoint =>
    change execPlanPoint s = _ at h
    unfold execPlanPoint at h
    split at h
    · cases h; exact Moves.refl
    · next hp => cases h; exact (Moves.refl.does (.clock s _)).does (.planPoint _ (by simpa using hp))
  | buildTakeCheck => exact Moves.exec_buildTakeCheck h
  | buildComplete n a => exact Moves.exec_buildComplete h
  | boundary => cases h; exact (Moves.refl.does (.clock s _)).does (.boundary _)
  | mirrorRewriteDone m => exact Moves.exec_mirrorRewriteDone h
  | sourceRecordPublished i => exact Moves.exec_sourceRecordPublished h
  | slotTableWritten p => exact Moves.exec_slotTableWritten h
  | ringEntryWrite r =>
    change execRingEntryWrite r s = _ at h
    unfold execRingEntryWrite at h
    split at h
    · cases h; exact Moves.refl
    · cases h; exact Moves.resume (Moves.refl.does (.writeEntry s r))
  | ringHeaderRewrite r =>
    change execRingHeaderRewrite r s = _ at h
    unfold execRingHeaderRewrite at h
    split at h
    · cases h; exact Moves.resume (Moves.refl.does (.flushRing s r))
    · cases h; exact Moves.refl
  | activityArrival lane => exact Moves.exec_activityArrival h
  | activityLoss lane => exact Moves.exec_activityLoss h
  | frameArrival lane m => exact Moves.exec_frameArrival h
  | frameTimeout lane => exact Moves.exec_frameTimeout h
  | lossHoldExpiry lane => exact Moves.exec_lossHoldExpiry h
  | referenceArrival time => exact Moves.exec_referenceArrival h
  | missingPulse => exact Moves.exec_missingPulse h
  | holdoverExpiry => exact Moves.exec_holdoverExpiry h
  | supervisionExpiry => exact Moves.exec_supervisionExpiry h
  | _ => cases h; exact Moves.arrive s _

theorem Moves.tick (s : State) : Moves s s.tick := by
  unfold State.tick
  split
  · exact Moves.resume ((Moves.refl.does (.clock s _)).does (.grant _ _))
  · exact Moves.resume (Moves.refl.does (.clock s _))

/-- What a step can do. -/
theorem Moves.step {s t : State} (h : step s = .next t) : Moves s t := by
  unfold Machine.step at h
  split at h
  · cases h; exact Moves.tick s
  · exact (Moves.refl.does (.pending s _)).trans (Moves.exec h)

/-- A predicate that every move keeps is kept by every step. -/
theorem step_keeps {P : State → Prop} (hP : ∀ s t, Move s t → P s → P t) (s t : State) (hs : P s) (h : step s = .next t) : P t :=
  (Moves.step h).keeps hP hs

end Sys2Proof.Machine
end

section
-- Many short proofs follow one another: taken one at a time they need one thread's memory, not one's for each.
set_option Elab.async false
/-! PROOF. Every step keeps the canonical form of the Exchange RAM, the interrupt as its terms give it, and both event rings
within their capacities (R155, R171, R172, R183, R188). -/

namespace Sys2Proof.Machine

/-! What a move that is not a run changes of the parts these invariants read. -/

theorem State.linkReset_eq (s : State) : s.linkReset =
    let u := (s.setPort s.port.linkReset).completePosts (2 * (s.takes.toHandle.length + 1))
    let v := (u.modModes (fun mo => { mo with permit := false, intEnable := false })).clearInterrupt
    (v.abandonTakes v.busySlots).restartBuild := rfl

/-! The Exchange RAM (R183). -/

theorem OnlyChanges.memoryOk {l : List Part} {s t : State} (h : OnlyChanges l s t) (ok : s.memoryOk)
    (hr : Part.ram ∉ l := by decide) : t.memoryOk := by
  unfold State.memoryOk
  rw [h.ram_eq hr]
  exact ok

theorem servePart_memoryOk (i : Instr) {s : State} (ok : s.memoryOk) : (servePart i s).memoryOk := by
  unfold servePart
  split
  · exact Memory.wf_write _ _ ok
  · exact ok
  · exact ok

theorem takeRamAccess_memoryOk (i : Instr) {s : State} (ok : s.memoryOk) : (takeRamAccess i s).memoryOk := by
  unfold takeRamAccess
  split
  · unfold State.takeBar0Write
    split
    · exact (State.raise_only _ _).memoryOk ok
    · exact (State.raiseIf_only _ _ _).memoryOk (s := (s.storePart _ _).modPort _) (Memory.wf_write _ _ ok)
  · exact (State.takeBar0Read_only _ _ _).memoryOk ok
  · exact ok

theorem State.portTurn_memoryOk {s : State} (ok : s.memoryOk) : s.portTurn.memoryOk := by
  unfold State.portTurn
  split
  · split
    · exact ok
    · unfold State.serveBlock
      split
      · exact (State.setWaiting_only _ _).memoryOk (servePart_memoryOk _ ok)
      · exact takeRamAccess_memoryOk _ ((State.setWaiting_only s _).memoryOk ok)
  · exact ok

theorem State.putBlock_memoryOk {s : State} (a : Nat) (bs : List Byte) (ok : s.memoryOk) : (s.putBlock a bs).memoryOk :=
  Memory.wf_write a bs ok

theorem Runs.memoryOk {s t : State} (h : Runs s t) (ok : s.memoryOk) : t.memoryOk := by
  refine h.keeps (P := State.memoryOk) (fun s t d ok => ?_) ok
  cases d with
  | quiet q => unfold State.memoryOk; rw [q.ram]; exact ok
  | portTurn => exact State.portTurn_memoryOk ok
  | put a bs => exact State.putBlock_memoryOk a bs ok
  | raise c => exact (s.raise_only c).memoryOk ok
  | event i =>
    exact s.writeEvent_holds i (fun _ => State.portTurn_memoryOk) (fun _ a bs => State.putBlock_memoryOk a bs)
      (fun _ _ h ok => h.memoryOk ok) ok

theorem State.linkReset_memoryOk {s : State} (ok : s.memoryOk) : s.linkReset.memoryOk := by
  rw [s.linkReset_eq]
  have posts := (Runs.refl.completePosts (2 * (s.takes.toHandle.length + 1))).memoryOk (s := s.setPort s.port.linkReset) ok
  exact ((Runs.refl.abandonTakes _).frame (State.restartBuild_only _)).memoryOk
    ((State.clearInterrupt_only _).memoryOk ((State.modModes_only _ _).memoryOk posts))

theorem Move.memoryOk {s t : State} (h : Move s t) (ok : s.memoryOk) : t.memoryOk := by
  cases h with
  | work w => exact w.runs.memoryOk ok
  | queue q h => exact ok
  | taken i h => exact takeRamAccess_memoryOk i ok
  | part first rest r h => exact servePart_memoryOk first ok
  | causes v => exact ok
  | enables v => exact ok
  | fields p i => exact (s.modectl_only false p i).memoryOk ok
  | softReset h => exact s.softReset_only.memoryOk ok
  | powerOn => exact Memory.wf_nil
  | clearDone h => exact Memory.wf_nil
  | linkReset => exact State.linkReset_memoryOk ok
  | switches p h => exact ok
  | linkReturn => exact ok

theorem Memory.read_write (m : Memory) (a : Nat) (bs : List Byte) (x : Nat) : Memory.read (Memory.write m a bs) x =
    if a ≤ x ∧ x < a + bs.length then bs.getD (x - a) 0 else Memory.read m x := by
  split
  · next h =>
    obtain ⟨k, rfl⟩ := Nat.exists_eq_add_of_le h.1
    have hk : k < bs.length := by omega
    rw [Memory.read_write_inside m a bs k hk, Nat.add_sub_cancel_left, List.getD_eq_getElem bs 0 hk]
  · exact Memory.read_write_outside m a bs x (by omega)

/-- Settles O4: the Exchange RAM is only ever written, or cleared. -/
theorem memoryStaysCanonical : Obligations.MemoryStaysCanonical :=
  ⟨step_keeps (fun _ _ m => m.memoryOk), fun _ => Iff.rfl, fun _ _ h => Memory.read_of_absent h, Memory.read_write,
    fun _ _ _ => ⟨rfl, rfl⟩⟩

/-! The interrupt (R171, R172). -/

theorem Quiet.sets {s t : State} (h : Quiet s t) : SetsFlags s t := by
  have causes := h.causes
  simp only [Report.causePart, Prod.mk.injEq] at causes
  obtain ⟨flags, enables, condition⟩ := causes
  have port := h.port
  refine ⟨fun _ hk => flags ▸ hk, enables, h.master, by rw [port]; exact ⟨rfl, rfl⟩, fun ok => ⟨?_, ?_, ?_⟩⟩
  · rw [condition, ok.condition, interruptCondition, interruptCondition, h.master, flags, enables]
  · rw [port, condition]; exact ok.line
  · rw [port, condition]; simp

/-- A run only sets flags, the interrupt delivered over them. -/
theorem Runs.sets {s t : State} (h : Runs s t) : SetsFlags s t := by
  induction h with
  | refl => exact SetsFlags.refl s
  | tail _ d ih =>
    refine ih.next ?_
    cases d with
    | quiet q => exact q.sets
    | portTurn => exact State.portTurn_sets _
    | put a bs => exact SetsFlags.of_quiet (State.putBlock_only _ a bs)
    | raise c => exact State.raise_sets _ c
    | event i => exact State.writeEvent_sets _ i

theorem State.takeCauseenWrite_delivers (s : State) (v : Word) : Delivers s (s.takeCauseenWrite v) := by
  unfold State.takeCauseenWrite
  exact Delivers.of_evaluate rfl rfl

theorem State.linkReset_interruptOk (s : State) : s.linkReset.interruptOk := by
  rw [s.linkReset_eq]
  have posts := (Runs.refl.completePosts (s := s.setPort s.port.linkReset) (2 * (s.takes.toHandle.length + 1))).sets.link
  have cleared : (((s.setPort s.port.linkReset).completePosts (2 * (s.takes.toHandle.length + 1))).modModes
      (fun mo => { mo with permit := false, intEnable := false })).clearInterrupt.interruptOk := ⟨rfl, rfl, fun _ => posts.2⟩
  exact ((Runs.refl.abandonTakes _).frame (State.restartBuild_only _)).sets.interruptOk cleared

theorem State.softReset_causePart (s : State) : s.softReset.report.causePart = (0, 0, false) :=
  (State.rewriteSections_only _).causes_eq

/-- Only the status writer's work changes with the sections left to be rewritten. -/
theorem State.rewriteSections_eq (s : State) : s.rewriteSections =
    s.setStatus (if s.map.isSome then { StatusWriter.reset with toRewrite := [3, 4, 5, 6, 7] } else s.status) := by
  unfold State.rewriteSections
  split <;> rfl

theorem State.softReset_port (s : State) : s.softReset.port = { s.port with holdArea := none, line := false } := by
  unfold State.softReset State.andThen
  dsimp only
  rw [State.rewriteSections_eq]
  rfl

theorem State.softReset_interruptOk {s : State} (ok : s.interruptOk) : s.softReset.interruptOk := by
  have causes := s.softReset_causePart
  simp only [Report.causePart, Prod.mk.injEq] at causes
  obtain ⟨flags, enables, condition⟩ := causes
  refine ⟨?_, ?_, ?_⟩
  · rw [condition, interruptCondition_eq_false_of_causes _ flags]
  · rw [condition, s.softReset_port]; rfl
  · rw [s.softReset_port]; exact ok.link

/-- Every move keeps the interrupt as its terms give it. -/
theorem Move.interruptOk {s t : State} (h : Move s t) (ok : s.interruptOk) : t.interruptOk := by
  cases h with
  | work w => exact w.runs.sets.interruptOk ok
  | queue q h => exact (SetsFlags.of_quiet (s.setWaiting_only q)).interruptOk ok
  | taken i h => exact ((SetsFlags.of_quiet (s.setWaiting_only [])).next (takeRamAccess_sets i _)).interruptOk ok
  | part first rest r h =>
    exact ((SetsFlags.of_quiet (servePart_only first s)).next (SetsFlags.of_quiet (State.setWaiting_only _ _))).interruptOk ok
  | causes v => exact (s.setCauses_delivers v).interruptOk ok ⟨rfl, rfl⟩
  | enables v => exact (s.takeCauseenWrite_delivers v).interruptOk ok ⟨rfl, rfl⟩
  | fields p i => exact (s.modectl_delivers false p i).interruptOk ok ((s.modectl_only false p i).link_eq)
  | softReset h => exact State.softReset_interruptOk ok
  | powerOn => exact ⟨rfl, rfl, fun h => by cases h⟩
  | clearDone h => exact ⟨ok.condition, ok.line, ok.link⟩
  | linkReset => exact s.linkReset_interruptOk
  | switches p h => exact ⟨ok.condition, rfl, fun down => absurd (h.symm.trans down) (by decide)⟩
  | linkReturn => exact ⟨ok.condition, ok.line, fun down => by cases down⟩

/-- Every position below 14 is that of a flag (R168). -/
theorem Cause.exists_code {k : Nat} (h : k < 14) : ∃ c : Cause, c.code - 1 = k := by
  match k, h with
  | 0, _ => exact ⟨.fallbackEntered, rfl⟩
  | 1, _ => exact ⟨.holdEntered, rfl⟩
  | 2, _ => exact ⟨.activationFailed, rfl⟩
  | 3, _ => exact ⟨.modeFail, rfl⟩
  | 4, _ => exact ⟨.urgentWatermark, rfl⟩
  | 5, _ => exact ⟨.journalWatermark, rfl⟩
  | 6, _ => exact ⟨.routineWatermark, rfl⟩
  | 7, _ => exact ⟨.overrun, rfl⟩
  | 8, _ => exact ⟨.eventsLost, rfl⟩
  | 9, _ => exact ⟨.slotRefused, rfl⟩
  | 10, _ => exact ⟨.writeViolation, rfl⟩
  | 11, _ => exact ⟨.releaseError, rfl⟩
  | 12, _ => exact ⟨.timingChange, rfl⟩
  | 13, _ => exact ⟨.modeReached, rfl⟩
  | k + 14, h => omega

/-- Settles O5: runs only set flags, and every other move delivers the interrupt or resets it. -/
theorem interruptFollowsItsTerms : Obligations.InterruptFollowsItsTerms := by
  refine ⟨step_keeps (fun _ _ m => m.interruptOk), fun master r => ?_, State.causeSet_eq, fun c => ?_⟩
  · rw [interruptCondition_iff]
    refine and_congr_right fun _ => ⟨fun ⟨k, set, enabled⟩ => ?_, fun ⟨c, set, enabled⟩ => ⟨_, set, enabled⟩⟩
    obtain ⟨c, rfl⟩ := Cause.exists_code (BitVec.lt_of_getLsbD set)
    exact ⟨c, set, enabled⟩
  · cases c <;> decide

/-! The event rings (R155). -/

theorem OnlyChanges.eventRingsOk {l : List Part} {s t : State} (h : OnlyChanges l s t) (ok : s.eventRingsOk)
    (hr : Part.rings ∉ l := by decide) : t.eventRingsOk :=
  eventRingsOk_congr (Report.eventPart_congr (h.rings_eq hr)) ok

/-- What the invariant says of one event ring. -/
def Report.roomFor (r : Report) (i : RingId) : Prop :=
  (r.ring i).fill ≤ (r.ring i).capacity ∧ (r.waitingFor i ≠ 0 → (r.ring i).fill < (r.ring i).capacity)

theorem eventRingsOk_iff (s : State) : s.eventRingsOk ↔ s.report.roomFor .urgent ∧ s.report.roomFor .routine := by
  simp only [State.eventRingsOk, Ring.roomFor, Report.roomFor, Report.ring, Report.waitingFor, ne_eq, List.length_eq_zero_iff]

theorem Report.waitingFor_eq (r : Report) {i : RingId} (hi : i ≠ .journal) : r.waitingFor i = (r.queue i).length := by
  cases i <;> first | rfl | exact absurd rfl hi

/-- The ring of an entry that is counted holds one entry more. -/
theorem State.countEntry_ring (s : State) (i : RingId) : (s.countEntry i).report.ring i = (s.report.ring i).counted i := by
  unfold State.countEntry
  simp only [(State.raiseIf_ring _ _ _ _).1, (State.writeRingHeader_rings _ _ _).1, State.setReport_report, Report.ring_setRing,
    if_true]

theorem Ring.counted_fill (r : Ring) (i : RingId) : (r.counted i).fill = r.fill + 1 ∧ (r.counted i).capacity = r.capacity := by
  cases i <;> exact ⟨rfl, rfl⟩

theorem State.loseEvents_ring (s : State) (i : RingId) (n : Nat) :
    ((s.loseEvents i n).report.ring i).fill = (s.report.ring i).fill ∧
      ((s.loseEvents i n).report.ring i).capacity = (s.report.ring i).capacity := by
  unfold State.loseEvents
  split
  · exact ⟨rfl, rfl⟩
  · change ((s.report.setRing i ((s.report.ring i).gapRise n)).ring i).fill = _ ∧
      ((s.report.setRing i ((s.report.ring i).gapRise n)).ring i).capacity = _
    rw [Report.ring_setRing, if_pos rfl]
    exact ⟨rfl, rfl⟩

/-- With an entry counted in a ring that had a place, what still waits has one, or is lost with the ring full. -/
theorem State.loseWaiting_roomFor (s : State) {i : RingId} (hi : i ≠ .journal)
    (h : (s.report.ring i).fill ≤ (s.report.ring i).capacity) : (s.loseWaiting i).report.roomFor i := by
  unfold State.loseWaiting
  split
  · obtain ⟨fill, capacity⟩ := (s.setReport (s.report.setQueue i [])).loseEvents_ring i (s.report.queue i).length
    simp only [State.setReport_report, Report.ring_setQueue] at fill capacity
    refine ⟨by rw [fill, capacity]; exact h, fun hw => absurd ?_ hw⟩
    rw [(State.loseEvents_work _ _ _ _).1, State.setReport_report, Report.waitingFor_setQueue, if_pos ⟨rfl, hi⟩]
    rfl
  · next full => exact ⟨h, fun _ => by omega⟩

theorem State.writeEvent_roomFor {s : State} {i : RingId} (hi : i ≠ .journal) (h : s.report.roomFor i) :
    (s.writeEvent i).report.roomFor i := by
  unfold State.writeEvent State.andThen
  split
  · exact h
  · next e q hq =>
    refine State.loseWaiting_roomFor _ hi ?_
    have flushed := (s.flushRing_work i i).2
    have done := ((s.flushRing i).doRingJob_rings (.entry i) i).2.1
    rw [if_pos rfl] at flushed
    have place := h.2 (by rw [Report.waitingFor_eq _ hi, hq]; exact Nat.succ_ne_zero _)
    rw [State.countEntry_ring, (Ring.counted_fill _ _).1, (Ring.counted_fill _ _).2, State.setReport_report, Report.ring_setQueue,
      done, flushed]
    exact place

theorem State.writeEvent_eventRingsOk {s : State} (i : RingId) (ok : s.eventRingsOk) : (s.writeEvent i).eventRingsOk := by
  rw [eventRingsOk_iff] at ok ⊢
  have other (k : RingId) (hk : k ≠ i) (h : s.report.roomFor k) : (s.writeEvent i).report.roomFor k := by
    obtain ⟨ring, waiting⟩ := (s.writeEvent_work i k).1 hk
    unfold Report.roomFor
    rw [ring, waiting]
    exact h
  cases i with
  | journal => exact ⟨other _ (by decide) ok.1, other _ (by decide) ok.2⟩
  | urgent => exact ⟨State.writeEvent_roomFor (by decide) ok.1, other _ (by decide) ok.2⟩
  | routine => exact ⟨other _ (by decide) ok.1, State.writeEvent_roomFor (by decide) ok.2⟩

theorem Runs.eventRingsOk {s t : State} (h : Runs s t) (ok : s.eventRingsOk) : t.eventRingsOk := by
  refine h.keeps (P := State.eventRingsOk) (fun s t d ok => ?_) ok
  cases d with
  | quiet q => exact q.rings ok
  | portTurn => exact s.portTurn_only.eventRingsOk ok
  | put a bs => exact (s.putBlock_only a bs).eventRingsOk ok
  | raise c => exact (s.raise_only c).eventRingsOk ok
  | event i => exact State.writeEvent_eventRingsOk i ok

theorem State.softReset_eventPart (s : State) : s.softReset.report.eventPart =
    ((s.report.urgent.emptied s.map.isSome, s.report.routine.emptied s.map.isSome), [], []) := by
  unfold State.softReset State.andThen
  dsimp only
  rw [State.rewriteSections_eq]
  rfl

theorem Move.eventRingsOk {s t : State} (h : Move s t) (ok : s.eventRingsOk) : t.eventRingsOk := by
  cases h with
  | work w => exact w.runs.eventRingsOk ok
  | queue q h => exact ok
  | taken i h => exact (takeRamAccess_only i _).eventRingsOk ok
  | part first rest r h => exact (servePart_only first s).eventRingsOk ok
  | causes v => exact ok
  | enables v => exact ok
  | fields p i => exact (s.modectl_only false p i).eventRingsOk ok
  | softReset h =>
    have rings := s.softReset_eventPart
    simp only [Report.eventPart, Prod.mk.injEq] at rings
    obtain ⟨⟨urgent, routine⟩, urgentQueue, routineQueue⟩ := rings
    simp [State.eventRingsOk, Ring.roomFor, urgent, routine, urgentQueue, routineQueue, Ring.emptied]
  | powerOn => exact ⟨⟨le_refl _, fun h => absurd rfl h⟩, le_refl _, fun h => absurd rfl h⟩
  | clearDone h => exact ok
  | linkReset =>
    rw [s.linkReset_eq]
    have posts := (Runs.refl.completePosts (s := s.setPort s.port.linkReset) (2 * (s.takes.toHandle.length + 1))).eventRingsOk ok
    exact ((Runs.refl.abandonTakes _).frame (State.restartBuild_only _)).eventRingsOk
      ((State.clearInterrupt_only _).eventRingsOk ((State.modModes_only _ _).eventRingsOk posts))
  | switches p h => exact ok
  | linkReturn => exact ok

/-- The events a filter entry holds: its kind, by its bit, and its index (R159). -/
theorem FilterEntry.matchesEvent_iff (f : FilterEntry) (k : EventKind) (i : Nat) : f.matchesEvent k i = true ↔
    f.enabled = true ∧ f.low ≤ i ∧ i ≤ f.high ∧
      ∃ b, [EventKind.source, .format, .substitute, .restore, .overrun, .mode, .timing, .supervision][b]? = some k ∧
        f.kinds.getLsbD b = true := by
  have bit : (∃ b, [EventKind.source, .format, .substitute, .restore, .overrun, .mode, .timing, .supervision][b]? = some k ∧
      f.kinds.getLsbD b = true) ↔ f.kinds.getLsbD (k.code - 1) = true := by
    have position : ∀ b, [EventKind.source, .format, .substitute, .restore, .overrun, .mode, .timing, .supervision][b]? = some k ↔
        b = k.code - 1 := by
      intro b
      constructor
      · match b with
        | 0 | 1 | 2 | 3 | 4 | 5 | 6 | 7 => rintro ⟨⟩; rfl
        | b + 8 => rintro ⟨⟩
      · rintro rfl
        cases k <;> rfl
    simp only [position, exists_eq_left]
  simp only [FilterEntry.matchesEvent, Bool.and_eq_true, decide_eq_true_eq, bit]
  tauto

/-- The first entry of a filter list that holds an event gives the action, and where none does the default action (R159). -/
theorem filterEvent_spec (fs : List FilterEntry) (dflt : FilterAction) (k : EventKind) (i : Nat) :
    (∃ pre f post, fs = pre ++ f :: post ∧ f.matchesEvent k i = true ∧ (∀ g ∈ pre, ¬ g.matchesEvent k i = true) ∧
        filterEvent fs dflt k i = f.action) ∨
      ((∀ f ∈ fs, ¬ f.matchesEvent k i = true) ∧ filterEvent fs dflt k i = dflt) := by
  unfold filterEvent
  split
  · next f hf =>
    obtain ⟨hit, pre, post, rfl, before⟩ := List.find?_eq_some_iff_append.mp hf
    exact .inl ⟨pre, f, post, rfl, hit, fun g hg => by simpa using before g hg, rfl⟩
  · next hf => exact .inr ⟨List.find?_eq_none.mp hf, rfl⟩

theorem State.handEvent_of_captured {s : State} {c : Captured} (h : s.modes.captured = some c) (e : Event) :
    s.handEvent e = match filterEvent s.composer.live.filters c.defaultAction e.kind e.index with
      | .discard => s
      | .urgent => s.sendEvent .urgent e
      | .routine => s.sendEvent .routine e := by
  unfold State.handEvent
  split
  · next none => cases h.symm.trans none
  · next c' some => cases h.symm.trans some; rfl

/-- An event that finds its ring full is lost (R155). -/
theorem State.sendEvent_lost {s : State} {k : RingId} (e : Event)
    (h : s.report.queue k = [] ∧ (s.report.ring k).capacity ≤ (s.report.ring k).fill) :
    s.sendEvent k e = (s.setReport (s.report.setRing k ((s.report.ring k).gapRise 1))).raise .eventsLost := by
  unfold State.sendEvent State.loseEvents
  rw [if_pos h, if_neg Nat.one_ne_zero]

theorem State.sendEvent_queued {s : State} {k : RingId} (e : Event)
    (h : ¬ (s.report.queue k = [] ∧ (s.report.ring k).capacity ≤ (s.report.ring k).fill)) :
    s.sendEvent k e = { s with report := s.report.setQueue k (s.report.queue k ++ [e]) } := if_neg h

/-- Settles O6: an event joins a ring's queue only where a place is left, and writing one counts it in the place it had. -/
theorem eventRingsNeverOverflow : Obligations.EventRingsNeverOverflow := by
  refine ⟨step_keeps (fun _ _ m => m.eventRingsOk), fun s e h => by unfold State.handEvent; rw [h], fun s e c hc => ?_,
    fun s e es => ⟨rfl, rfl⟩⟩
  refine ⟨filterEvent s.composer.live.filters c.defaultAction e.kind e.index, ?_, fun discard => ?_, fun k hk => ?_⟩
  · simpa only [FilterEntry.matchesEvent_iff] using filterEvent_spec s.composer.live.filters c.defaultAction e.kind e.index
  · rw [State.handEvent_of_captured hc, discard]
  · have sent : s.handEvent e = s.sendEvent k e := by
      rw [State.handEvent_of_captured hc]
      rcases hk with ⟨action, rfl⟩ | ⟨action, rfl⟩ <;> rw [action]
    simp only [sent]
    refine ⟨fun lost => ?_, fun queued => s.sendEvent_queued e queued⟩
    have frame := s.sendEvent_only k e
    rw [State.sendEvent_lost e lost] at frame ⊢
    refine ⟨State.raise_ringPart _ _, fun c => ?_, ?_, Delivers.of_evaluate ?_ rfl, frame.mono (by decide)⟩
    · rw [State.causeSet_raise, State.causeSet_congr (s := s) (Report.setRing_causes _ _ _)]
    · cases k <;> rfl
    · cases k <;> rfl

end Sys2Proof.Machine
end

section
-- Many short proofs follow one another: taken one at a time they need one thread's memory, not one's for each.
set_option Elab.async false
/-! PROOF. What each shared operation leaves in the source table and in the mode controller, and the invariants of both (R80,
R126, R131, R133, R144). -/

namespace Sys2Proof.Machine

variable {s t : State}

/-! The source table. -/

theorem State.setSource_sources (s : State) (i : Nat) (r : SourceRec) : (s.setSource i r).sources = s.sources.set i r := by
  unfold State.setSource State.andThen
  dsimp only
  split <;> rfl

theorem State.changeSource_sources (s : State) (i : Nat) (r : SourceRec) (g a : Bool) :
    (s.changeSource i r g a).sources = s.sources.set i r := by
  unfold State.changeSource State.andThen
  dsimp only
  rw [(State.handEvent_only _ _).sources_eq]
  exact s.setSource_sources i r

theorem sourcesOk_set {l : List SourceRec} {i : Nat} {r : SourceRec} (ok : ∀ q ∈ l, q.ok)
    (hr : (l.getD i SourceRec.external).ok → r.ok) : ∀ q ∈ l.set i r, q.ok := by
  intro q hq
  rcases List.mem_or_eq_of_mem_set hq with hq | rfl
  · exact ok q hq
  · by_cases hi : i < l.length
    · exact hr (ok _ (by simp [List.getD, hi]))
    · rw [List.set_eq_of_length_le (by omega)] at hq
      exact ok _ hq

theorem State.setSource_sourcesOk {i : Nat} {r : SourceRec} (ok : s.sourcesOk) (hr : (s.source i).ok → r.ok) :
    (s.setSource i r).sourcesOk := by
  rw [State.sourcesOk, State.setSource_sources]
  exact sourcesOk_set ok hr

theorem State.changeSource_sourcesOk {i : Nat} {r : SourceRec} {g a : Bool} (ok : s.sourcesOk) (hr : (s.source i).ok → r.ok) :
    (s.changeSource i r g a).sourcesOk := by
  rw [State.sourcesOk, State.changeSource_sources]
  exact sourcesOk_set ok hr

/-- Settings, and a move between LOCKED and OVERCLASS, leave R80's rule as it was. -/
theorem SourceRec.ok_settings {r : SourceRec} (new : SourceSettings) : r.ok → { r with settings := new }.ok := id

theorem State.applySettings_sourcesOk (i : Nat) (new : SourceSettings) (ok : s.sourcesOk) : (s.applySettings i new).sourcesOk := by
  have set : (s.setSource i { s.source i with settings := new }).sourcesOk := State.setSource_sourcesOk ok id
  unfold State.applySettings State.andThen
  dsimp only
  split
  · have absent : (s.changeSource i (SourceRec.cleared { s.source i with settings := new } .absent 0 none) false true).sourcesOk :=
      State.changeSource_sourcesOk ok (fun _ => SourceRec.cleared_ok _ _ _ (by simp))
    split
    · exact State.changeSource_sourcesOk absent (fun _ => SourceRec.cleared_ok _ _ _ (by simp))
    · exact absent
  · split
    · exact State.changeSource_sourcesOk ok (fun _ => SourceRec.cleared_ok _ _ _ (by simp))
    · split
      · exact set
      · split
        · next hl _ =>
          split
          · exact State.changeSource_sourcesOk ok (fun h => by simpa [SourceRec.ok, hl] using h)
          · exact set
        · next hl _ =>
          split
          · exact State.changeSource_sourcesOk ok (fun h => by simpa [SourceRec.ok, hl] using h)
          · exact set
        · exact set

theorem State.applyAllSettings_sourcesOk (i : Nat) (l : List SourceSettings) (ok : s.sourcesOk) :
    (s.applyAllSettings i l).sourcesOk := by
  induction l generalizing s i with
  | nil => exact ok
  | cons n l ih => exact ih (i + 1) (State.applySettings_sourcesOk i n ok)

theorem State.setInternalRate_sourcesOk (rate : Nat) (ok : s.sourcesOk) : (s.setInternalRate rate).sourcesOk := by
  intro r hr
  rcases List.mem_append.1 hr with hr | hr
  · exact ok r (List.mem_of_mem_take hr)
  · rw [List.eq_of_mem_replicate hr]
    simp [SourceRec.ok, SourceRec.internal]

/-! A capture in two halves: what comes into force before the source settings, and after them (R135). -/

/-- The part once the captured rate and lead are in force (R135, steps 1 to 3). -/
def State.rateInForce (s : State) (c : Captured) : State :=
  s.ringsDone.andThen fun s =>
  (s.modModes (fun mo => { mo with captured := some c, progress := .none })).andThen fun s =>
  (s.modReport (fun re => { re with
    journal := Ring.initial c.journal, urgent := Ring.initial c.urgent, routine := Ring.initial c.routine,
    journalQueue := [], urgentQueue := [], routineQueue := [], ringJob := none })).andThen fun s =>
  (s.modComposer (fun co => { co with live := { co.live with filters := c.filters } })).andThen fun s =>
  (s.setTakes s.takes.clearRefusals).andThen fun s =>
  s.applyRate c.rate c.lead

/-- The part once the captured source settings are in force too (R135, step 4). -/
def State.settingsInForce (s : State) (c : Captured) : State :=
  (s.rateInForce c).andThen fun s => (s.applyAllSettings 0 c.settings).setInternalRate c.rate.millihertz

/-- The part with the start layout in force (R136). -/
def State.layoutInForce (s : State) (c : Captured) (plan : List WindowRec) (n : Word) : State :=
  (s.settingsInForce c).andThen fun s =>
  s.rewriteSections.andThen fun s =>
  (s.modComposer (fun co => { co with fallbackPlan := some plan })).andThen fun s =>
  s.startLayout c plan n

theorem State.andThen_andThen {α : Type} (s : State) (f : State → State) (g : State → α) :
    (s.andThen f).andThen g = s.andThen (fun u => (f u).andThen g) := rfl

theorem State.captureConfig_eq (s : State) (c : Captured) (plan : List WindowRec) (n : Word) : s.captureConfig c plan n =
    (s.layoutInForce c plan n).andThen (fun s => ((s.raise .modeReached).moveMode .run .activationDone).startSupervision) := by
  simp only [State.captureConfig, State.layoutInForce, State.settingsInForce, State.rateInForce, State.andThen_andThen]

theorem State.rateInForce_only (s : State) (c : Captured) : OnlyChanges [.ram, .lastServed, .waiting, .blocks, .completion,
    .interrupt, .takes, .composer, .timing, .modes, .rings, .causes, .status] s (s.rateInForce c) := by
  unfold State.rateInForce
  refine (s.ringsDone_only.mono (by decide)).andThen fun u h => ?_
  refine (h.next (u.modModes_only _) (by decide)).andThen fun u h => ?_
  refine (h.next (u.modReport_rings _ rfl) (by decide)).andThen fun u h => ?_
  refine (h.next (u.modComposer_only _) (by decide)).andThen fun u h => ?_
  exact (h.next (u.setTakes_only _) (by decide)).andThen fun u h => h.next (u.applyRate_only _ _) (by decide)

theorem State.layoutInForce_only (s : State) (c : Captured) (plan : List WindowRec) (n : Word) :
    OnlyChanges [.composer, .ports, .status] (s.settingsInForce c) (s.layoutInForce c plan n) := by
  unfold State.layoutInForce
  refine (OnlyChanges.refl _ (s.settingsInForce c)).andThen fun u h => ?_
  refine (h.next u.rewriteSections_only (by decide)).andThen fun u h => ?_
  exact (h.next (u.modComposer_only _) (by decide)).andThen fun u h => h.next (u.startLayout_only _ _ _) (by decide)

theorem State.captureConfig_sources (s : State) (c : Captured) (plan : List WindowRec) (n : Word) :
    (s.captureConfig c plan n).sources = (s.settingsInForce c).sources := by
  rw [State.captureConfig_eq, State.andThen, (State.startSupervision_only _).sources_eq, (State.moveMode_only _ _ _).sources_eq,
    (State.raise_only _ _).sources_eq, (s.layoutInForce_only c plan n).sources_eq]

theorem State.settingsInForce_sourcesOk (c : Captured) (ok : s.sourcesOk) : (s.settingsInForce c).sourcesOk := by
  refine State.setInternalRate_sourcesOk _ (State.applyAllSettings_sourcesOk 0 c.settings ?_)
  rw [State.sourcesOk, (s.rateInForce_only c).sources_eq]
  exact ok

/-! What the composer does at a boundary (R61, R65, R135, R140). -/

/-- The composer's action at a boundary is one of five. -/
theorem State.composerBoundary_cases {P : State → Prop} (s : State) (n : Word)
    (owed : s.composer.fallbackOwed = true → P (s.fallbackCommit n))
    (capture : ∀ c plan, s.composer.fallbackOwed = false → s.modes.mode = .activating → s.modes.progress = .passed c plan →
      P (s.captureConfig c plan n))
    (commit : ∀ b, s.composer.fallbackOwed = false → s.composer.build = some b → b.status = .ready → P (s.commitBuild b n))
    (overrun : ∀ b, s.composer.fallbackOwed = false → s.composer.build = some b → b.status = .running → P (s.overrunBuild b n))
    (idle : s.composer.fallbackOwed = false → s.composer.build = none → P s) : P (s.composerBoundary n) := by
  unfold State.composerBoundary
  split
  · next ho => exact owed ho
  · next ho =>
    have ho := Bool.eq_false_iff.2 ho
    split
    · next hm hp => exact capture _ _ ho hm hp
    · split
      · next hb => exact idle ho hb
      · next b hb =>
        split
        · next hr => exact commit b ho hb hr
        · next hr => exact overrun b ho hb (by cases hs : b.status <;> simp_all)

/-- A boundary from its four parts: the counter, the composer, the end of QUIESCING, and the frames with the schedule. -/
theorem State.boundary_from {P Q : State → Prop} (s : State) (taken : P (s.setTiming s.timing.taken))
    (composer : ∀ u n, P u → Q (u.composerBoundary n))
    (quiesced : ∀ u, u.modes.mode = .quiescing → Q u → Q u.quiesceDone)
    (rest : ∀ u v, OnlyChanges [.ports, .status, .timing] u v → v.timing = u.timing.next →
      v.ports = u.beginOutputFrames.ports → Q u → Q v) :
    Q s.boundary := by
  have acted := composer _ (s.setTiming s.timing.taken).timing.frame taken
  have ended : Q (if ((s.setTiming s.timing.taken).composerBoundary (s.setTiming s.timing.taken).timing.frame).modes.mode =
      .quiescing then ((s.setTiming s.timing.taken).composerBoundary (s.setTiming s.timing.taken).timing.frame).quiesceDone
      else (s.setTiming s.timing.taken).composerBoundary (s.setTiming s.timing.taken).timing.frame) := by
    split
    · next hm => exact quiesced _ hm acted
    · exact acted
  unfold State.boundary State.andThen
  refine rest _ _ ?_ ?_ ?_ ended
  · exact (((State.beginOutputFrames_only _).mono (by decide)).next (State.writeFrame_only _) (by decide)).next
      (State.setTiming_only _ _) (by decide)
  · change (State.writeFrame _).timing.next = _
    rw [(State.writeFrame_only _).timing_eq]
    rfl
  · exact (State.writeFrame_only _).ports_eq

theorem State.boundary_keeps {P : State → Prop} (s : State) (taken : P (s.setTiming s.timing.taken))
    (composer : ∀ u n, P u → P (u.composerBoundary n))
    (quiesced : ∀ u, u.modes.mode = .quiescing → P u → P u.quiesceDone)
    (rest : ∀ u v, OnlyChanges [.ports, .status, .timing] u v → v.timing = u.timing.next →
      v.ports = u.beginOutputFrames.ports → P u → P v) : P s.boundary := s.boundary_from taken composer quiesced rest

/-! The invariant of the source table. -/

theorem State.boundary_sourcesOk (ok : s.sourcesOk) : s.boundary.sourcesOk := by
  refine s.boundary_keeps (P := State.sourcesOk) ok (fun u n ok => ?_) (fun u _ ok => ?_) (fun u v h _ _ ok => ?_)
  · refine u.composerBoundary_cases n (fun _ => ?_) (fun c plan _ _ _ => ?_) (fun b _ _ _ => ?_) (fun b _ _ _ => ?_)
      (fun _ _ => ok)
    · rw [State.sourcesOk, (State.fallbackCommit_only _ _).sources_eq]; exact ok
    · rw [State.sourcesOk, State.captureConfig_sources]; exact State.settingsInForce_sourcesOk c ok
    · rw [State.sourcesOk, (State.commitBuild_only _ _ _).sources_eq]; exact ok
    · rw [State.sourcesOk, (State.overrunBuild_only _ _ _).sources_eq]; exact ok
  · rw [State.sourcesOk, (State.quiesceDone_only _).sources_eq]; exact ok
  · rw [State.sourcesOk, h.sources_eq]; exact ok

theorem OnlyChanges.sourcesOk {l : List Part} (h : OnlyChanges l s t) (ok : s.sourcesOk)
    (hp : Part.sources ∉ l := by decide) : t.sourcesOk := by
  rw [State.sourcesOk, h.sources_eq hp]
  exact ok

theorem Work.sourcesOk (h : Work s t) (ok : s.sourcesOk) : t.sourcesOk := by
  cases h with
  | pending q => exact ok
  | clock t => exact ok
  | freeIdx n => exact ok
  | completed bs => exact ok
  | raise c => exact (s.raise_only c).sourcesOk ok
  | event e => exact (s.handEvent_only e).sourcesOk ok
  | serve => exact s.serve_only.sourcesOk ok
  | runRequest => exact s.runRequest_only.sourcesOk ok
  | holdRequest => exact s.holdRequest_only.sourcesOk ok
  | fallbackRequest => exact s.fallbackRequest_only.sourcesOk ok
  | quiesceRequest => exact s.quiesceRequest_only.sourcesOk ok
  | configRequest => exact s.configRequest_only.sourcesOk ok
  | posts mask h => exact (s.handlePosts_only _).sourcesOk ok
  | cancels mask => exact (s.cancelSlots_only _).sourcesOk ok
  | continuePosts h => exact s.continuePosts_only.sourcesOk ok
  | release r n => exact (s.releaseRing_only r n).sourcesOk ok
  | ctlRead => exact s.ctlRead_only.sourcesOk ok
  | commitDone => exact s.commitDone_only.sourcesOk ok
  | readingDone => exact ok
  | checksComplete image h hc => exact (s.checksComplete_only image).sourcesOk ok
  | checkBuildTake b h hr => exact (s.checkBuildTake_only b).sourcesOk ok
  | buildComplete b h hr hc => exact ok
  | writeSection n => exact (s.writeSection_only n).sourcesOk ok
  | completeMirror m => exact (s.completeMirror_only m).sourcesOk ok
  | publishSource m i => exact (s.publishSource_only m i).sourcesOk ok
  | copySlotPart m p => exact (s.copySlotPart_only m p).sourcesOk ok
  | writeEntry r => exact (s.writeEntry_only r).sourcesOk ok
  | flushRing r => exact (s.flushRing_only r).sourcesOk ok
  | grant m => exact (s.grantTo_only m).sourcesOk ok
  | planPoint h => exact s.planPoint_only.sourcesOk ok
  | boundary => exact State.boundary_sourcesOk ok
  | timing v h => exact ok
  | setSource i r hr hs => exact State.setSource_sourcesOk ok hr
  | changeSource i r g hr hs => exact State.changeSource_sourcesOk ok hr
  | supervisionFallback h => exact (s.enterFallback_only _).sourcesOk ok

theorem sourcesReset_ok : ∀ r ∈ sourcesReset, r.ok := by decide

theorem Move.sourcesOk (h : Move s t) (ok : s.sourcesOk) : t.sourcesOk := by
  cases h with
  | work w => exact w.sourcesOk ok
  | queue q h => exact ok
  | taken i h => exact (takeRamAccess_only i (s.setWaiting [])).sourcesOk ok
  | part first rest r h => exact (servePart_only first s).sourcesOk ok
  | causes v => exact ok
  | enables v => exact ok
  | fields p i => exact ok
  | softReset h => exact s.softReset_only.sourcesOk ok
  | powerOn => exact sourcesReset_ok
  | clearDone h => exact ok
  | linkReset => exact s.linkReset_only.sourcesOk ok
  | switches p h => exact ok
  | linkReturn => exact ok

/-- Settles O8: every move keeps it, for a record is replaced only by one that R80's rule allows. -/
theorem qualifiedFormatExactlyWhileHeld : Obligations.QualifiedFormatExactlyWhileHeld :=
  fun s t ok h => step_keeps (fun _ _ m ok => m.sourcesOk ok) s t ok h

end Sys2Proof.Machine
end

section
-- Many short proofs follow one another: taken one at a time they need one thread's memory, not one's for each.
set_option Elab.async false
/-! PROOF. The mode controller after each shared operation, and its invariant (R126, R131, R133, R144, R178). -/

namespace Sys2Proof.Machine

variable {s t : State}

/-! The mode controller after a move of the mode. -/

theorem State.enterFallback_modes (s : State) (t : Trigger) :
    (s.enterFallback t).modes = { s.modes with mode := .fallback, supervision := none } := by
  have idle : ((((s.abandonTakes s.buildSlots).setBuild none).abandonTakes
      ((s.abandonTakes s.buildSlots).setBuild none).postedSlots).journalDone).modes = s.modes := by
    rw [(State.journalDone_only _).modes_eq, (State.abandonTakes_only _ _).modes_eq, (State.setBuild_only _ _).modes_eq,
      (State.abandonTakes_only _ _).modes_eq]
  unfold State.enterFallback State.andThen
  dsimp only
  rw [(State.modComposer_only _ _).modes_eq, State.moveMode_modes, (State.raise_only _ _).modes_eq]
  change { ({ (State.modes _) with supervision := none } : ModeCtl) with mode := .fallback } = _
  rw [idle]

theorem State.quiesceDone_modes (s : State) : s.quiesceDone.modes = { s.modes with mode := .quiesced } := by
  unfold State.quiesceDone
  rw [State.moveMode_modes, (State.raise_only _ _).modes_eq, s.journalDone_only.modes_eq]

/-- QUIESCING waits where a build or an owed fallback commit is in flight (R142). -/
def State.inFlight (s : State) : Bool := !(s.composer.build.isNone && !s.composer.fallbackOwed)

theorem State.enterQuiescing_modes (s : State) (t : Trigger) : (s.enterQuiescing t).modes =
    { s.modes with mode := if s.inFlight then .quiescing else .quiesced, supervision := none } := by
  have moved : (((s.cancelTakes s.postedSlots none).stopSupervision).moveMode .quiescing t).modes =
      { s.modes with mode := .quiescing, supervision := none } := by
    rw [State.moveMode_modes]
    change { ({ (s.cancelTakes s.postedSlots none).modes with supervision := none } : ModeCtl) with mode := .quiescing } = _
    rw [(State.cancelTakes_only _ _ _).modes_eq]
  have composer : (((s.cancelTakes s.postedSlots none).stopSupervision).moveMode .quiescing t).composer = s.composer := by
    rw [(State.moveMode_only _ _ _).composer_eq, (State.stopSupervision_only _).composer_eq,
      (State.cancelTakes_only _ _ _).composer_eq]
  unfold State.enterQuiescing State.andThen
  dsimp only
  rw [composer]
  unfold State.inFlight
  cases s.composer.build.isNone && !s.composer.fallbackOwed
  · exact moved
  · change (State.quiesceDone _).modes = _
    rw [State.quiesceDone_modes, moved]
    rfl

theorem State.endActivation_modes (s : State) (t : Trigger) :
    (s.endActivation t).modes = { s.modes with mode := .config, progress := .none, reading := false } := by
  unfold State.endActivation State.andThen
  dsimp only
  rw [State.moveMode_modes]
  rfl

theorem State.startActivation_modes (s : State) : s.startActivation.modes = { s.modes with
    mode := .activating, progress := .checking (Memory.configImage s.ram), reading := true, attempt := s.modes.attempt + 1,
    failCode := .none, failIndex := 0 } := by
  unfold State.startActivation State.andThen
  dsimp only
  split <;> · rw [State.moveMode_modes]; rfl

theorem State.discardBuild_modes (s : State) (f : Option Word) : (s.discardBuild f).modes = s.modes :=
  (s.discardBuild_only f).modes_eq

theorem State.checksComplete_modes (s : State) (image : ConfigImage) : (s.checksComplete image).modes =
    match image.failure s.map with
    | some (code, index) => { s.modes with mode := .config, progress := .none, reading := false,
                                           failCode := code, failIndex := index }
    | none => { s.modes with progress := .passed image.capture image.fallbackPlan, reading := false } := by
  unfold State.checksComplete State.andThen
  cases image.failure s.map with
  | none => rfl
  | some f =>
    dsimp only
    rw [State.endActivation_modes, (State.raise_only _ _).modes_eq]
    rfl

theorem State.settingsInForce_only (s : State) (c : Captured) :
    OnlyChanges [.interrupt, .composer, .sources, .rings, .causes, .status] (s.rateInForce c) (s.settingsInForce c) := by
  unfold State.settingsInForce State.andThen
  exact (State.applyAllSettings_only _ _ _).next (State.setInternalRate_only _ _) (by decide)

theorem State.rateInForce_modes (s : State) (c : Captured) :
    (s.rateInForce c).modes = { s.modes with captured := some c, progress := .none } := by
  unfold State.rateInForce State.andThen
  dsimp only
  rw [(State.applyRate_only _ _ _).modes_eq, (State.setTakes_only _ _).modes_eq, (State.modComposer_only _ _).modes_eq,
    (State.modReport_rings _ _ rfl).modes_eq]
  change { s.ringsDone.modes with captured := some c, progress := .none } = _
  rw [s.ringsDone_only.modes_eq]

theorem State.layoutInForce_modes (s : State) (c : Captured) (plan : List WindowRec) (n : Word) :
    (s.layoutInForce c plan n).modes = { s.modes with captured := some c, progress := .none } := by
  rw [(s.layoutInForce_only c plan n).modes_eq, (s.settingsInForce_only c).modes_eq, State.rateInForce_modes]

theorem State.captureConfig_modes (s : State) (c : Captured) (plan : List WindowRec) (n : Word) : ∃ timer,
    (s.captureConfig c plan n).modes =
      { s.modes with mode := .run, captured := some c, progress := .none, supervision := timer } := by
  refine ⟨(((s.layoutInForce c plan n).raise .modeReached).moveMode .run .activationDone).startedTimer, ?_⟩
  rw [State.captureConfig_eq, State.andThen, State.startSupervision_modes, State.moveMode_modes, (State.raise_only _ _).modes_eq,
    State.layoutInForce_modes]

/-- An overrun moves the mode only from RUN, at the third in a row, to HOLD (R65). -/
theorem State.overrunBuild_modes (s : State) (b : BuildRecord) (n : Word) : (s.overrunBuild b n).modes = s.modes ∨
    s.modes.mode = .run ∧ ∃ timer, (s.overrunBuild b n).modes = { s.modes with mode := .hold, supervision := timer } := by
  unfold State.overrunBuild State.andThen
  dsimp only
  have ended : (if s.modes.mode = .quiescing then (s.cancelTakes s.buildSlots (some n)).setBuild none
      else s.discardBuild (some n)).modes = s.modes := by
    split
    · exact (State.cancelTakes_only _ _ _).modes_eq
    · exact s.discardBuild_modes _
  generalize (if s.modes.mode = .quiescing then (s.cancelTakes s.buildSlots (some n)).setBuild none
      else s.discardBuild (some n)) = v at ended ⊢
  have counted (e : Event) : (((v.modComposer (fun co => { co with overruns := min 255 (v.composer.overruns + 1) })).handEvent
      e).raise .overrun).modes = s.modes := by
    rw [(State.raise_only _ _).modes_eq, (State.handEvent_only _ _).modes_eq, (State.modComposer_only _ _).modes_eq, ended]
  split
  · next h =>
    rw [counted] at h
    exact .inr ⟨h.1, _, by rw [State.enterHold_modes, counted]⟩
  · exact .inl (counted _)

/-! The sections of a capture (R133, R178). -/

theorem Option.or_eq_none {α : Type} {a b : Option α} (h : a.or b = none) : a = none ∧ b = none := by
  simpa using h

theorem lowestSection_eq_none {p : Nat → Bool} (h : lowestSection p = none) {n : Nat} (h1 : 1 ≤ n) (h10 : n ≤ 10) :
    p n = false := by
  have := List.find?_eq_none.1 h n (List.mem_map.2 ⟨n - 1, List.mem_range.2 (by omega), by omega⟩)
  simpa using this

theorem failAt_eq_none {code : FailCode} {i : Option Nat} (h : failAt code i = none) : i = none := by
  simpa [failAt] using h

theorem failIf_eq_none {code : FailCode} {b : Bool} (h : failIf code b = none) : b = false := by
  cases b <;> simp_all [failIf]

/-- What a configuration that passes every check satisfies (R133, R134). -/
structure ConfigImage.Passes (c : ConfigImage) (old : Option SectionMap) : Prop where
  geometry : c.geometryOk = true
  rate : (wallRate c.rate).isSome = true
  lead : c.leadOk = true
  rings : c.badRing = none
  range : ∀ n, 1 ≤ n → n ≤ 10 → (sectionOf c.map n).start + (sectionOf c.map n).size ≤ Config.ramSize
  align : ∀ n, 1 ≤ n → n ≤ 10 → (sectionOf c.map n).start % 64 = 0
  size : ∀ n, 1 ≤ n → n ≤ 10 → c.minimum n ≤ (sectionOf c.map n).size
  overlap : ∀ n, 1 ≤ n → n ≤ 10 → sectionOverlap c.map old n = false
  sources : c.badSource = none
  filters : c.badFilter = none
  start : c.startSelector ≤ 1
  fallback : c.badFallback = none
  layout : wholeLayoutCheck c.geometry c.classOf c.fallbackWindows = none

theorem ConfigImage.passes_of_failure {c : ConfigImage} {old : Option SectionMap} (h : c.failure old = none) : c.Passes old := by
  unfold ConfigImage.failure at h
  obtain ⟨geometry, h⟩ := Option.or_eq_none h
  obtain ⟨rate, h⟩ := Option.or_eq_none h
  obtain ⟨lead, h⟩ := Option.or_eq_none h
  obtain ⟨rings, h⟩ := Option.or_eq_none h
  obtain ⟨range, h⟩ := Option.or_eq_none h
  obtain ⟨align, h⟩ := Option.or_eq_none h
  obtain ⟨size, h⟩ := Option.or_eq_none h
  obtain ⟨overlap, h⟩ := Option.or_eq_none h
  obtain ⟨sources, h⟩ := Option.or_eq_none h
  obtain ⟨filters, h⟩ := Option.or_eq_none h
  obtain ⟨start, h⟩ := Option.or_eq_none h
  obtain ⟨fallback, layout⟩ := Option.or_eq_none h
  exact {
    geometry := by simpa using failIf_eq_none geometry
    rate := by simpa [Option.isSome_iff_ne_none] using failIf_eq_none rate
    lead := by simpa using failIf_eq_none lead
    rings := failAt_eq_none rings
    range := fun n h1 h10 => by simpa using lowestSection_eq_none (failAt_eq_none range) h1 h10
    align := fun n h1 h10 => by simpa using lowestSection_eq_none (failAt_eq_none align) h1 h10
    size := fun n h1 h10 => by simpa using lowestSection_eq_none (failAt_eq_none size) h1 h10
    overlap := fun n h1 h10 => lowestSection_eq_none (failAt_eq_none overlap) h1 h10
    sources := failAt_eq_none sources
    filters := failAt_eq_none filters
    start := by simpa using failIf_eq_none start
    fallback := failAt_eq_none fallback
    layout := by simpa [failAt] using layout }

theorem ConfigImage.minimum_eq (c : ConfigImage) {n : Nat} (h1 : 1 ≤ n) (h10 : n ≤ 10) :
    c.minimum n = c.capture.minimum n := by
  interval_cases n <;> rfl

theorem Captured.minimum_pos (c : Captured) (n : Nat) : 0 < c.minimum n := by
  unfold Captured.minimum
  split <;> omega

/-- Of two areas that share no byte and are not empty, one ends where the other begins or before. -/
theorem Section.apart_of_not_meets {c d : Section} (h : c.meets d = false) (hc : 0 < c.size) (hd : 0 < d.size) :
    d.start + d.size ≤ c.start ∨ c.start + c.size ≤ d.start := by
  simp only [Section.meets, decide_eq_false_iff_not] at h
  omega

theorem sectionOverlap_meets {m : SectionMap} {old : Option SectionMap} {n k : Nat} (h : sectionOverlap m old n = false)
    (hk : k < n) : (areaOf m n).meets (areaOf m k) = false := by
  simp only [sectionOverlap, Bool.or_eq_false_iff, List.any_eq_false, List.mem_range] at h
  simpa using h.1 k hk

theorem ConfigImage.Passes.placed {c : ConfigImage} {old : Option SectionMap} (h : c.Passes old) (hm : c.map.length = 10) :
    c.capture.placed := by
  have size {n : Nat} (h1 : 1 ≤ n) (h10 : n ≤ 10) : 0 < (sectionOf c.map n).size :=
    (c.capture.minimum_pos n).trans_le (c.minimum_eq h1 h10 ▸ h.size n h1 h10)
  have area {n : Nat} (h1 : 1 ≤ n) : areaOf c.map n = sectionOf c.map n := by simp [areaOf, show n ≠ 0 by omega]
  refine ⟨hm, h.range, h.align, fun n h1 h10 => c.minimum_eq h1 h10 ▸ h.size n h1 h10, fun n h1 h10 => ?_,
    fun k n h1 hk h10 => ?_⟩
  · have apart := sectionOverlap_meets (h.overlap n h1 h10) (show 0 < n by omega)
    rw [area h1] at apart
    have := Section.apart_of_not_meets apart (size h1 h10) (show 0 < (areaOf c.map 0).size from Nat.zero_lt_succ 4095)
    have config : (areaOf c.map 0).start = 0 ∧ (areaOf c.map 0).size = 4096 := ⟨rfl, rfl⟩
    have pos := size h1 h10
    change 4096 ≤ (sectionOf c.map n).start
    omega
  · have apart := sectionOverlap_meets (h.overlap n (by omega) h10) hk
    rw [area h1, area (by omega)] at apart
    exact Section.apart_of_not_meets apart (size (by omega) h10) (size h1 (by omega))

theorem Memory.configImage_map_length (m : Memory) : (Memory.configImage m).map.length = 10 := by
  simp [Memory.configImage, Memory.sectionMap]

/-! The invariant of the mode controller (R126, R131, R133, R144). -/

theorem State.modeOk.congr (ok : s.modeOk) (h : t.modes = s.modes) : t.modeOk := by
  obtain ⟨progress, reading, supervision, captured, placed, read, passed⟩ := ok
  exact ⟨by rwa [h], by rwa [h], by rwa [h], by rwa [h], by rwa [h], by rwa [h], by rwa [h]⟩

theorem OnlyChanges.modeOk {l : List Part} (h : OnlyChanges l s t) (ok : s.modeOk) (hp : Part.modes ∉ l := by decide) :
    t.modeOk := ok.congr (h.modes_eq hp)

/-- Supervision runs in RUN and HOLD: a change of the timer where it runs, or of the stored fields. -/
theorem State.modeOk.timer (ok : s.modeOk) {v : Option Time} (hv : v ≠ none → s.modes.mode = .run ∨ s.modes.mode = .hold)
    {p i : Bool} (h : t.modes = { s.modes with supervision := v, permit := p, intEnable := i }) : t.modeOk := by
  obtain ⟨progress, reading, supervision, captured, placed, read, passed⟩ := ok
  exact ⟨by rwa [h], by rwa [h], by rwa [h], by rwa [h], by rwa [h], by rwa [h], by rwa [h]⟩

/-- A move between two modes that no activation is in progress in. -/
theorem State.modeOk.move (ok : s.modeOk) {m : Mode} {v : Option Time} (hs : s.modes.mode ≠ .activating)
    (hm : m ≠ .activating) (hc : s.modes.mode.early = true → m.early = true)
    (hv : v ≠ none → m = .run ∨ m = .hold) (h : t.modes = { s.modes with mode := m, supervision := v }) : t.modeOk := by
  have idle : s.modes.progress = .none := by
    by_contra hp
    exact hs (ok.progress.1 hp)
  refine ⟨?_, ?_, ?_, ?_, ?_, ?_, ?_⟩
  · simp [h, idle, hm]
  · intro hr
    rw [h] at hr ⊢
    exact ok.reading hr
  · rw [h]; exact hv
  · rw [h]
    intro he
    refine ok.captured ?_
    cases hb : s.modes.mode.early
    · rfl
    · rw [hc hb] at he; cases he
  · rw [h]; exact ok.placed
  · rw [h]; exact ok.read
  · rw [h]; exact ok.passed

/-- An activation, or its end without a capture, leaves the captured configuration. -/
theorem State.modeOk.endActivation (ok : s.modeOk) {code : FailCode} {index : Nat} {p i : Bool} {v : Option Time}
    (hv : v ≠ none → False) (h : t.modes = { s.modes with
      mode := .config, progress := .none, reading := false, failCode := code, failIndex := index, supervision := v, permit := p,
      intEnable := i }) : t.modeOk := by
  refine ⟨?_, ?_, ?_, ?_, ?_, ?_, ?_⟩
  · simp [h]
  · simp [h]
  · rw [h]; exact fun hn => (hv hn).elim
  · simp [h, Mode.early]
  · rw [h]; exact ok.placed
  · simp [h]
  · simp [h]

theorem State.modeOk.supervision_none (ok : s.modeOk) (hr : s.modes.mode ≠ .run) (hh : s.modes.mode ≠ .hold) :
    s.modes.supervision = none := by
  by_contra h
  exact (ok.supervision h).elim hr hh

theorem State.startActivation_modeOk (ok : s.modeOk) (hm : s.modes.mode = .config) : s.startActivation.modeOk := by
  have timer := ok.supervision_none (by simp [hm]) (by simp [hm])
  have h := s.startActivation_modes
  refine ⟨?_, ?_, ?_, ?_, ?_, ?_, ?_⟩
  · simp [h]
  · simp [h]
  · simp [h, timer]
  · simp [h, Mode.early]
  · rw [h]; exact ok.placed
  · simpa [h] using Memory.configImage_map_length s.ram
  · simp [h]

theorem State.runRequest_modeOk (ok : s.modeOk) : s.runRequest.modeOk := by
  have run {u : State} (hu : u.modes = s.modes) (hs : s.modes.mode.early = false) :
      ((u.moveMode .run .request).startSupervision).modeOk :=
    ok.move (m := .run) (by intro h; simp [h, Mode.early] at hs) (by decide) (by simp [hs]) (fun _ => .inl rfl)
      (by rw [State.startSupervision_modes, State.moveMode_modes, hu])
  unfold State.runRequest
  split
  · exact ok
  · next hm => exact State.startActivation_modeOk ok hm
  · exact ok.congr (State.failRequest_only s).modes_eq
  · exact ok
  · next hm => exact run rfl (by rw [hm]; rfl)
  · next hm => exact run rfl (by rw [hm]; rfl)
  · exact ok.congr (State.failRequest_only s).modes_eq
  · next hm => exact run rfl (by rw [hm]; rfl)

theorem State.enterHold_modeOk {u : State} (ok : s.modeOk) (hm : s.modes.mode = .run) (hu : u.modes = s.modes) (r : Trigger) :
    (u.enterHold r).modeOk :=
  ok.move (m := .hold) (by simp [hm]) (by decide) (by simp [hm, Mode.early]) (fun _ => .inr rfl)
    (by rw [State.enterHold_modes, hu])

theorem State.holdRequest_modeOk (ok : s.modeOk) : s.holdRequest.modeOk := by
  unfold State.holdRequest
  split
  · exact ok
  · next hm => exact State.enterHold_modeOk ok hm (s.discardBuild_modes none) _
  · exact ok
  all_goals exact ok.congr (State.failRequest_only s).modes_eq

theorem State.enterFallback_modeOk (ok : s.modeOk) (hs : s.modes.mode ≠ .activating) (he : s.modes.mode.early = false)
    (r : Trigger) : (s.enterFallback r).modeOk :=
  ok.move (m := .fallback) hs (by decide) (by simp [he]) (by simp) (s.enterFallback_modes r)

theorem State.fallbackRequest_modeOk (ok : s.modeOk) : s.fallbackRequest.modeOk := by
  unfold State.fallbackRequest
  split
  · exact ok
  · next hm => exact State.enterFallback_modeOk ok (by simp [hm]) (by simp [hm, Mode.early]) _
  · next hm => exact State.enterFallback_modeOk ok (by simp [hm]) (by simp [hm, Mode.early]) _
  · next hm => exact State.enterFallback_modeOk ok (by simp [hm]) (by simp [hm, Mode.early]) _
  · exact ok
  all_goals exact ok.congr (State.failRequest_only s).modes_eq

theorem State.enterQuiescing_modeOk (ok : s.modeOk) (hs : s.modes.mode ≠ .activating) (he : s.modes.mode.early = false)
    (r : Trigger) : (s.enterQuiescing r).modeOk :=
  ok.move hs (by split <;> decide) (by simp [he]) (by simp) (s.enterQuiescing_modes r)

theorem State.quiesceRequest_modeOk (ok : s.modeOk) : s.quiesceRequest.modeOk := by
  unfold State.quiesceRequest
  split
  · exact ok
  · next hm => exact State.enterQuiescing_modeOk ok (by simp [hm]) (by simp [hm, Mode.early]) _
  · next hm => exact State.enterQuiescing_modeOk ok (by simp [hm]) (by simp [hm, Mode.early]) _
  · next hm => exact State.enterQuiescing_modeOk ok (by simp [hm]) (by simp [hm, Mode.early]) _
  · exact ok
  · exact ok
  all_goals exact ok.congr (State.failRequest_only s).modes_eq

theorem State.configRequest_modeOk (ok : s.modeOk) : s.configRequest.modeOk := by
  have failed : s.failRequest.modeOk := ok.congr (State.failRequest_only s).modes_eq
  unfold State.configRequest
  split
  · exact ok
  · exact ok
  · next hm =>
    have timer := ok.supervision_none (by simp [hm]) (by simp [hm])
    exact ok.endActivation (v := s.modes.supervision) (by simp [timer]) (s.endActivation_modes _)
  · next hm => exact State.enterQuiescing_modeOk failed (by change s.modes.mode ≠ _; simp [hm]) (by change s.modes.mode.early = _; simp [hm, Mode.early]) _
  · next hm => exact State.enterQuiescing_modeOk failed (by change s.modes.mode ≠ _; simp [hm]) (by change s.modes.mode.early = _; simp [hm, Mode.early]) _
  · next hm => exact State.enterQuiescing_modeOk failed (by change s.modes.mode ≠ _; simp [hm]) (by change s.modes.mode.early = _; simp [hm, Mode.early]) _
  · exact failed
  · next hm =>
    have timer := ok.supervision_none (by simp [hm]) (by simp [hm])
    exact ok.move (m := .config) (v := s.modes.supervision) (by simp [hm]) (by decide) (fun _ => rfl) (by simp [timer])
      (by rw [(State.clearLayoutForConfig_only _).modes_eq, State.moveMode_modes])

theorem State.checksComplete_modeOk (ok : s.modeOk) {image : ConfigImage} (hp : s.modes.progress = .checking image) :
    (s.checksComplete image).modeOk := by
  have activating : s.modes.mode = .activating := ok.progress.1 (by simp [hp])
  have timer := ok.supervision_none (by simp [activating]) (by simp [activating])
  have h := s.checksComplete_modes image
  split at h
  · exact ok.endActivation (v := s.modes.supervision) (by simp [timer]) h
  · next hf =>
    refine ⟨?_, ?_, ?_, ?_, ?_, ?_, ?_⟩
    · simp [h, activating]
    · simp [h]
    · simp [h, timer]
    · simp [h, activating, Mode.early]
    · rw [h]; exact ok.placed
    · simp [h]
    · intro c p hcp
      rw [h] at hcp
      cases hcp
      exact (ConfigImage.passes_of_failure hf).placed (ok.read image hp)

theorem State.captureConfig_modeOk (ok : s.modeOk) {c : Captured} {plan : List WindowRec}
    (hp : s.modes.progress = .passed c plan) (n : Word) : (s.captureConfig c plan n).modeOk := by
  obtain ⟨timer, h⟩ := s.captureConfig_modes c plan n
  have read : s.modes.reading = false := by
    cases hr : s.modes.reading
    · rfl
    · exact absurd hp ((ok.reading hr).2 c plan)
  refine ⟨?_, ?_, ?_, ?_, ?_, ?_, ?_⟩
  · simp [h]
  · simp [h, read]
  · simp [h]
  · simp [h]
  · simpa [h] using ok.passed c plan hp
  · simp [h]
  · simp [h]

theorem State.overrunBuild_modeOk (ok : s.modeOk) (b : BuildRecord) (n : Word) : (s.overrunBuild b n).modeOk := by
  rcases s.overrunBuild_modes b n with h | ⟨hm, timer, h⟩
  · exact ok.congr h
  · exact ok.move (m := .hold) (by simp [hm]) (by decide) (by simp [hm, Mode.early]) (fun _ => .inr rfl) h

theorem State.quiesceDone_modeOk (ok : s.modeOk) (hm : s.modes.mode = .quiescing) : s.quiesceDone.modeOk := by
  have timer := ok.supervision_none (by simp [hm]) (by simp [hm])
  exact ok.move (m := .quiesced) (v := s.modes.supervision) (by simp [hm]) (by decide) (by simp [hm, Mode.early])
    (by simp [timer]) s.quiesceDone_modes

theorem State.boundary_modeOk (ok : s.modeOk) : s.boundary.modeOk := by
  refine s.boundary_keeps (P := State.modeOk) (ok.congr rfl) (fun u n ok => ?_) (fun u hm ok => ?_)
    (fun u v h _ _ ok => h.modeOk ok)
  · exact u.composerBoundary_cases n (fun _ => (u.fallbackCommit_only n).modeOk ok)
      (fun c plan _ _ hp => State.captureConfig_modeOk ok hp n) (fun b _ _ _ => (u.commitBuild_only b n).modeOk ok)
      (fun b _ _ _ => State.overrunBuild_modeOk ok b n) (fun _ _ => ok)
  · exact State.quiesceDone_modeOk ok hm

theorem State.readingDone_modeOk (ok : s.modeOk) : ((s.modModes (fun mo => { mo with reading := false })).modPort
    (fun pt => { pt with holdArea := none })).modeOk :=
  ⟨ok.progress, fun h => (Bool.false_ne_true h).elim, ok.supervision, ok.captured, ok.placed, ok.read, ok.passed⟩

theorem Work.modeOk (h : Work s t) (ok : s.modeOk) : t.modeOk := by
  cases h with
  | pending q => exact ok.congr rfl
  | clock t => exact ok.congr rfl
  | freeIdx n => exact ok.congr rfl
  | completed bs => exact ok.congr rfl
  | raise c => exact (s.raise_only c).modeOk ok
  | event e => exact (s.handEvent_only e).modeOk ok
  | serve =>
    refine ok.timer (v := s.servedTimer) (fun hv => ok.supervision ?_) s.serve_modes
    intro h
    simp [State.servedTimer, h] at hv
  | runRequest => exact State.runRequest_modeOk ok
  | holdRequest => exact State.holdRequest_modeOk ok
  | fallbackRequest => exact State.fallbackRequest_modeOk ok
  | quiesceRequest => exact State.quiesceRequest_modeOk ok
  | configRequest => exact State.configRequest_modeOk ok
  | posts mask h => exact (s.handlePosts_only _).modeOk ok
  | cancels mask => exact (s.cancelSlots_only _).modeOk ok
  | continuePosts h => exact s.continuePosts_only.modeOk ok
  | release r n => exact (s.releaseRing_only r n).modeOk ok
  | ctlRead => exact s.ctlRead_only.modeOk ok
  | commitDone => exact s.commitDone_only.modeOk ok
  | readingDone => exact State.readingDone_modeOk ok
  | checksComplete image h hc => exact State.checksComplete_modeOk ok h
  | checkBuildTake b h hr => exact (s.checkBuildTake_only b).modeOk ok
  | buildComplete b h hr hc => exact ok.congr rfl
  | writeSection n => exact (s.writeSection_only n).modeOk ok
  | completeMirror m => exact (s.completeMirror_only m).modeOk ok
  | publishSource m i => exact (s.publishSource_only m i).modeOk ok
  | copySlotPart m p => exact (s.copySlotPart_only m p).modeOk ok
  | writeEntry r => exact (s.writeEntry_only r).modeOk ok
  | flushRing r => exact (s.flushRing_only r).modeOk ok
  | grant m => exact (s.grantTo_only m).modeOk ok
  | planPoint h => exact s.planPoint_only.modeOk ok
  | boundary => exact State.boundary_modeOk ok
  | timing v h => exact ok.congr rfl
  | setSource i r hr hs => exact (s.setSource_only i r).modeOk ok
  | changeSource i r g hr hs => exact (s.changeSource_only i r g false).modeOk ok
  | supervisionFallback h =>
    have hm := ok.supervision h
    exact State.enterFallback_modeOk ok (by rcases hm with h | h <;> simp [h])
      (by rcases hm with h | h <;> simp [h, Mode.early]) _

theorem State.linkReset_modes (s : State) :
    s.linkReset.modes = { s.modes with permit := false, intEnable := false } := by
  rw [State.linkReset_eq, (State.restartBuild_only _).modes_eq, (State.abandonTakes_only _ _).modes_eq,
    (State.clearInterrupt_only _).modes_eq]
  change ({ (State.completePosts _ _).modes with permit := false, intEnable := false } : ModeCtl) = _
  rw [(State.completePosts_only _ _).modes_eq]
  rfl

theorem Move.modeOk (h : Move s t) (ok : s.modeOk) : t.modeOk := by
  cases h with
  | work w => exact w.modeOk ok
  | queue q h => exact ok.congr rfl
  | taken i h => exact ok.congr (takeRamAccess_only i (s.setWaiting [])).modes_eq
  | part first rest r h => exact ok.congr (servePart_only first s).modes_eq
  | causes v => exact ok.congr rfl
  | enables v => exact ok.congr rfl
  | fields p i => exact ok.timer ok.supervision (s.modectl_modes false p i)
  | softReset h => exact ok.endActivation (v := none) (by simp) s.softReset_modes
  | powerOn => constructor <;> simp [State.powerOn, State.andThen, State.modModes, State.setModes, State.modPort, State.setPort,
      State.setFreeIdx, State.setPending, State.reset, ModeCtl.reset, Mode.early]
  | clearDone h =>
    have timer := ok.supervision_none (by simp [h]) (by simp [h])
    exact ok.move (m := .config) (v := s.modes.supervision) (by simp [h]) (by decide) (fun _ => rfl) (by simp [timer]) rfl
  | linkReset => exact ok.timer ok.supervision s.linkReset_modes
  | switches p h => exact ok.congr rfl
  | linkReturn => exact ok.congr rfl

/-- Settles O9: every move keeps it; a capture is placed as the activation checks ask, for it passed them. -/
theorem modeControllerStaysInOrder : Obligations.ModeControllerStaysInOrder :=
  fun s t ok h => step_keeps (fun _ _ m ok => m.modeOk ok) s t ok h

end Sys2Proof.Machine
end

section
-- Many short proofs follow one another: taken one at a time they need one thread's memory, not one's for each.
set_option Elab.async false
/-! PROOF. What each shared operation leaves of the composer's layouts, and the lengths of the tables (R2, R16, R27, R82, R159). -/

namespace Sys2Proof.Machine

variable {s t : State}

/-! The composer's layouts after each operation. -/

/-- The layouts and what decides over them: the live layout, the build, whether a fallback commit is owed, the fallback plan. -/
def Composer.layouts (c : Composer) : Layout × Option BuildRecord × Bool × Option (List WindowRec) :=
  (c.live, c.build, c.fallbackOwed, c.fallbackPlan)

theorem Composer.layouts_eq {c d : Composer} (h : d.layouts = c.layouts) : d.live = c.live ∧ d.build = c.build ∧
    d.fallbackOwed = c.fallbackOwed ∧ d.fallbackPlan = c.fallbackPlan := by
  simpa [Composer.layouts, Prod.ext_iff] using h

theorem Composer.layouts_of {c : Composer} {l : Layout} {b : Option BuildRecord} {o : Bool} {f : Option (List WindowRec)}
    (h : c.layouts = (l, b, o, f)) : c.live = l ∧ c.build = b ∧ c.fallbackOwed = o ∧ c.fallbackPlan = f := by
  simpa [Composer.layouts] using h

theorem Composer.addEdit_layouts (c : Composer) (k : EditKind) (w r : Nat) (e : EditCause) :
    (c.addEdit k w r e).layouts = c.layouts := rfl

theorem foldl_layouts {α : Type} {f : Composer → α → Composer} (hf : ∀ c a, (f c a).layouts = c.layouts) (l : List α)
    (c : Composer) : (l.foldl f c).layouts = c.layouts := by
  induction l generalizing c with
  | nil => rfl
  | cons a l ih => exact (ih (f c a)).trans (hf c a)

theorem Composer.sourceChanged_layouts (c : Composer) (i : Nat) (new : SourceState) :
    (c.sourceChanged i new).layouts = c.layouts := by
  unfold Composer.sourceChanged
  refine foldl_layouts (fun c p => ?_) _ c
  split
  · split <;> rfl
  · split <;> rfl
  · split <;> rfl
  all_goals rfl

theorem Composer.commitCheck_layouts (c : Composer) (st : Nat → SourceState) : (c.commitCheck st).layouts = c.layouts := by
  unfold Composer.commitCheck
  refine foldl_layouts (fun c p => ?_) _ c
  split
  · rfl
  · split <;> rfl

theorem State.changeSource_layouts (s : State) (i : Nat) (r : SourceRec) (g a : Bool) :
    (s.changeSource i r g a).composer.layouts = s.composer.layouts := by
  unfold State.changeSource State.andThen
  dsimp only
  rw [(State.handEvent_only _ _).composer_eq]
  change (((s.setSource i r).composer).sourceChanged i r.state).layouts = _
  rw [Composer.sourceChanged_layouts, (s.setSource_only i r).composer_eq]

theorem State.applySettings_layouts (s : State) (i : Nat) (new : SourceSettings) :
    (s.applySettings i new).composer.layouts = s.composer.layouts := by
  have set (r : SourceRec) : (s.setSource i r).composer.layouts = s.composer.layouts := by
    rw [(s.setSource_only i r).composer_eq]
  unfold State.applySettings State.andThen
  dsimp only
  split
  · split
    · rw [State.changeSource_layouts, State.changeSource_layouts]
    · rw [State.changeSource_layouts]
  · split
    · rw [State.changeSource_layouts]
    · split
      · exact set _
      · split
        · split
          · rw [State.changeSource_layouts]
          · exact set _
        · split
          · rw [State.changeSource_layouts]
          · exact set _
        · exact set _

theorem State.applyAllSettings_layouts (s : State) (i : Nat) (l : List SourceSettings) :
    (s.applyAllSettings i l).composer.layouts = s.composer.layouts := by
  induction l generalizing s i with
  | nil => rfl
  | cons n l ih => exact (ih (s.applySettings i n) (i + 1)).trans (s.applySettings_layouts i n)

theorem State.runRequest_layouts (s : State) : s.runRequest.composer.layouts = s.composer.layouts := by
  unfold State.runRequest
  split
  · rfl
  · rw [s.startActivation_only.composer_eq]
  · rw [s.failRequest_only.composer_eq]
  · rfl
  · rw [(State.startSupervision_only _).composer_eq, (State.moveMode_only _ _ _).composer_eq]
    rfl
  · rw [(State.startSupervision_only _).composer_eq, (State.moveMode_only _ _ _).composer_eq]
  · rw [s.failRequest_only.composer_eq]
  · rw [(State.startSupervision_only _).composer_eq, (State.moveMode_only _ _ _).composer_eq]

theorem State.enterFallback_composer (s : State) (r : Trigger) :
    (s.enterFallback r).composer = { s.composer with build := none, fallbackOwed := true } := by
  unfold State.enterFallback State.andThen
  dsimp only
  change { (State.composer _) with fallbackOwed := true } = _
  rw [(State.moveMode_only _ _ _).composer_eq, (State.raise_only _ _).composer_eq, (State.stopSupervision_only _).composer_eq,
    (State.journalDone_only _).composer_eq, (State.abandonTakes_only _ _).composer_eq]
  change { ({ (State.composer _) with build := none } : Composer) with fallbackOwed := true } = _
  rw [(State.abandonTakes_only _ _).composer_eq]

theorem State.enterHold_composer (s : State) (r : Trigger) : (s.enterHold r).composer = s.composer :=
  (s.enterHold_only r).composer_eq

theorem State.gatherAndBuild_composer (s : State) (n : Word) : (s.gatherAndBuild n).composer = s.composer ∨
    ∃ u : State, ∃ l, u.composer = s.composer ∧ u.sources = s.sources ∧ u.modes = s.modes ∧
      (s.gatherAndBuild n).composer = { s.composer with build := some (u.newBuild n 0 s.composer.pendingEdits l) } := by
  unfold State.gatherAndBuild State.andThen
  dsimp only
  have expired := s.expireTakes_only n
  split
  · exact .inl expired.composer_eq
  · have started := (State.startTakes_only (s.expireTakes n) ((s.expireTakes n).gathered n))
    refine .inr ⟨((s.expireTakes n).startTakes ((s.expireTakes n).gathered n)).modTakes
      (fun te => { te with behindBuild := false }), (s.expireTakes n).gathered n, ?_, ?_, ?_, ?_⟩
    · rw [modTakes_composer, started.composer_eq, expired.composer_eq]
    · rw [modTakes_sources, started.sources_eq, expired.sources_eq]
    · rw [modTakes_modes, started.modes_eq, expired.modes_eq]
    · rw [State.setBuild, modComposer_composer, modTakes_composer, started.composer_eq, expired.composer_eq]

/-- A plan point leaves the layouts, or starts a build where none is owed a fallback commit (R48). -/
theorem State.planPoint_composer (s : State) : s.planPoint.composer = s.composer ∨
    (s.modes.mode.builds = true ∧ s.composer.fallbackOwed = false) ∧ ∃ u : State, ∃ l, u.composer = s.composer ∧
      u.sources = s.sources ∧ u.modes = s.modes ∧
      s.planPoint.composer = { s.composer with build := some (u.newBuild (s.timing.frame + 1) 0 s.composer.pendingEdits l) } := by
  unfold State.planPoint State.andThen
  dsimp only
  split
  · next h =>
    rw [Bool.and_eq_true, Bool.not_eq_true'] at h
    rcases (s.modTiming (fun ti => { ti with planDone := true })).gatherAndBuild_composer (s.timing.frame + 1) with k | k
    · exact .inl k
    · exact .inr ⟨h, k⟩
  · exact .inl rfl

theorem State.restartBuild_composer (s : State) : (s.composer.build = none ∧ s.restartBuild = s) ∨
    ∃ b, s.composer.build = some b ∧ s.restartBuild.composer =
      { s.composer with build := some (s.newBuild b.target (b.attempt + 1) (b.edits.map (·.1)) []) } := by
  unfold State.restartBuild
  split
  · next h => exact .inl ⟨h, rfl⟩
  · next b h => exact .inr ⟨b, h, rfl⟩

theorem State.layoutReplaced_layouts (s : State) : s.layoutReplaced.composer.layouts = s.composer.layouts := by
  unfold State.layoutReplaced State.commitCheck
  change (Composer.commitCheck _ _).layouts = _
  rw [Composer.commitCheck_layouts, (State.beginRewrites_only _).composer_eq, (State.handHeaders_only _ _).composer_eq,
    (State.takePlans_only _).composer_eq]

/-- The layout a plan leaves (R136, R140). -/
def State.planned (s : State) (plan : List WindowRec) (n : Word) : Layout :=
  let ws := (indexed s.composer.live.windows).map (fallbackWindow plan n)
  { s.composer.live with windows := ws, plans := s.plansNow ws }

theorem State.installPlan_layouts (s : State) (plan : List WindowRec) (n : Word) :
    (s.installPlan plan n).composer.layouts = (s.planned plan n, s.composer.build, false, s.composer.fallbackPlan) := rfl

theorem State.fallbackCommit_layouts (s : State) (n : Word) : (s.fallbackCommit n).composer.layouts =
    (s.planned (s.composer.fallbackPlan.getD Layout.cleared.windows) n, s.composer.build, false, s.composer.fallbackPlan) := by
  unfold State.fallbackCommit
  rw [State.layoutReplaced_layouts, State.installPlan_layouts]

theorem State.commitBuild_layouts (s : State) (b : BuildRecord) (n : Word) : (s.commitBuild b n).composer.layouts =
    (b.draft, none, s.composer.fallbackOwed, s.composer.fallbackPlan) := by
  unfold State.commitBuild State.andThen
  dsimp only
  have finished (u : State) : (b.takes.foldl (fun s t => s.finishBuilt n t) u).composer = u.composer :=
    (OnlyChanges.foldl (l := [.rings]) (fun s t => s.finishBuilt_only n t) b.takes u).composer_eq
  rw [State.layoutReplaced_layouts, (State.handEvents_only _ _).composer_eq, finished]
  rfl

theorem State.discardedAtOverrun_composer (s : State) (n : Word) :
    (if s.modes.mode = .quiescing then (s.cancelTakes s.buildSlots (some n)).setBuild none
      else s.discardBuild (some n)).composer = { s.composer with build := none } := by
  split
  · change { (State.composer _) with build := none } = _
    rw [(State.cancelTakes_only _ _ _).composer_eq]
  · exact s.discardBuild_composer _

theorem State.overrunBuild_layouts (s : State) (b : BuildRecord) (n : Word) : (s.overrunBuild b n).composer.layouts =
    (s.composer.live, none, s.composer.fallbackOwed, s.composer.fallbackPlan) := by
  have ended := s.discardedAtOverrun_composer n
  unfold State.overrunBuild State.andThen
  dsimp only
  generalize (if s.modes.mode = .quiescing then (s.cancelTakes s.buildSlots (some n)).setBuild none
      else s.discardBuild (some n)) = v at ended ⊢
  have counted (e : Event) (k : Nat) : (((v.modComposer (fun co => { co with overruns := k })).handEvent e).raise
      .overrun).composer = { s.composer with build := none, overruns := k } := by
    rw [(State.raise_only _ _).composer_eq, (State.handEvent_only _ _).composer_eq]
    change { v.composer with overruns := k } = _
    rw [ended]
  split
  · rw [State.enterHold_composer, counted]
    rfl
  · rw [counted]
    rfl

theorem State.rateInForce_composer (s : State) (c : Captured) :
    (s.rateInForce c).composer = { s.composer with live := { s.composer.live with filters := c.filters } } := by
  unfold State.rateInForce State.andThen
  dsimp only
  rw [(State.applyRate_only _ _ _).composer_eq, (State.setTakes_only _ _).composer_eq]
  rw [modComposer_composer, (State.modReport_rings _ _ rfl).composer_eq, (State.modModes_only _ _).composer_eq, s.ringsDone_only.composer_eq]

theorem State.settingsInForce_layouts (s : State) (c : Captured) : (s.settingsInForce c).composer.layouts =
    ({ s.composer.live with filters := c.filters }, s.composer.build, s.composer.fallbackOwed, s.composer.fallbackPlan) := by
  unfold State.settingsInForce State.andThen
  rw [(State.setInternalRate_only _ _).composer_eq, State.applyAllSettings_layouts, State.rateInForce_composer]
  rfl

/-- The plan of the start layout (R136). -/
def Captured.startPlan (c : Captured) (plan : List WindowRec) : List WindowRec :=
  if c.startFallback then plan else Layout.cleared.windows

/-- The part as the start layout of a capture is installed: its settings and its fallback plan are in force (R135, R136). -/
def State.beforeStart (s : State) (c : Captured) (plan : List WindowRec) : State :=
  (s.settingsInForce c).rewriteSections.modComposer (fun co => { co with fallbackPlan := some plan })

theorem State.layoutInForce_eq (s : State) (c : Captured) (plan : List WindowRec) (n : Word) : s.layoutInForce c plan n =
    ((s.beforeStart c plan).installPlan (c.startPlan plan) n).layoutReplaced := rfl

theorem State.beforeStart_only (s : State) (c : Captured) (plan : List WindowRec) :
    OnlyChanges [.status, .composer] (s.settingsInForce c) (s.beforeStart c plan) :=
  ((State.rewriteSections_only _).mono (by decide)).next (State.modComposer_only _ _) (by decide)

theorem State.beforeStart_layouts (s : State) (c : Captured) (plan : List WindowRec) : (s.beforeStart c plan).composer.layouts =
    ({ s.composer.live with filters := c.filters }, s.composer.build, s.composer.fallbackOwed, some plan) := by
  obtain ⟨live, build, owed, -⟩ := Composer.layouts_of (s.settingsInForce_layouts c)
  unfold State.beforeStart Composer.layouts
  rw [modComposer_composer, (State.rewriteSections_only _).composer_eq, live, build, owed]

theorem State.captureConfig_ends_only (s : State) (c : Captured) (plan : List WindowRec) (n : Word) :
    OnlyChanges [.interrupt, .modes, .rings, .causes] (s.layoutInForce c plan n) (s.captureConfig c plan n) := by
  rw [State.captureConfig_eq, State.andThen]
  exact (((State.raise_only _ _).mono (by decide)).next (State.moveMode_only _ _ _) (by decide)).next
    (State.startSupervision_only _) (by decide)

theorem State.captureConfig_layouts (s : State) (c : Captured) (plan : List WindowRec) (n : Word) :
    (s.captureConfig c plan n).composer.layouts =
      ((s.beforeStart c plan).planned (c.startPlan plan) n, s.composer.build, false, some plan) := by
  obtain ⟨-, build, -, fallback⟩ := Composer.layouts_of (s.beforeStart_layouts c plan)
  rw [(s.captureConfig_ends_only c plan n).composer_eq, State.layoutInForce_eq, State.layoutReplaced_layouts,
    State.installPlan_layouts, build, fallback]

end Sys2Proof.Machine
end

section
-- Many short proofs follow one another: taken one at a time they need one thread's memory, not one's for each.
set_option Elab.async false
/-! PROOF. Every step keeps the tables at their lengths (R2, R16, R27, R82, R159). -/

namespace Sys2Proof.Machine

variable {s t : State}

/-! The slot table: a slot record is replaced, never added or taken away. -/

/-- The number of slot records. -/
def State.slotTotal (s : State) : Nat := s.takes.slots.length

theorem OnlyChanges.slotTotal {l : List Part} (h : OnlyChanges l s t) (hp : Part.takes ∉ l := by decide) :
    t.slotTotal = s.slotTotal := by
  rw [State.slotTotal, h.takes_eq hp]
  rfl

theorem foldl_slotTotal {α : Type} {f : State → α → State} (hf : ∀ s a, (f s a).slotTotal = s.slotTotal) (l : List α)
    (s : State) : (l.foldl f s).slotTotal = s.slotTotal := by
  induction l generalizing s with
  | nil => rfl
  | cons a l ih => exact (ih (f s a)).trans (hf s a)

theorem State.setSlot_slotTotal (s : State) (i : Nat) (r : SlotRec) : (s.setSlot i r).slotTotal = s.slotTotal :=
  s.setSlot_slots_length i r

theorem State.acceptPost_slotTotal (s : State) (i : Nat) : (s.acceptPost i).slotTotal = s.slotTotal :=
  s.setSlot_slotTotal i _

theorem State.handlePosts_slotTotal (s : State) (l : List Nat) : (s.handlePosts l).slotTotal = s.slotTotal := by
  induction l generalizing s with
  | nil => rfl
  | cons i l ih =>
    unfold State.handlePosts
    split
    · exact (ih _).trans (((State.raise_only _ _).slotTotal).trans (s.setSlot_slotTotal i _))
    · exact s.acceptPost_slotTotal i

theorem State.recordPost_slotTotal (s : State) (i : Nat) (h : TakeHeader) : (s.recordPost i h).slotTotal = s.slotTotal := by
  unfold State.recordPost State.andThen
  exact ((State.markSlotHeader_only _).slotTotal).trans (s.setSlot_slotTotal i _)

theorem State.finishChecks_slotTotal (s : State) (i : Nat) : (s.finishChecks i).slotTotal = s.slotTotal := by
  have read : s.ctlRead.slotTotal = s.slotTotal := s.ctlRead_only.slotTotal
  unfold State.finishChecks State.andThen
  dsimp only
  split
  · exact ((State.rejectPost_only _ _ _ _).slotTotal).trans read
  · split
    · exact (State.recordPost_slotTotal _ _ _).trans read
    · exact ((State.finishTake_only _ _ _ _ _).slotTotal).trans ((State.recordPost_slotTotal _ _ _).trans read)

theorem State.continuePosts_slotTotal (s : State) : s.continuePosts.slotTotal = s.slotTotal := by
  unfold State.continuePosts State.andThen
  split
  · rfl
  · dsimp only
    split
    · exact s.finishChecks_slotTotal _
    · exact (State.handlePosts_slotTotal _ _).trans (s.finishChecks_slotTotal _)

theorem State.endTake_slotTotal (s : State) (i : Nat) : (s.endTake i).slotTotal = s.slotTotal := by
  unfold State.endTake
  split
  · exact State.handlePosts_slotTotal _ _
  · exact s.setSlot_slotTotal i _

theorem State.countEntry_slotTotal (s : State) (i : RingId) : (s.countEntry i).slotTotal = s.slotTotal :=
  ((State.raiseIf_only _ _ _).slotTotal).trans (((State.writeRingHeader_only _ _).slotTotal).trans rfl)

theorem State.writeJournalEntry_slotTotal (s : State) : s.writeJournalEntry.slotTotal = s.slotTotal := by
  unfold State.writeJournalEntry State.andThen
  split
  · rfl
  · refine (State.endTake_slotTotal _ _).trans ((State.countEntry_slotTotal _ _).trans ?_)
    exact ((State.doRingJob_only _ _).slotTotal).trans (s.flushRing_only _).slotTotal

theorem State.writeEntry_slotTotal (s : State) (i : RingId) : (s.writeEntry i).slotTotal = s.slotTotal := by
  cases i
  · exact s.writeJournalEntry_slotTotal
  · exact (s.writeEvent_only _).slotTotal
  · exact (s.writeEvent_only _).slotTotal

theorem State.writeEntries_slotTotal (s : State) (i : RingId) (n : Nat) : (s.writeEntries i n).slotTotal = s.slotTotal := by
  induction n generalizing s with
  | zero => rfl
  | succ n ih => exact (ih _).trans (s.writeEntry_slotTotal i)

theorem State.journalDone_slotTotal (s : State) : s.journalDone.slotTotal = s.slotTotal := s.writeEntries_slotTotal _ _

theorem State.ringDone_slotTotal (s : State) (i : RingId) : (s.ringDone i).slotTotal = s.slotTotal :=
  ((State.flushRing_only _ i).slotTotal).trans (s.writeEntries_slotTotal i _)

theorem State.ringsDone_slotTotal (s : State) : s.ringsDone.slotTotal = s.slotTotal :=
  (State.ringDone_slotTotal _ _).trans ((State.ringDone_slotTotal _ _).trans (s.ringDone_slotTotal _))

theorem State.completePosts_slotTotal (n : Nat) (s : State) : (s.completePosts n).slotTotal = s.slotTotal := by
  induction n generalizing s with
  | zero => rfl
  | succ n ih =>
    unfold State.completePosts
    split
    · rfl
    · refine (ih _).trans ?_
      split
      · exact s.journalDone_slotTotal
      · exact s.continuePosts_slotTotal

theorem State.cancelSlot_slotTotal (s : State) (i : Nat) : (s.cancelSlot i).slotTotal = s.slotTotal := by
  unfold State.cancelSlot
  split
  · exact (State.journalDone_slotTotal _).trans (s.setSlot_slotTotal i _)
  · exact s.setSlot_slotTotal i _
  · exact ((State.raise_only _ _).slotTotal).trans (s.setSlot_slotTotal i _)

theorem State.cancelSlots_slotTotal (s : State) (l : List Nat) : (s.cancelSlots l).slotTotal = s.slotTotal :=
  foldl_slotTotal State.cancelSlot_slotTotal l s

theorem State.returnTake_slotTotal (s : State) (f : Option Word) (i : Nat) : (s.returnTake f i).slotTotal = s.slotTotal := by
  unfold State.returnTake
  split
  · exact (s.finishTake_only _ _ _ _).slotTotal
  · exact s.setSlot_slotTotal i _

theorem State.discardBuild_slotTotal (s : State) (f : Option Word) : (s.discardBuild f).slotTotal = s.slotTotal :=
  ((State.setBuild_only _ _).slotTotal).trans (foldl_slotTotal (fun s i => s.returnTake_slotTotal f i) _ s)

theorem State.startTakes_slotTotal (s : State) (l : List Nat) : (s.startTakes l).slotTotal = s.slotTotal :=
  foldl_slotTotal (fun s i => s.setSlot_slotTotal i _) l s

theorem State.modTakes_slotTotal (s : State) {f : TakeEngine → TakeEngine} (h : (f s.takes).slots = s.takes.slots) :
    (s.modTakes f).slotTotal = s.slotTotal := by
  rw [State.slotTotal, modTakes_takes, h]
  rfl

theorem State.gatherAndBuild_slotTotal (s : State) (n : Word) : (s.gatherAndBuild n).slotTotal = s.slotTotal := by
  have expired : (s.expireTakes n).slotTotal = s.slotTotal := (s.expireTakes_only n).slotTotal
  unfold State.gatherAndBuild State.andThen
  dsimp only
  split
  · exact expired
  · rw [(State.setBuild_only _ _).slotTotal, State.modTakes_slotTotal _ (by rfl), State.startTakes_slotTotal, expired]

theorem State.planPoint_slotTotal (s : State) : s.planPoint.slotTotal = s.slotTotal := by
  unfold State.planPoint State.andThen
  dsimp only
  split
  · rw [State.gatherAndBuild_slotTotal, (State.modTiming_only _ _).slotTotal]
  · rfl

theorem State.enterFallback_slotTotal (s : State) (r : Trigger) : (s.enterFallback r).slotTotal = s.slotTotal := by
  unfold State.enterFallback State.andThen
  dsimp only
  rw [(State.modComposer_only _ _).slotTotal, (State.moveMode_only _ _ _).slotTotal, (State.raise_only _ _).slotTotal,
    (State.stopSupervision_only _).slotTotal, State.journalDone_slotTotal, (State.abandonTakes_only _ _).slotTotal,
    (State.setBuild_only _ _).slotTotal, (State.abandonTakes_only _ _).slotTotal]

theorem State.quiesceDone_slotTotal (s : State) : s.quiesceDone.slotTotal = s.slotTotal :=
  ((State.moveMode_only _ _ _).slotTotal).trans (((State.raise_only _ _).slotTotal).trans s.journalDone_slotTotal)

theorem State.enterQuiescing_slotTotal (s : State) (r : Trigger) : (s.enterQuiescing r).slotTotal = s.slotTotal := by
  have moved : (((s.cancelTakes s.postedSlots none).stopSupervision).moveMode .quiescing r).slotTotal = s.slotTotal :=
    ((State.moveMode_only _ _ _).slotTotal).trans (s.cancelTakes_only _ _).slotTotal
  unfold State.enterQuiescing State.andThen
  dsimp only
  split
  · exact (State.quiesceDone_slotTotal _).trans moved
  · exact moved

theorem State.overrunBuild_slotTotal (s : State) (b : BuildRecord) (n : Word) : (s.overrunBuild b n).slotTotal = s.slotTotal := by
  have ended : (if s.modes.mode = .quiescing then (s.cancelTakes s.buildSlots (some n)).setBuild none
      else s.discardBuild (some n)).slotTotal = s.slotTotal := by
    split
    · exact (s.cancelTakes_only _ _).slotTotal
    · exact s.discardBuild_slotTotal _
  unfold State.overrunBuild State.andThen
  dsimp only
  generalize (if s.modes.mode = .quiescing then (s.cancelTakes s.buildSlots (some n)).setBuild none
      else s.discardBuild (some n)) = v at ended ⊢
  have counted (e : Event) (k : Nat) : (((v.modComposer (fun co => { co with overruns := k })).handEvent e).raise
      .overrun).slotTotal = s.slotTotal :=
    ((State.raise_only _ _).slotTotal).trans (((State.handEvent_only _ _).slotTotal).trans ended)
  split
  · exact ((State.enterHold_only _ _).slotTotal).trans (counted _ _)
  · exact counted _ _

theorem State.rateInForce_slotTotal (s : State) (c : Captured) : (s.rateInForce c).slotTotal = s.slotTotal := by
  unfold State.rateInForce State.andThen
  dsimp only
  rw [(State.applyRate_only _ _ _).slotTotal]
  refine Eq.trans ?_ s.ringsDone_slotTotal
  simp [State.slotTotal, TakeEngine.clearRefusals, State.modReport]

theorem State.captureConfig_slotTotal (s : State) (c : Captured) (plan : List WindowRec) (n : Word) :
    (s.captureConfig c plan n).slotTotal = s.slotTotal := by
  rw [(s.captureConfig_ends_only c plan n).slotTotal, (s.layoutInForce_only c plan n).slotTotal,
    (s.settingsInForce_only c).slotTotal, s.rateInForce_slotTotal]

end Sys2Proof.Machine
end

section
-- Many short proofs follow one another: taken one at a time they need one thread's memory, not one's for each.
set_option Elab.async false
/-! PROOF. Every step keeps the tables at their lengths, continued: layouts, sources, ports (R2, R16, R82, R159). -/

namespace Sys2Proof.Machine

variable {s t : State}

/-! Layouts keep their sizes through edits, entries and commits. -/

theorem State.resolveEdit_length (s : State) (ws : List WindowRec) (e : Edit) : (s.resolveEdit ws e).1.length = ws.length := by
  unfold State.resolveEdit
  split
  · rfl
  · dsimp only
    split
    · rfl
    · exact List.length_set

theorem State.resolveEdits_length (s : State) (ws : List WindowRec) (es : List Edit) :
    (s.resolveEdits ws es).1.length = ws.length := by
  induction es generalizing ws with
  | nil => rfl
  | cons e es ih =>
    rw [State.resolveEdits_cons]
    exact (ih _).trans (s.resolveEdit_length ws e)

theorem State.newBuild_sized (s : State) (target : Word) (attempt : Nat) (es : List Edit) (l : List Nat)
    (h : s.composer.live.sized) : (s.newBuild target attempt es l).draft.sized :=
  ⟨(s.resolveEdits_length _ es).trans h.1, h.2⟩

theorem Entry.apply_sized (e : Entry) {d : Layout} (h : d.sized) : (e.apply d).sized := by
  unfold Entry.apply
  split
  · exact h
  · split
    · exact ⟨h.1, List.length_set.trans h.2⟩
    · exact h
  · exact ⟨List.length_set.trans h.1, h.2⟩

theorem TakeCheck.next_sized {p : TakeCheck} (c : EntryContext) (e : Entry) (h : p.draft.sized) : (p.next c e).draft.sized := by
  unfold TakeCheck.next
  split
  · exact h
  · split
    · exact h
    · exact e.apply_sized h

theorem TakeCheck.toEnd_sized {p : TakeCheck} (c : EntryContext) (es : List Entry) (h : p.draft.sized) :
    (p.toEnd c es).draft.sized := by
  unfold TakeCheck.toEnd
  generalize es.drop p.passed = l
  induction l generalizing p with
  | nil => exact h
  | cons e l ih => exact ih (TakeCheck.next_sized c e h)

theorem TakeCheck.result_sized {p : TakeCheck} (g : Geometry) (cls : Nat → Nat) {d : Layout} (hp : p.draft.sized)
    (hd : d.sized) : (p.result g cls d).2.sized := by
  unfold TakeCheck.result
  split
  · exact hd
  · split
    · exact hd
    · exact hp

/-- A build whose draft, and that of a take whose checks have begun, have the sizes of a layout. -/
def BuildRecord.sized (b : BuildRecord) : Prop := b.draft.sized ∧ ∀ p, b.inTake = some p → p.draft.sized

theorem BuildRecord.takeBegun_sized {b : BuildRecord} (h : b.sized) : b.takeBegun.draft.sized := by
  unfold BuildRecord.takeBegun
  cases hp : b.inTake with
  | none => exact h.1
  | some p => exact h.2 p hp

theorem State.checkNext_sized (s : State) {b : BuildRecord} (h : b.sized) {l : List BuildTake}
    {r : List BuildTake × Layout × List (Nat × Word)} (hr : s.checkNext b l = some r) : r.2.1.sized := by
  induction l generalizing r with
  | nil => cases hr
  | cons k l ih =>
    unfold State.checkNext at hr
    split at hr
    · obtain ⟨q, hq, rfl⟩ := Option.map_eq_some_iff.1 hr
      exact (ih hq : q.2.1.sized)
    · cases hr
      exact TakeCheck.result_sized _ _ (TakeCheck.toEnd_sized _ _ (BuildRecord.takeBegun_sized h)) h.1

theorem State.checkBuildTake_composer (s : State) (b : BuildRecord) : (s.checkBuildTake b).composer =
    match s.ctlRead.checkNext b b.takes with
    | none => s.composer
    | some r => { s.composer with
        build := some { b with takes := r.1, draft := r.2.1, inTake := none, named := r.2.2 } } := by
  unfold State.checkBuildTake State.andThen
  dsimp only
  cases s.ctlRead.checkNext b b.takes with
  | none => exact s.ctlRead_only.composer_eq
  | some r =>
    dsimp only
    rw [modTakes_composer, State.setBuild, modComposer_composer, s.ctlRead_only.composer_eq]

/-- What a grant to the take reader does to the build: nothing, or one more entry of its next take is checked (R54). -/
theorem State.readerGrant_composer (s : State) : s.readerGrant.composer = s.composer ∨ ∃ b k e, s.composer.build = some b ∧
    s.readerGrant.composer =
      { s.composer with build := some { b with inTake := some (b.takeBegun.next (s.entryContext k) e) } } := by
  unfold State.readerGrant
  cases hb : s.composer.build with
  | none => exact .inl rfl
  | some b =>
    dsimp only
    split
    · unfold State.checkEntry
      split
      · exact .inl rfl
      · split
        · exact .inl rfl
        · exact .inr ⟨b, _, _, rfl, rfl⟩
    · exact .inl rfl

theorem State.grantTo_composer (s : State) (m : Master) : (s.grantTo m).composer = s.composer ∨ ∃ b k e,
    s.composer.build = some b ∧ (s.grantTo m).composer =
      { s.composer with build := some { b with inTake := some (b.takeBegun.next (s.entryContext k) e) } } := by
  cases m with
  | exchangePort => exact .inl rfl
  | ringWriter => exact .inl s.ringGrant_only.composer_eq
  | commitWriter => exact .inl s.commitGrant_only.composer_eq
  | takeReader => exact s.readerGrant_composer
  | statusWriter => exact .inl s.statusGrant_only.composer_eq

@[simp] theorem indexed_length (ws : List WindowRec) : (indexed ws).length = ws.length := by simp [indexed]

theorem giveContext_length (ws : List WindowRec) (i : Nat) : (giveContext ws i).length = ws.length := by
  unfold giveContext
  dsimp only
  split
  · exact List.length_set
  · rfl

@[simp] theorem assignContexts_length (live draft : List WindowRec) : (assignContexts live draft).length = draft.length := by
  have give (l : List Nat) (ws : List WindowRec) : (l.foldl giveContext ws).length = ws.length := by
    induction l generalizing ws with
    | nil => rfl
    | cons i l ih => exact (ih _).trans (giveContext_length ws i)
  simp [assignContexts, give, keepContexts]

theorem State.completeDraft_sized (s : State) {b : BuildRecord} (h : b.draft.sized) : (s.completeDraft b).sized :=
  ⟨by simpa [State.completeDraft] using h.1, h.2⟩

theorem Layout.cleared_sized : Layout.cleared.sized := ⟨List.length_replicate, List.length_replicate⟩

theorem State.planned_sized (s : State) (plan : List WindowRec) (n : Word) (h : s.composer.live.sized) :
    (s.planned plan n).sized :=
  ⟨by simpa [State.planned] using h.1, h.2⟩

theorem ConfigImage.fallbackPlan_length (c : ConfigImage) : c.fallbackPlan.length = Config.windowCount := by
  have applied (l : List Entry) {d : Layout} (h : d.sized) : (l.foldl (fun d e => e.apply d) d).sized := by
    induction l generalizing d with
    | nil => exact h
    | cons e l ih => exact ih (e.apply_sized h)
  rw [ConfigImage.fallbackPlan, assignContexts_length]
  exact (applied c.fallbackEntries Layout.cleared_sized).1

/-! The invariant of the lengths. -/

/-- The composer's layouts have the sizes of a layout. -/
structure Composer.sized (c : Composer) : Prop where
  live : c.live.sized
  draft : ∀ b, c.build = some b → b.sized
  fallback : ∀ p, c.fallbackPlan = some p → p.length = Config.windowCount

theorem State.tablesOk.composer_sized (ok : s.tablesOk) : s.composer.sized := ⟨ok.live, ok.draft, ok.fallback⟩

theorem Composer.sized.congr {c d : Composer} (h : c.sized) (e : d.layouts = c.layouts) : d.sized := by
  obtain ⟨live, build, -, fallback⟩ := Composer.layouts_eq e
  exact ⟨live ▸ h.live, build ▸ h.draft, fallback ▸ h.fallback⟩

theorem Composer.sized.withoutBuild {c d : Composer} (h : c.sized) {o : Bool}
    (e : d.layouts = (c.live, none, o, c.fallbackPlan)) : d.sized := by
  obtain ⟨live, build, -, fallback⟩ := Composer.layouts_of e
  exact ⟨live ▸ h.live, by simp [build], fallback ▸ h.fallback⟩

theorem Composer.sized.withBuild {c d : Composer} (h : c.sized) {b : BuildRecord} (hb : b.sized)
    (e : d = { c with build := some b }) : d.sized := by
  subst e
  exact ⟨h.live, fun q hq => by cases hq; exact hb, h.fallback⟩

/-- The lengths from those of the parts. -/
theorem State.tablesOk.next (ok : s.tablesOk) (slots : t.slotTotal = s.slotTotal)
    (sources : t.sources.length = s.sources.length) (composer : t.composer.sized) (progress : t.modes.progress.sized)
    (ports : t.ports.length = s.ports.length) : t.tablesOk :=
  ⟨slots.trans ok.slots, sources.trans ok.sources, composer.live, composer.draft, composer.fallback, progress,
    ports.trans ok.ports⟩

/-- A change that leaves the source table, the ports and what an activation carries. -/
theorem State.tablesOk.step {l : List Part} (ok : s.tablesOk) (h : OnlyChanges l s t) (slots : t.slotTotal = s.slotTotal)
    (composer : t.composer.sized) (hm : Part.modes ∉ l := by decide) (hs : Part.sources ∉ l := by decide)
    (hp : Part.ports ∉ l := by decide) : t.tablesOk :=
  ok.next slots (by rw [h.sources_eq hs]) composer (by rw [h.modes_eq hm]; exact ok.progress) (by rw [h.ports_eq hp])

theorem OnlyChanges.tablesOk {l : List Part} (h : OnlyChanges l s t) (ok : s.tablesOk) (ht : Part.takes ∉ l := by decide)
    (hc : Part.composer ∉ l := by decide) (hm : Part.modes ∉ l := by decide) (hs : Part.sources ∉ l := by decide)
    (hp : Part.ports ∉ l := by decide) : t.tablesOk :=
  ok.step h (h.slotTotal ht) (by rw [h.composer_eq hc]; exact ok.composer_sized) hm hs hp

/-- A change of the mode controller that leaves, drops or gives what an activation carries. -/
theorem State.tablesOk.stepModes {l : List Part} (ok : s.tablesOk) (h : OnlyChanges l s t) (slots : t.slotTotal = s.slotTotal)
    (composer : t.composer.sized) (progress : t.modes.progress.sized) (hs : Part.sources ∉ l := by decide)
    (hp : Part.ports ∉ l := by decide) : t.tablesOk :=
  ok.next slots (by rw [h.sources_eq hs]) composer progress (by rw [h.ports_eq hp])

/-! The operations. -/

theorem Memory.configImage_sized (m : Memory) : (Progress.checking (Memory.configImage m)).sized := by
  simp [Progress.sized, Memory.configImage, Config.filterCount, Config.externalSources]

theorem State.runRequest_tablesOk (ok : s.tablesOk) : s.runRequest.tablesOk := by
  refine ok.stepModes s.runRequest_only s.runRequest_only.slotTotal (ok.composer_sized.congr s.runRequest_layouts) ?_
  unfold State.runRequest
  split
  · exact ok.progress
  · rw [State.startActivation_modes]; exact Memory.configImage_sized _
  · exact ok.progress
  · exact ok.progress
  · rw [State.startSupervision_modes, State.moveMode_modes]; exact ok.progress
  · rw [State.startSupervision_modes, State.moveMode_modes]; exact ok.progress
  · exact ok.progress
  · rw [State.startSupervision_modes, State.moveMode_modes]; exact ok.progress

theorem State.holdRequest_tablesOk (ok : s.tablesOk) : s.holdRequest.tablesOk := by
  unfold State.holdRequest
  split
  · exact ok
  · refine ok.stepModes (((s.discardBuild_only none).mono (by decide)).next (State.enterHold_only _ _)
        (k := [.interrupt, .modes, .rings, .causes]) (l := [.interrupt, .takes, .composer, .modes, .rings, .causes, .status])
        (by decide)) ?_ ?_ ?_
    · rw [(State.enterHold_only _ _).slotTotal, State.discardBuild_slotTotal]
    · rw [State.enterHold_composer, State.discardBuild_composer]
      exact ok.composer_sized.withoutBuild (by rfl)
    · rw [State.enterHold_modes, State.discardBuild_modes]; exact ok.progress
  · exact ok
  all_goals exact s.failRequest_only.tablesOk ok

theorem State.enterFallback_tablesOk (r : Trigger) (ok : s.tablesOk) : (s.enterFallback r).tablesOk :=
  ok.stepModes (s.enterFallback_only r) (s.enterFallback_slotTotal r)
    (by rw [State.enterFallback_composer]; exact ok.composer_sized.withoutBuild (by rfl))
    (by rw [State.enterFallback_modes]; exact ok.progress)

theorem State.fallbackRequest_tablesOk (ok : s.tablesOk) : s.fallbackRequest.tablesOk := by
  unfold State.fallbackRequest
  split
  · exact ok
  · exact State.enterFallback_tablesOk _ ok
  · exact State.enterFallback_tablesOk _ ok
  · exact State.enterFallback_tablesOk _ ok
  · exact ok
  all_goals exact s.failRequest_only.tablesOk ok

theorem State.enterQuiescing_tablesOk (r : Trigger) (ok : s.tablesOk) : (s.enterQuiescing r).tablesOk :=
  ok.stepModes (s.enterQuiescing_only r) (s.enterQuiescing_slotTotal r)
    (by rw [(s.enterQuiescing_only r).composer_eq]; exact ok.composer_sized)
    (by rw [State.enterQuiescing_modes]; exact ok.progress)

theorem State.quiesceRequest_tablesOk (ok : s.tablesOk) : s.quiesceRequest.tablesOk := by
  unfold State.quiesceRequest
  split
  · exact ok
  · exact State.enterQuiescing_tablesOk _ ok
  · exact State.enterQuiescing_tablesOk _ ok
  · exact State.enterQuiescing_tablesOk _ ok
  · exact ok
  · exact ok
  all_goals exact s.failRequest_only.tablesOk ok

theorem State.endActivation_tablesOk (r : Trigger) (ok : s.tablesOk) : (s.endActivation r).tablesOk :=
  ok.stepModes (s.endActivation_only r) (s.endActivation_only r).slotTotal
    (by rw [(s.endActivation_only r).composer_eq]; exact ok.composer_sized) (by rw [State.endActivation_modes]; trivial)

/-- The ports after the layout is cleared for CONFIG hold no plan (R25). -/
theorem State.clearLayoutForConfig_ports (s : State) :
    s.clearLayoutForConfig.ports = s.ports.map (fun p => { p with plan := [] }) :=
  (State.beginRewrites_only _).ports_eq

theorem State.clearLayoutForConfig_layouts (s : State) : s.clearLayoutForConfig.composer.layouts =
    (Layout.cleared, s.composer.build, s.composer.fallbackOwed, s.composer.fallbackPlan) := by
  unfold State.clearLayoutForConfig
  dsimp only
  rw [(State.beginRewrites_only _).composer_eq]
  rfl

theorem State.clearLayoutForConfig_tablesOk (ok : s.tablesOk) : s.clearLayoutForConfig.tablesOk := by
  obtain ⟨live, build, -, fallback⟩ := Composer.layouts_of s.clearLayoutForConfig_layouts
  refine ok.next s.clearLayoutForConfig_only.slotTotal (by rw [s.clearLayoutForConfig_only.sources_eq])
    ⟨live ▸ Layout.cleared_sized, build ▸ ok.draft, fallback ▸ ok.fallback⟩
    (by rw [s.clearLayoutForConfig_only.modes_eq]; exact ok.progress) ?_
  rw [State.clearLayoutForConfig_ports, List.length_map]

theorem State.moveMode_tablesOk (m : Mode) (r : Trigger) (ok : s.tablesOk) : (s.moveMode m r).tablesOk :=
  ok.stepModes (s.moveMode_only m r) (s.moveMode_only m r).slotTotal
    (by rw [(s.moveMode_only m r).composer_eq]; exact ok.composer_sized) (by rw [State.moveMode_modes]; exact ok.progress)

theorem State.configRequest_tablesOk (ok : s.tablesOk) : s.configRequest.tablesOk := by
  have failed := s.failRequest_only.tablesOk ok
  unfold State.configRequest
  split
  · exact ok
  · exact ok
  · exact State.endActivation_tablesOk _ ok
  · exact State.enterQuiescing_tablesOk _ failed
  · exact State.enterQuiescing_tablesOk _ failed
  · exact State.enterQuiescing_tablesOk _ failed
  · exact failed
  · exact State.clearLayoutForConfig_tablesOk (State.moveMode_tablesOk _ _ ok)

theorem State.checksComplete_tablesOk {image : ConfigImage} (hp : s.modes.progress = .checking image) (ok : s.tablesOk) :
    (s.checksComplete image).tablesOk := by
  refine ok.stepModes (s.checksComplete_only image) (s.checksComplete_only image).slotTotal
    (by rw [(s.checksComplete_only image).composer_eq]; exact ok.composer_sized) ?_
  have image_sized := ok.progress
  rw [hp] at image_sized
  rw [State.checksComplete_modes]
  split
  · trivial
  · exact ⟨List.length_map _ |>.trans image_sized.1,
      by simpa [ConfigImage.capture, ConfigImage.allSettings] using image_sized.2, image.fallbackPlan_length⟩

theorem State.planPoint_tablesOk (ok : s.tablesOk) : s.planPoint.tablesOk := by
  refine ok.step s.planPoint_only s.planPoint_slotTotal ?_
  rcases s.planPoint_composer with h | ⟨-, u, l, live, -, -, h⟩
  · rw [h]; exact ok.composer_sized
  · exact ok.composer_sized.withBuild ⟨u.newBuild_sized _ _ _ _ (live ▸ ok.live), fun p hp => by cases hp⟩ h

theorem State.checkBuildTake_tablesOk {b : BuildRecord} (hb : s.composer.build = some b) (ok : s.tablesOk) :
    (s.checkBuildTake b).tablesOk := by
  refine ok.step (s.checkBuildTake_only b) ?_ ?_
  · unfold State.checkBuildTake State.andThen
    dsimp only
    split
    · exact s.ctlRead_only.slotTotal
    · rw [State.modTakes_slotTotal _ (by rfl), (State.setBuild_only _ _).slotTotal, s.ctlRead_only.slotTotal]
  · rw [State.checkBuildTake_composer]
    split
    · exact ok.composer_sized
    · next r hr =>
      exact ok.composer_sized.withBuild ⟨State.checkNext_sized _ (ok.draft b hb) hr, fun p hp => by cases hp⟩ rfl

theorem State.grantTo_tablesOk (m : Master) (ok : s.tablesOk) : (s.grantTo m).tablesOk := by
  refine ok.step (s.grantTo_only m) (s.grantTo_only m).slotTotal ?_
  rcases s.grantTo_composer m with h | ⟨b, k, e, hb, h⟩
  · rw [h]; exact ok.composer_sized
  · refine ok.composer_sized.withBuild (b := { b with inTake := some (b.takeBegun.next (s.entryContext k) e) })
      ⟨(ok.draft b hb).1, fun p hp => ?_⟩ h
    cases hp
    exact TakeCheck.next_sized _ _ (BuildRecord.takeBegun_sized (ok.draft b hb))

theorem State.setSource_tablesOk (i : Nat) (r : SourceRec) (ok : s.tablesOk) : (s.setSource i r).tablesOk :=
  let frame := s.setSource_only i r
  ok.next frame.slotTotal (by rw [State.setSource_sources, List.length_set])
    (by rw [frame.composer_eq]; exact ok.composer_sized) (by rw [frame.modes_eq]; exact ok.progress)
    (by rw [frame.ports_eq])

theorem State.changeSource_tablesOk (i : Nat) (r : SourceRec) (g a : Bool) (ok : s.tablesOk) :
    (s.changeSource i r g a).tablesOk :=
  let frame := s.changeSource_only i r g a
  ok.next frame.slotTotal (by rw [State.changeSource_sources, List.length_set])
    (ok.composer_sized.congr (s.changeSource_layouts i r g a)) (by rw [frame.modes_eq]; exact ok.progress)
    (by rw [frame.ports_eq])

/-! The boundary. -/

theorem State.layoutReplaced_ports (s : State) : s.layoutReplaced.ports =
    s.ports.zipIdx.map (fun p => { p.1 with plan := s.composer.live.plans.getD p.2 [] }) := by
  unfold State.layoutReplaced
  rw [(State.commitCheck_only _).ports_eq, (State.beginRewrites_only _).ports_eq, (State.handHeaders_only _ _).ports_eq]
  rfl

theorem State.layoutReplaced_ports_length (s : State) : s.layoutReplaced.ports.length = s.ports.length := by
  rw [State.layoutReplaced_ports, List.length_map, List.length_zipIdx]

theorem State.applySettings_sources_length (s : State) (i : Nat) (new : SourceSettings) :
    (s.applySettings i new).sources.length = s.sources.length := by
  unfold State.applySettings State.andThen
  dsimp only
  split_ifs
  · rw [State.changeSource_sources, State.changeSource_sources, List.length_set, List.length_set]
  · rw [State.changeSource_sources, List.length_set]
  · rw [State.changeSource_sources, List.length_set]
  · rw [State.setSource_sources, List.length_set]
  · split
    · split
      · rw [State.changeSource_sources, List.length_set]
      · rw [State.setSource_sources, List.length_set]
    · split
      · rw [State.changeSource_sources, List.length_set]
      · rw [State.setSource_sources, List.length_set]
    · rw [State.setSource_sources, List.length_set]

theorem State.applyAllSettings_sources_length (s : State) (i : Nat) (l : List SourceSettings) :
    (s.applyAllSettings i l).sources.length = s.sources.length := by
  induction l generalizing s i with
  | nil => rfl
  | cons n l ih => exact (ih (s.applySettings i n) (i + 1)).trans (s.applySettings_sources_length i n)

theorem State.settingsInForce_sources_length (s : State) (c : Captured) (h : s.sources.length = Config.allSources) :
    (s.settingsInForce c).sources.length = s.sources.length := by
  unfold State.settingsInForce State.andThen State.setInternalRate
  rw [setSources_sources, List.length_append, List.length_take, List.length_replicate, State.applyAllSettings_sources_length,
    (s.rateInForce_only c).sources_eq, h]
  rfl

theorem State.captureConfig_tablesOk {c : Captured} {plan : List WindowRec} (n : Word) (ok : s.tablesOk)
    (hp : s.modes.progress = .passed c plan) : (s.captureConfig c plan n).tablesOk := by
  obtain ⟨filters, -, planSized⟩ : (Progress.passed c plan).sized := hp ▸ ok.progress
  obtain ⟨live, build, -, fallback⟩ := Composer.layouts_of (s.captureConfig_layouts c plan n)
  obtain ⟨before, -, -, -⟩ := Composer.layouts_of (s.beforeStart_layouts c plan)
  obtain ⟨timer, modes⟩ := s.captureConfig_modes c plan n
  refine ok.next (s.captureConfig_slotTotal c plan n) ?_ ⟨?_, build ▸ ok.draft, ?_⟩ ?_ ?_
  · rw [State.captureConfig_sources, s.settingsInForce_sources_length c ok.sources]
  · rw [live]
    exact State.planned_sized _ _ _ (before ▸ ⟨ok.live.1, filters⟩)
  · rw [fallback]
    exact fun p hp => by cases hp; exact planSized
  · rw [modes]; trivial
  · rw [(s.captureConfig_ends_only c plan n).ports_eq, State.layoutInForce_eq, State.layoutReplaced_ports_length,
      (State.installPlan_only _ _ _).ports_eq, (s.beforeStart_only c plan).ports_eq, (s.settingsInForce_only c).ports_eq,
      (s.rateInForce_only c).ports_eq]

theorem State.fallbackCommit_tablesOk (n : Word) (ok : s.tablesOk) : (s.fallbackCommit n).tablesOk := by
  obtain ⟨live, build, -, fallback⟩ := Composer.layouts_of (s.fallbackCommit_layouts n)
  have frame := s.fallbackCommit_only n
  refine ok.next frame.slotTotal (by rw [frame.sources_eq]) ⟨?_, build ▸ ok.draft, fallback ▸ ok.fallback⟩
    (by rw [frame.modes_eq]; exact ok.progress) ?_
  · rw [live]
    exact s.planned_sized _ n ok.live
  · unfold State.fallbackCommit
    rw [State.layoutReplaced_ports_length, (State.installPlan_only _ _ _).ports_eq]

theorem State.commitBuild_ports (s : State) (b : BuildRecord) (n : Word) : (s.commitBuild b n).ports =
    s.ports.zipIdx.map (fun p => { p.1 with plan := b.draft.plans.getD p.2 [] }) := by
  have finished (u : State) : OnlyChanges [.rings] u (b.takes.foldl (fun s t => s.finishBuilt n t) u) :=
    OnlyChanges.foldl (fun s t => s.finishBuilt_only n t) b.takes u
  unfold State.commitBuild State.andThen
  dsimp only
  rw [State.layoutReplaced_ports, (State.handEvents_only _ _).ports_eq, (State.handEvents_only _ _).composer_eq,
    (finished _).ports_eq, (finished _).composer_eq]
  rfl

theorem State.commitBuild_tablesOk {b : BuildRecord} (n : Word) (hb : s.composer.build = some b) (ok : s.tablesOk) :
    (s.commitBuild b n).tablesOk := by
  obtain ⟨live, build, -, fallback⟩ := Composer.layouts_of (s.commitBuild_layouts b n)
  have frame := s.commitBuild_only b n
  refine ok.next frame.slotTotal (by rw [frame.sources_eq]) ⟨live ▸ (ok.draft b hb).1, by simp [build], fallback ▸ ok.fallback⟩
    (by rw [frame.modes_eq]; exact ok.progress) ?_
  rw [State.commitBuild_ports, List.length_map, List.length_zipIdx]

theorem State.overrunBuild_tablesOk (b : BuildRecord) (n : Word) (ok : s.tablesOk) : (s.overrunBuild b n).tablesOk := by
  refine ok.stepModes (s.overrunBuild_only b n) (s.overrunBuild_slotTotal b n)
    (ok.composer_sized.withoutBuild (s.overrunBuild_layouts b n)) ?_
  rcases s.overrunBuild_modes b n with h | ⟨-, timer, h⟩
  · rw [h]; exact ok.progress
  · rw [h]; exact ok.progress

theorem State.boundary_tablesOk (ok : s.tablesOk) : s.boundary.tablesOk := by
  refine s.boundary_keeps (P := State.tablesOk) ((s.setTiming_only _).tablesOk ok) (fun u n ok => ?_) (fun u _ ok => ?_)
    (fun u v h _ ports ok => ?_)
  · exact u.composerBoundary_cases n (fun _ => State.fallbackCommit_tablesOk n ok)
      (fun c plan _ _ hp => State.captureConfig_tablesOk n ok hp) (fun b _ hb _ => State.commitBuild_tablesOk n hb ok)
      (fun b _ _ _ => State.overrunBuild_tablesOk b n ok) (fun _ _ => ok)
  · exact ok.stepModes u.quiesceDone_only u.quiesceDone_slotTotal
      (by rw [u.quiesceDone_only.composer_eq]; exact ok.composer_sized)
      (by rw [State.quiesceDone_modes]; exact ok.progress)
  · refine ok.next h.slotTotal (by rw [h.sources_eq]) (by rw [h.composer_eq]; exact ok.composer_sized)
      (by rw [h.modes_eq]; exact ok.progress) ?_
    rw [ports]
    exact (List.length_map _).trans List.length_zipIdx

/-! Every move. -/

theorem Work.tablesOk (h : Work s t) (ok : s.tablesOk) : t.tablesOk := by
  cases h with
  | pending q => exact (s.setPending_only q).tablesOk ok
  | clock t => exact (s.setNow_only t).tablesOk ok
  | freeIdx n => exact (s.setFreeIdx_only n).tablesOk ok
  | completed bs => exact (s.complete_only bs).tablesOk ok
  | raise c => exact (s.raise_only c).tablesOk ok
  | event e => exact (s.handEvent_only e).tablesOk ok
  | serve =>
    exact ok.stepModes s.serve_only s.serve_only.slotTotal (by rw [s.serve_only.composer_eq]; exact ok.composer_sized)
      (by rw [s.serve_modes]; exact ok.progress)
  | runRequest => exact State.runRequest_tablesOk ok
  | holdRequest => exact State.holdRequest_tablesOk ok
  | fallbackRequest => exact State.fallbackRequest_tablesOk ok
  | quiesceRequest => exact State.quiesceRequest_tablesOk ok
  | configRequest => exact State.configRequest_tablesOk ok
  | posts mask h =>
    exact ok.step (s.handlePosts_only _) (s.handlePosts_slotTotal _)
      (by rw [(s.handlePosts_only _).composer_eq]; exact ok.composer_sized)
  | cancels mask =>
    exact ok.step (s.cancelSlots_only _) (s.cancelSlots_slotTotal _)
      (by rw [(s.cancelSlots_only _).composer_eq]; exact ok.composer_sized)
  | continuePosts h =>
    exact ok.step s.continuePosts_only s.continuePosts_slotTotal
      (by rw [s.continuePosts_only.composer_eq]; exact ok.composer_sized)
  | release r n => exact (s.releaseRing_only r n).tablesOk ok
  | ctlRead => exact s.ctlRead_only.tablesOk ok
  | commitDone => exact s.commitDone_only.tablesOk ok
  | readingDone => exact ok.next rfl rfl ok.composer_sized ok.progress rfl
  | checksComplete image h hc => exact State.checksComplete_tablesOk h ok
  | checkBuildTake b h hr => exact State.checkBuildTake_tablesOk h ok
  | buildComplete b h hr hc =>
    exact ok.step (s.setBuild_only _) (s.setBuild_only _).slotTotal
      (ok.composer_sized.withBuild (b := { b with status := .ready, draft := s.completeDraft b })
        ⟨s.completeDraft_sized (ok.draft b h).1, (ok.draft b h).2⟩ rfl)
  | writeSection n => exact (s.writeSection_only n).tablesOk ok
  | completeMirror m => exact (s.completeMirror_only m).tablesOk ok
  | publishSource m i => exact (s.publishSource_only m i).tablesOk ok
  | copySlotPart m p => exact (s.copySlotPart_only m p).tablesOk ok
  | writeEntry r =>
    exact ok.step (s.writeEntry_only r) (s.writeEntry_slotTotal r)
      (by rw [(s.writeEntry_only r).composer_eq]; exact ok.composer_sized)
  | flushRing r => exact (s.flushRing_only r).tablesOk ok
  | grant m => exact State.grantTo_tablesOk m ok
  | planPoint h => exact State.planPoint_tablesOk ok
  | boundary => exact State.boundary_tablesOk ok
  | timing v h => exact (s.setTiming_only v).tablesOk ok
  | setSource i r hr hs => exact State.setSource_tablesOk i r ok
  | changeSource i r g hr hs => exact State.changeSource_tablesOk i r g false ok
  | supervisionFallback h => exact State.enterFallback_tablesOk _ ok

theorem State.softReset_composer (s : State) : s.softReset.composer = s.composer.softReset :=
  (State.rewriteSections_only _).composer_eq

theorem State.softReset_takes (s : State) : s.softReset.takes = TakeEngine.reset :=
  (State.rewriteSections_only _).takes_eq

theorem State.softReset_ports (s : State) : s.softReset.ports = s.ports.map (fun _ => TilePort.black) :=
  (State.rewriteSections_only _).ports_eq

theorem Composer.reset_sized : Composer.reset.sized :=
  ⟨Layout.cleared_sized, fun b hb => (by cases hb), fun p hp => (by cases hp)⟩

theorem State.softReset_tablesOk (ok : s.tablesOk) : s.softReset.tablesOk := by
  refine ok.next ?_ (by rw [s.softReset_only.sources_eq]) ?_ (by rw [s.softReset_modes]; trivial) ?_
  · rw [State.slotTotal, s.softReset_takes]; exact ok.slots.symm
  · rw [s.softReset_composer]; exact Composer.reset_sized.congr rfl
  · rw [s.softReset_ports, List.length_map]

/-- The composer after a link reset: the build begins anew (R73). -/
theorem State.linkReset_composer (s : State) : (s.composer.build = none ∧ s.linkReset.composer = s.composer) ∨
    ∃ b, ∃ u : State, s.composer.build = some b ∧ u.composer = s.composer ∧ u.sources = s.sources ∧
      s.geometry = u.geometry ∧
      s.linkReset.composer =
        { s.composer with build := some (u.newBuild b.target (b.attempt + 1) (b.edits.map (·.1)) []) } := by
  rw [State.linkReset_eq]
  set u := (s.setPort s.port.linkReset).completePosts (2 * (s.takes.toHandle.length + 1)) with hu
  set v := (u.modModes (fun mo => { mo with permit := false, intEnable := false })).clearInterrupt with hv
  dsimp only
  have posts := State.completePosts_only (2 * (s.takes.toHandle.length + 1)) (s.setPort s.port.linkReset)
  have cleared := State.clearInterrupt_only (u.modModes (fun mo => { mo with permit := false, intEnable := false }))
  have abandoned := v.abandonTakes_only v.busySlots
  have composer : (v.abandonTakes v.busySlots).composer = s.composer := by
    rw [abandoned.composer_eq, hv, cleared.composer_eq, modModes_composer, hu, posts.composer_eq, setPort_composer]
  have sources : (v.abandonTakes v.busySlots).sources = s.sources := by
    rw [abandoned.sources_eq, hv, cleared.sources_eq, modModes_sources, hu, posts.sources_eq, setPort_sources]
  have geometry : s.geometry = (v.abandonTakes v.busySlots).geometry := by
    unfold State.geometry
    rw [abandoned.modes_eq, hv, cleared.modes_eq, modModes_modes, hu, posts.modes_eq, setPort_modes]
  rcases (v.abandonTakes v.busySlots).restartBuild_composer with ⟨hb, h⟩ | ⟨b, hb, h⟩
  · exact .inl ⟨composer ▸ hb, by rw [h, composer]⟩
  · exact .inr ⟨b, _, composer ▸ hb, composer, sources, geometry, by rw [h, composer]⟩

theorem State.linkReset_slotTotal (s : State) : s.linkReset.slotTotal = s.slotTotal := by
  rw [State.linkReset_eq]
  dsimp only
  rw [(State.restartBuild_only _).slotTotal, (State.abandonTakes_only _ _).slotTotal, (State.clearInterrupt_only _).slotTotal,
    (State.modModes_only _ _).slotTotal, State.completePosts_slotTotal, s.setPort_linkReset.slotTotal]

theorem State.linkReset_tablesOk (ok : s.tablesOk) : s.linkReset.tablesOk := by
  refine ok.stepModes s.linkReset_only s.linkReset_slotTotal ?_ (by rw [s.linkReset_modes]; exact ok.progress)
  rcases s.linkReset_composer with ⟨-, h⟩ | ⟨b, u, -, live, -, -, h⟩
  · rw [h]; exact ok.composer_sized
  · exact ok.composer_sized.withBuild ⟨u.newBuild_sized _ _ _ _ (live ▸ ok.live), fun p hp => by cases hp⟩ h

theorem State.reset_tablesOk : State.reset.tablesOk :=
  ⟨rfl, rfl, Layout.cleared_sized, fun b hb => (by cases hb), fun p hp => (by cases hp), trivial, rfl⟩

theorem Move.tablesOk (h : Move s t) (ok : s.tablesOk) : t.tablesOk := by
  cases h with
  | work w => exact w.tablesOk ok
  | queue q h => exact (s.setWaiting_only q).tablesOk ok
  | taken i h => exact (takeRamAccess_only i _).tablesOk ((s.setWaiting_only []).tablesOk ok)
  | part first rest r h => exact (State.setWaiting_only _ _).tablesOk ((servePart_only first s).tablesOk ok)
  | causes v => exact (s.setCauses_only v).tablesOk ok
  | enables v => exact (s.takeCauseenWrite_only v).tablesOk ok
  | fields p i => exact ok.stepModes (s.modectl_only false p i) (s.modectl_only false p i).slotTotal ok.composer_sized ok.progress
  | softReset h => exact State.softReset_tablesOk ok
  | powerOn => exact State.reset_tablesOk.next rfl rfl State.reset_tablesOk.composer_sized trivial rfl
  | clearDone h => exact ok.next rfl rfl ok.composer_sized ok.progress rfl
  | linkReset => exact State.linkReset_tablesOk ok
  | switches p h => exact (s.setSwitches_only p).tablesOk ok
  | linkReturn => exact ok.next rfl rfl ok.composer_sized ok.progress rfl

/-- Settles O10: every move keeps the lengths, for records are replaced in place. -/
theorem tablesKeepTheirLength : Obligations.TablesKeepTheirLength :=
  ⟨fun s t ok h => step_keeps (fun _ _ m ok => m.tablesOk ok) s t ok h,
    fun s i => ⟨fun r hr => by simp [State.slot, List.getD, hr], fun r hr => by simp [State.source, List.getD, hr]⟩,
    fun ws i => ⟨fun w hw => by simp [windowAt, List.getD, hw], fun hw => by simp [windowAt, List.getD, hw]; rfl⟩⟩

end Sys2Proof.Machine
end

section
-- Many short proofs follow one another: taken one at a time they need one thread's memory, not one's for each.
set_option Elab.async false
/-! PROOF. The journal's places (R152): what the operations that accept posts, finish takes and write entries keep of them. -/

namespace Sys2Proof.Machine

variable {s t u : State}

/-! What the places depend on. -/

/-- Of the reporting unit: the journal's capacity, fill count and reservations, and the entries that wait. -/
def Report.places (r : Report) : (Nat × Nat × Nat) × List JournalEntry :=
  ((r.journal.capacity, r.journal.fill, r.journal.reserved), r.journalQueue)

theorem Report.places_eq {r q : Report} (h : r.places = q.places) : r.journal.capacity = q.journal.capacity ∧
    r.journal.fill = q.journal.fill ∧ r.journal.reserved = q.journal.reserved ∧ r.journalQueue = q.journalQueue := by
  simpa [Report.places, and_assoc] using h

theorem Report.places_of_journalPart {r q : Report} (h : r.journalPart = q.journalPart) : r.places = q.places := by
  simp only [Report.journalPart, Prod.mk.injEq] at h
  simp only [Report.places, h.1, h.2.1]

theorem OnlyChanges.places {l : List Part} (h : OnlyChanges l s t) (hp : Part.rings ∉ l := by decide) :
    t.report.places = s.report.places := Report.places_of_journalPart (h.journalPart_eq hp)

theorem State.flushRing_queue (s : State) (i : RingId) :
    (s.flushRing i).report.journalQueue = s.report.journalQueue := by
  have begun : (if (s.report.ring i).initPending then s.doRingJob (.clear i) else s).report.journalQueue =
      s.report.journalQueue := by
    split
    · exact (s.doRingJob_rings _ i).2.2.2.1
    · rfl
  unfold State.flushRing State.andThen
  dsimp only
  split
  · rw [(Report.ringPart_parts (State.writeRingHeader_only _ i).rings_eq i).2.2.2.1]
    cases i <;> exact begun
  · rfl

theorem State.flushRing_places (s : State) (i : RingId) : (s.flushRing i).report.places = s.report.places := by
  have ring : (s.flushRing i).report.journal = if RingId.journal = i then { s.report.ring i with
    initPending := false, headerPending := false } else s.report.journal := (s.flushRing_work i .journal).2
  unfold Report.places
  rw [s.flushRing_queue, ring]
  split
  · next h => subst h; rfl
  · rfl

theorem State.doRingJob_places (s : State) (j : RingJob) : (s.doRingJob j).report.places = s.report.places := by
  obtain ⟨-, ring, -, queue, -⟩ := s.doRingJob_rings j .journal
  have ring : (s.doRingJob j).report.journal = s.report.journal := ring
  unfold Report.places
  rw [ring, queue]

theorem Report.places_setRing (r : Report) {i : RingId} (v : Ring) (h : i ≠ .journal) : (r.setRing i v).places = r.places := by
  cases i <;> first | rfl | exact absurd rfl h

theorem Report.places_setQueue (r : Report) (i : RingId) (q : List Event) : (r.setQueue i q).places = r.places := by
  cases i <;> rfl

theorem State.countEntry_places (s : State) {i : RingId} (h : i ≠ .journal) :
    (s.countEntry i).report.places = s.report.places := by
  unfold State.countEntry
  dsimp only
  rw [(State.raiseIf_only _ _ _).places, (State.writeRingHeader_only _ _).places]
  exact Report.places_setRing _ _ h

theorem State.loseEvents_places (s : State) {i : RingId} (n : Nat) (h : i ≠ .journal) :
    (s.loseEvents i n).report.places = s.report.places := by
  unfold State.loseEvents
  split
  · rfl
  · rw [(State.raise_only _ _).places]
    exact Report.places_setRing _ _ h

theorem State.writeEvent_places (s : State) {i : RingId} (h : i ≠ .journal) :
    (s.writeEvent i).report.places = s.report.places := by
  unfold State.writeEvent State.andThen
  split
  · rfl
  · dsimp only
    unfold State.loseWaiting
    split
    · rw [State.loseEvents_places _ _ h]
      refine (Report.places_setQueue _ i _).trans ?_
      rw [State.countEntry_places _ h]
      exact (Report.places_setQueue _ i _).trans ((State.doRingJob_places _ _).trans (s.flushRing_places i))
    · rw [State.countEntry_places _ h]
      exact (Report.places_setQueue _ i _).trans ((State.doRingJob_places _ _).trans (s.flushRing_places i))

theorem State.handEvent_places (s : State) (e : Event) : (s.handEvent e).report.places = s.report.places :=
  Report.places_of_journalPart (s.handEvent_journal e)

theorem State.moveMode_places (s : State) (m : Mode) (r : Trigger) : (s.moveMode m r).report.places = s.report.places :=
  Report.places_of_journalPart (s.moveMode_journal m r)

theorem State.ringGrant_places (s : State) : s.ringGrant.report.places = s.report.places := by
  unfold State.ringGrant
  split
  · rfl
  · split <;> rfl

/-! Busy slots. -/

theorem State.slot_of_le {i : Nat} (h : s.takes.slots.length ≤ i) : s.slot i = SlotRec.empty := by
  simp [State.slot, List.getD, h]

theorem State.busyCount_eq (s : State) :
    s.busyCount = (List.range s.takes.slots.length).countP (fun i => decide ((s.slot i).state ≠ .idle)) := by
  have slots : s.takes.slots = (List.range s.takes.slots.length).map s.slot := by
    refine List.ext_getElem (by simp) (fun i h _ => ?_)
    simp [State.slot, List.getD, h]
  unfold State.busyCount
  conv_lhs => rw [slots]
  rw [List.countP_map]
  rfl

theorem State.busyCount_congr (hl : t.takes.slots.length = s.takes.slots.length)
    (h : ∀ i, (t.slot i).state = (s.slot i).state) : t.busyCount = s.busyCount := by
  rw [State.busyCount_eq, State.busyCount_eq, hl]
  simp only [h]

/-- One slot is counted, or is no longer. -/
theorem State.busyCount_one (hl : t.takes.slots.length = s.takes.slots.length) {i : Nat} (hi : i < s.takes.slots.length)
    (h : ∀ j, j ≠ i → (t.slot j).state = (s.slot j).state) :
    t.busyCount + (if (s.slot i).state ≠ .idle then 1 else 0) = s.busyCount + (if (t.slot i).state ≠ .idle then 1 else 0) := by
  have split (v : State) : (List.range s.takes.slots.length).countP (fun j => decide ((v.slot j).state ≠ .idle)) =
      ((List.range s.takes.slots.length).erase i).countP (fun j => decide ((v.slot j).state ≠ .idle)) +
        (if (v.slot i).state ≠ .idle then 1 else 0) := by
    rw [(List.perm_cons_erase (List.mem_range.2 hi)).countP_eq, List.countP_cons]
    simp
  have rest : ((List.range s.takes.slots.length).erase i).countP (fun j => decide ((t.slot j).state ≠ .idle)) =
      ((List.range s.takes.slots.length).erase i).countP (fun j => decide ((s.slot j).state ≠ .idle)) := by
    refine List.countP_congr (fun j hj => ?_)
    rw [h j ((List.nodup_range.mem_erase_iff).1 hj).1]
  rw [State.busyCount_eq, State.busyCount_eq, hl, split t, split s, rest]
  omega

/-- At most 16 places are reserved: a post in hand is of an idle slot. -/
theorem State.busyCount_lt {i : Nat} (hi : i < s.takes.slots.length) (h : (s.slot i).state = .idle) :
    s.busyCount < s.takes.slots.length := by
  rw [State.busyCount_eq]
  have le := List.countP_le_length (p := fun j => decide ((s.slot j).state ≠ .idle)) (l := (List.range s.takes.slots.length))
  rw [List.length_range] at le
  refine lt_of_le_of_ne le (fun heq => ?_)
  have all := List.countP_eq_length.1 (heq.trans (List.length_range).symm)
  simpa [h] using all i (List.mem_range.2 hi)

theorem State.busyCount_eq_zero (h : ∀ i, i < s.takes.slots.length → (s.slot i).state = .idle) : s.busyCount = 0 := by
  rw [State.busyCount_eq, List.countP_eq_zero]
  intro i hi
  simp [h i (List.mem_range.1 hi)]

theorem State.setSlot_state {i : Nat} {r : SlotRec} (h : r.state = (s.slot i).state) (j : Nat) :
    ((s.setSlot i r).slot j).state = (s.slot j).state := by
  by_cases hi : i < s.takes.slots.length
  · rw [State.setSlot_slot r hi]
    split
    · next hj => rw [h, hj]
    · rfl
  · rw [State.slot, State.setSlot_takes]
    simp only [List.set_eq_of_length_le (Nat.not_lt.1 hi)]
    rfl

/-! The places. -/

/-- Every place of the journal is accounted for (R43, R152, R154), whatever a POST still names. -/
structure State.placed (s : State) : Prop where
  slots : s.takes.slots.length = Config.slotCount
  reserved : s.report.journal.reserved = s.busyCount + (if s.takes.checking.isSome then 1 else 0)
  room : s.report.journal.fill + s.report.journal.reserved ≤ s.report.journal.capacity
  once : (s.report.journalQueue.map (·.slot)).Nodup
  busy : ∀ e ∈ s.report.journalQueue, e.slot < Config.slotCount ∧
    ((s.slot e.slot).state ≠ .idle ∨ s.takes.checking = some e.slot)
  checking : ∀ i, s.takes.checking = some i → i < Config.slotCount ∧ (s.slot i).state = .idle

/-- And the slots that a POST still names wait for the one in hand (R37). -/
structure State.placesOk (s : State) : Prop extends toPlaced : s.placed where
  inHand : s.takes.checking = none → s.takes.toHandle = []
  named : ∀ i ∈ s.takes.toHandle, i < Config.slotCount

theorem State.placed.atMost (h : s.placed) : s.report.journal.reserved ≤ Config.slotCount := by
  rw [h.reserved]
  cases hc : s.takes.checking with
  | none =>
    have le := List.countP_le_length (p := fun r => decide (r.state ≠ .idle)) (l := s.takes.slots)
    rw [h.slots] at le
    exact le
  | some i =>
    obtain ⟨hi, idle⟩ := h.checking i hc
    have := State.busyCount_lt (h.slots ▸ hi) idle
    rw [h.slots] at this
    exact this

/-- The entries that wait, as far as a slot is concerned. -/
theorem State.finished_iff (s : State) (i : Nat) : s.finished i = true ↔ ∃ e ∈ s.report.journalQueue, e.slot = i := by
  simp [State.finished]

theorem State.not_finished_iff (s : State) (i : Nat) : s.finished i = false ↔ ∀ e ∈ s.report.journalQueue, e.slot ≠ i := by
  simp [State.finished]

theorem State.placed.congr (h : s.placed) (hl : t.takes.slots.length = s.takes.slots.length)
    (hs : ∀ i, (t.slot i).state = (s.slot i).state) (hc : t.takes.checking = s.takes.checking)
    (hp : t.report.places = s.report.places) : t.placed := by
  obtain ⟨capacity, fill, reserved, queue⟩ := Report.places_eq hp
  exact {
    slots := hl.trans h.slots
    reserved := by rw [reserved, State.busyCount_congr hl hs, hc]; exact h.reserved
    room := by rw [capacity, fill, reserved]; exact h.room
    once := by rw [queue]; exact h.once
    busy := by simpa only [queue, hs, hc] using h.busy
    checking := by simpa only [hs, hc] using h.checking }

theorem State.placesOk.congr (h : s.placesOk) (hl : t.takes.slots.length = s.takes.slots.length)
    (hs : ∀ i, (t.slot i).state = (s.slot i).state) (hc : t.takes.checking = s.takes.checking)
    (hh : t.takes.toHandle = s.takes.toHandle) (hp : t.report.places = s.report.places) : t.placesOk :=
  { h.toPlaced.congr hl hs hc hp with
    inHand := by rw [hc, hh]; exact h.inHand
    named := by rw [hh]; exact h.named }

/-! How takes go on. -/

/-- From `s` to `t` no take is built or unbuilt but by the end of one that had finished; and where no posts are taken, none is
posted, and no post comes in hand (R38, R43). -/
structure TakesGoOn (s t : State) : Prop where
  modes : t.modes = s.modes
  composer : t.composer = s.composer
  building : ∀ i, ((t.slot i).state = .building ∧ t.finished i = false) ↔ ((s.slot i).state = .building ∧ s.finished i = false)
  posted : s.modes.mode.takesPosts = false → ∀ i, (t.slot i).state = .posted → t.finished i = false →
    (s.slot i).state = .posted ∧ s.finished i = false
  idle : s.modes.mode.takesPosts = false → ∀ i, (s.slot i).state = .idle → (t.slot i).state = .idle
  handed : s.modes.mode.takesPosts = false → s.takes.checking = none → t.takes.checking = none ∧
    (s.report.journalQueue = [] → (∀ i, (s.slot i).state = .idle) → t.report.journalQueue = [])

theorem TakesGoOn.trans (h : TakesGoOn s t) (k : TakesGoOn t u) : TakesGoOn s u where
  modes := k.modes.trans h.modes
  composer := k.composer.trans h.composer
  building i := (k.building i).trans (h.building i)
  posted hm i hp hf :=
    let ⟨hp, hf⟩ := k.posted (by rw [h.modes]; exact hm) i hp hf
    h.posted hm i hp hf
  idle hm i hi := k.idle (by rw [h.modes]; exact hm) i (h.idle hm i hi)
  handed hm hc := by
    obtain ⟨c1, q1⟩ := h.handed hm hc
    obtain ⟨c2, q2⟩ := k.handed (by rw [h.modes]; exact hm) c1
    exact ⟨c2, fun hq hi => q2 (q1 hq hi) (fun i => h.idle hm i (hi i))⟩

/-- The slots and the entries that wait as they were. -/
theorem TakesGoOn.of_same (hm : t.modes = s.modes) (hc : t.composer = s.composer)
    (hs : ∀ i, (t.slot i).state = (s.slot i).state) (hq : t.report.journalQueue = s.report.journalQueue)
    (hh : s.modes.mode.takesPosts = false → s.takes.checking = none → t.takes.checking = none) : TakesGoOn s t := by
  have finished := State.finished_congr hq
  exact {
    modes := hm
    composer := hc
    building := fun i => by rw [hs, finished]
    posted := fun _ i hp hf => ⟨hs i ▸ hp, finished i ▸ hf⟩
    idle := fun _ i hi => (hs i).trans hi
    handed := fun hm hc => ⟨hh hm hc, fun h _ => hq.trans h⟩ }

/-- An operation that keeps the places, and with which takes go on. -/
def GoesOn (s t : State) : Prop := s.placesOk → t.placesOk ∧ TakesGoOn s t

theorem GoesOn.trans (h : GoesOn s t) (k : GoesOn t u) : GoesOn s u := fun ok =>
  let ⟨ok1, g1⟩ := h ok
  let ⟨ok2, g2⟩ := k ok1
  ⟨ok2, g1.trans g2⟩

theorem GoesOn.foldl {α : Type} {f : State → α → State} (hf : ∀ s a, GoesOn s (f s a)) (l : List α) (s : State) :
    GoesOn s (l.foldl f s) := by
  induction l generalizing s with
  | nil => exact fun ok => ⟨ok, .of_same rfl rfl (fun _ => rfl) rfl (fun _ => id)⟩
  | cons a l ih => exact (hf s a).trans (ih _)

theorem GoesOn.of_same (hm : t.modes = s.modes) (hc : t.composer = s.composer) (ht : t.takes = s.takes)
    (hp : t.report.places = s.report.places) : GoesOn s t := fun ok =>
  have slot (i : Nat) : (t.slot i).state = (s.slot i).state := by rw [State.slot_congr ht]
  ⟨ok.congr (by rw [ht]) slot (by rw [ht]) (by rw [ht]) hp,
    .of_same hm hc slot (Report.places_eq hp).2.2.2 (fun _ h => by rw [ht]; exact h)⟩

theorem OnlyChanges.goesOn {l : List Part} (h : OnlyChanges l s t) (hp : t.report.places = s.report.places)
    (hm : Part.modes ∉ l := by decide) (hc : Part.composer ∉ l := by decide) (ht : Part.takes ∉ l := by decide) :
    GoesOn s t := .of_same (h.modes_eq hm) (h.composer_eq hc) (h.takes_eq ht) hp

/-- A slot record replaced by one in the same state. -/
theorem State.setSlot_goesOn {i : Nat} {r : SlotRec} (h : r.state = (s.slot i).state) : GoesOn s (s.setSlot i r) := fun ok =>
  let frame := s.setSlot_only i r
  ⟨ok.congr (s.setSlot_slots_length i r) (State.setSlot_state h) (s.setSlot_checking i r) (s.setSlot_toHandle i r) frame.places,
    .of_same frame.modes_eq frame.composer_eq (State.setSlot_state h) (by rw [State.setSlot_report])
      (fun _ hc => (s.setSlot_checking i r).trans hc)⟩

theorem State.raise_goesOn (c : Cause) : GoesOn s (s.raise c) := (s.raise_only c).goesOn (s.raise_only c).places

theorem State.recordRefusal_state (s : State) (i : Nat) (r : RefusalReason) (j : Nat) :
    ((s.recordRefusal i r).slot j).state = (s.slot j).state := by
  unfold State.recordRefusal
  exact State.setSlot_state (by rfl) j

theorem State.refuse_state (s : State) (i : Nat) (r : RefusalReason) (j : Nat) :
    ((s.refuse i r).slot j).state = (s.slot j).state := by
  unfold State.refuse
  rw [(State.raise_only _ _).slot_eq, State.recordRefusal_state]

theorem State.recordRefusal_goesOn (i : Nat) (r : RefusalReason) : GoesOn s (s.recordRefusal i r) := by
  exact State.setSlot_goesOn (by rfl)

theorem State.refuse_goesOn (i : Nat) (r : RefusalReason) : GoesOn s (s.refuse i r) :=
  (State.recordRefusal_goesOn i r).trans (State.raise_goesOn _)

theorem State.refuse_checking (s : State) (i : Nat) (r : RefusalReason) :
    (s.refuse i r).takes.checking = s.takes.checking := by
  unfold State.refuse State.recordRefusal
  rw [(State.raise_only _ _).takes_eq, State.setSlot_checking]

theorem State.refuse_length (s : State) (i : Nat) (r : RefusalReason) :
    (s.refuse i r).takes.slots.length = s.takes.slots.length := by
  unfold State.refuse State.recordRefusal
  rw [(State.raise_only _ _).takes_eq, State.setSlot_slots_length]

/-! Posts (R37 to R39). -/

theorem Mode.takesPosts_iff (m : Mode) : m.takesPosts = true ↔ m = .run ∨ m = .hold := by
  cases m <;> simp [Mode.takesPosts]

theorem Mode.keepsPosts_eq (m : Mode) : m.keepsPosts = m.takesPosts := by cases m <;> rfl

/-- A post that is not refused comes in a mode that takes posts, to an idle slot, with a place left (R38). -/
theorem State.postRefusal_eq_none {i : Nat} (h : s.postRefusal i = none) : s.modes.mode.takesPosts = true ∧
    (s.slot i).state = .idle ∧ s.report.journal.fill + s.report.journal.reserved < s.report.journal.capacity := by
  unfold State.postRefusal at h
  split_ifs at h with hm hi hf
  exact ⟨by simpa using hm, by simpa using hi, by simpa [Report.journalFull] using hf⟩

theorem State.handlePosts_queue (s : State) (l : List Nat) :
    (s.handlePosts l).report.journalQueue = s.report.journalQueue := by
  induction l generalizing s with
  | nil => rfl
  | cons i l ih =>
    unfold State.handlePosts
    split
    · rw [ih, (Report.places_eq (s.refuse_only i _).places).2.2.2]
    · change (s.acceptPost i).report.journalQueue = _
      change (s.recordRefusal i .none).report.journalQueue = _
      unfold State.recordRefusal
      rw [State.setSlot_report]

theorem State.acceptPost_state (s : State) (i j : Nat) : ((s.acceptPost i).slot j).state = (s.slot j).state :=
  s.recordRefusal_state i .none j

theorem State.handlePosts_state (s : State) (l : List Nat) (j : Nat) :
    ((s.handlePosts l).slot j).state = (s.slot j).state := by
  induction l generalizing s with
  | nil => rfl
  | cons i l ih =>
    unfold State.handlePosts
    split
    · rw [ih, State.refuse_state]
    · exact s.acceptPost_state i j

/-- A post accepted: its place is reserved, and the rest of what the POST names waits (R37, R39). -/
theorem State.acceptPost_placesOk {i : Nat} {l : List Nat} (h : s.placed) (hc : s.takes.checking = none)
    (hi : i < Config.slotCount) (hl : ∀ j ∈ l, j < Config.slotCount) (hr : s.postRefusal i = none) :
    ((s.acceptPost i).modTakes (fun te => { te with toHandle := l })).placesOk := by
  obtain ⟨-, idle, full⟩ := State.postRefusal_eq_none hr
  have report : (s.acceptPost i).report = { s.report with journal := { s.report.journal with
      reserved := s.report.journal.reserved + 1, headerPending := true } } := by
    change { (s.recordRefusal i .none).report with journal := { (s.recordRefusal i .none).report.journal with
      reserved := (s.recordRefusal i .none).report.journal.reserved + 1, headerPending := true } } = _
    unfold State.recordRefusal
    rw [State.setSlot_report]
  have state (j : Nat) : (((s.acceptPost i).modTakes (fun te => { te with toHandle := l })).slot j).state = (s.slot j).state :=
    s.acceptPost_state i j
  have length : ((s.acceptPost i).modTakes (fun te => { te with toHandle := l })).takes.slots.length = s.takes.slots.length :=
    s.acceptPost_slotTotal i
  have reserved := h.reserved
  rw [hc] at reserved
  refine { slots := length.trans h.slots, reserved := ?_, room := ?_, once := ?_, busy := ?_, checking := ?_,
           inHand := ?_, named := hl }
  · rw [modTakes_report, report, State.busyCount_congr length state]
    change s.report.journal.reserved + 1 = s.busyCount + 1
    rw [reserved]
    rfl
  · rw [modTakes_report, report]
    change s.report.journal.fill + (s.report.journal.reserved + 1) ≤ s.report.journal.capacity
    omega
  · rw [modTakes_report, report]
    exact h.once
  · intro e he
    rw [modTakes_report, report] at he
    obtain ⟨hlt, hb⟩ := h.busy e he
    rw [hc] at hb
    exact ⟨hlt, .inl ((state e.slot).symm ▸ hb.resolve_right (by simp))⟩
  · intro j hj
    cases hj
    exact ⟨hi, (state i).trans idle⟩
  · intro hn
    cases hn

/-- What a POST names is handled as far as the first slot accepted (R37). -/
theorem State.handlePosts_goOn {l : List Nat} (h : s.placed) (hc : s.takes.checking = none)
    (hl : ∀ i ∈ l, i < Config.slotCount) : (s.handlePosts l).placesOk ∧ TakesGoOn s (s.handlePosts l) := by
  induction l generalizing s with
  | nil =>
    exact ⟨{ h.congr (t := s.modTakes (fun te => { te with toHandle := [] })) rfl (fun _ => rfl) rfl rfl with
      inHand := fun _ => rfl, named := fun i hi => absurd hi (by exact List.not_mem_nil) },
      .of_same rfl rfl (fun _ => rfl) rfl (fun _ => id)⟩
  | cons i l ih =>
    have hi := hl i List.mem_cons_self
    have hl := fun j hj => hl j (List.mem_cons_of_mem i hj)
    unfold State.handlePosts
    split
    · next r _ =>
      have frame := s.refuse_only i r
      have checking : (s.refuse i r).takes.checking = none := (s.refuse_checking i r).trans hc
      have refused : TakesGoOn s (s.refuse i r) := .of_same frame.modes_eq frame.composer_eq (s.refuse_state i r)
        (Report.places_eq frame.places).2.2.2 (fun _ _ => checking)
      obtain ⟨ok, g⟩ := ih (h.congr (s.refuse_length i r) (s.refuse_state i r) (s.refuse_checking i r) frame.places)
        checking hl
      exact ⟨ok, refused.trans g⟩
    · next hr =>
      have queue : ((s.acceptPost i).modTakes (fun te => { te with toHandle := l })).report.journalQueue =
          s.report.journalQueue := by
        change (s.recordRefusal i .none).report.journalQueue = _
        unfold State.recordRefusal
        rw [State.setSlot_report]
      have frame := s.acceptPost_only i
      refine ⟨State.acceptPost_placesOk h hc hi hl hr, .of_same ?_ ?_ (s.acceptPost_state i) queue (fun hm => ?_)⟩
      · exact frame.modes_eq
      · exact frame.composer_eq
      · rw [(State.postRefusal_eq_none hr).1] at hm
        cases hm

theorem mem_maskSlots {mask : BitVec 16} {i : Nat} (h : i ∈ maskSlots mask) : i < Config.slotCount :=
  List.mem_range.1 (List.mem_filter.1 h).1

/-! Entries handed on (R43, R153). -/

/-- An entry handed on for a busy slot or the post in hand that has none yet. -/
theorem State.placesOk.handEntry (ok : s.placesOk) {e : JournalEntry} (hi : e.slot < Config.slotCount)
    (hb : (s.slot e.slot).state ≠ .idle ∨ s.takes.checking = some e.slot) (hf : s.finished e.slot = false) :
    (s.handEntry e).placesOk := by
  refine { slots := ok.slots, reserved := ok.reserved, room := ok.room, once := ?_, busy := ?_, checking := ok.checking,
           inHand := ok.inHand, named := ok.named }
  · change ((s.report.journalQueue ++ [e]).map (·.slot)).Nodup
    rw [List.map_append, List.map_singleton, List.nodup_append]
    refine ⟨ok.once, List.nodup_singleton _, fun a ha b hb => ?_⟩
    obtain ⟨e', he', rfl⟩ := List.mem_map.1 ha
    rw [List.mem_singleton.1 hb]
    exact (s.not_finished_iff e.slot).1 hf e' he'
  · intro e' he'
    rcases List.mem_append.1 he' with he' | he'
    · exact ok.busy e' he'
    · rw [List.mem_singleton.1 he']
      exact ⟨hi, hb⟩

theorem State.finished_handEntry (s : State) (e : JournalEntry) (i : Nat) :
    (s.handEntry e).finished i = (s.finished i || e.slot == i) := by
  rw [State.handEntry_eq, State.finished_handAll]
  simp

/-- The end of a take that is not being built, or of the post in hand. -/
theorem State.handEntry_goesOn {e : JournalEntry} (hi : e.slot < Config.slotCount)
    (hb : (s.slot e.slot).state = .posted ∨ s.takes.checking = some e.slot) (hf : s.finished e.slot = false) :
    GoesOn s (s.handEntry e) := fun ok => by
  refine ⟨ok.handEntry hi (hb.imp (fun h => by simp [h]) id) hf, rfl, rfl, fun i => ?_, fun _ i hp hn => ?_,
    fun _ i h => h, fun _ hc => ⟨hc, fun _ idle => ?_⟩⟩
  · rw [State.finished_handEntry]
    change (s.slot i).state = .building ∧ _ ↔ _
    by_cases h : e.slot = i
    · subst h
      have : (s.slot e.slot).state ≠ .building := by
        rcases hb with hb | hb
        · simp [hb]
        · simp [(ok.checking _ hb).2]
      simp [this]
    · simp [h]
  · rw [State.finished_handEntry, Bool.or_eq_false_iff] at hn
    exact ⟨hp, hn.1⟩
  · rcases hb with hb | hb
    · rw [idle] at hb; cases hb
    · rw [hc] at hb; cases hb

/-! The checks of the post in hand (R39, R43). -/

theorem State.recordPost_slots (s : State) (i : Nat) (h : TakeHeader) (hi : i < s.takes.slots.length) (j : Nat) :
    (s.recordPost i h).slot j = if j = i then { s.slot i with
      state := if s.modes.mode.keepsPosts then .posted else (s.slot i).state
      seq := s.takes.nextSeq, due := s.recordedDue h, header := h } else s.slot j := by
  unfold State.recordPost State.andThen
  dsimp only
  rw [(State.markSlotHeader_only _).slot_eq]
  exact State.setSlot_slot _ hi j

theorem State.recordPost_engine (s : State) (i : Nat) (h : TakeHeader) :
    (s.recordPost i h).takes.checking = s.takes.checking ∧ (s.recordPost i h).takes.toHandle = s.takes.toHandle := by
  unfold State.recordPost State.andThen
  dsimp only
  rw [(State.markSlotHeader_only _).takes_eq]
  exact ⟨s.setSlot_checking i _, s.setSlot_toHandle i _⟩

/-- A take that passes its checks where posts are kept: its slot is POSTED, and the post is handled (R39, R43). -/
theorem State.recordPost_kept {i : Nat} (ok : s.placesOk) (hc : s.takes.checking = some i) (hf : s.finished i = false)
    (hm : s.modes.mode.keepsPosts = true) (h : TakeHeader) :
    ((s.recordPost i h).modTakes (fun te => { te with checking := none })).placed ∧
      TakesGoOn s ((s.recordPost i h).modTakes (fun te => { te with checking := none })) := by
  obtain ⟨hi, idle⟩ := ok.checking i hc
  have slot := s.recordPost_slots i h (ok.slots ▸ hi)
  have frame := s.recordPost_only i h
  have state (j : Nat) (hj : j ≠ i) : (((s.recordPost i h).modTakes (fun te => { te with checking := none })).slot j).state =
      (s.slot j).state := by
    change ((s.recordPost i h).slot j).state = _
    rw [slot, if_neg hj]
  have posted : (((s.recordPost i h).modTakes (fun te => { te with checking := none })).slot i).state = .posted := by
    change ((s.recordPost i h).slot i).state = _
    rw [slot, if_pos rfl, hm]
    rfl
  have length : ((s.recordPost i h).modTakes (fun te => { te with checking := none })).takes.slots.length =
      s.takes.slots.length := s.recordPost_slotTotal i h
  have count := State.busyCount_one length (ok.slots ▸ hi) state
  rw [posted, idle] at count
  simp only [ne_eq, not_true_eq_false, if_false, reduceCtorEq, not_false_eq_true, if_true] at count
  obtain ⟨capacity, fill, reserved, queue⟩ := Report.places_eq (r := ((s.recordPost i h).modTakes
    (fun te => { te with checking := none })).report) (q := s.report) frame.places
  have reservedWas := ok.reserved
  rw [hc] at reservedWas
  refine ⟨{ slots := length.trans ok.slots, reserved := ?_, room := ?_, once := ?_, busy := ?_, checking := ?_ }, ?_⟩
  · rw [reserved, reservedWas]
    change s.busyCount + 1 = State.busyCount _ + 0
    omega
  · rw [capacity, fill, reserved]; exact ok.room
  · rw [queue]; exact ok.once
  · intro e he
    rw [queue] at he
    have ne : e.slot ≠ i := (s.not_finished_iff i).1 hf e he
    obtain ⟨hlt, hb⟩ := ok.busy e he
    rw [hc] at hb
    exact ⟨hlt, .inl ((state e.slot ne).symm ▸ hb.resolve_right (fun h => ne (Option.some.inj h).symm))⟩
  · intro j hj
    cases hj
  · rw [Mode.keepsPosts_eq] at hm
    have none {p : Prop} (hn : s.modes.mode.takesPosts = false) : p := by rw [hm] at hn; cases hn
    refine ⟨frame.modes_eq, frame.composer_eq, fun j => ?_, fun hn => none hn, fun hn => none hn, fun hn => none hn⟩
    rw [State.finished_congr queue]
    by_cases hj : j = i
    · subst hj
      rw [posted, idle]
      simp
    · rw [state j hj]

/-- The header that the post checks of slot `i` read: at the grant to the take reader, an access that waits first (R39, R184). -/
def State.headerRead (s : State) (i : Nat) : TakeHeader := Memory.takeHeader s.ctlRead.ram (s.ctlRead.slotStart i)

theorem State.finishChecks_rejected {i : Nat} {r : Reason} (h : s.ctlRead.postCheck i (s.headerRead i) = some r) :
    s.finishChecks i = s.ctlRead.rejectPost i (s.headerRead i) r := by
  unfold State.finishChecks State.andThen
  unfold State.headerRead at *
  dsimp only
  rw [h]

theorem State.finishChecks_kept {i : Nat} (h : s.ctlRead.postCheck i (s.headerRead i) = none)
    (hk : s.modes.mode.keepsPosts = true) : s.finishChecks i = s.ctlRead.recordPost i (s.headerRead i) := by
  unfold State.finishChecks State.andThen
  unfold State.headerRead at *
  dsimp only
  rw [h]
  dsimp only
  rw [if_pos (by rw [(State.recordPost_only _ _ _).modes_eq, s.ctlRead_only.modes_eq]; exact hk)]

theorem State.finishChecks_ended {i : Nat} (h : s.ctlRead.postCheck i (s.headerRead i) = none)
    (hk : s.modes.mode.keepsPosts = false) : s.finishChecks i = (s.ctlRead.recordPost i (s.headerRead i)).finishTake i
      (plainOutcome (if s.modes.mode = .fallback then .abandoned else .cancelled)) false none := by
  have modes (h : TakeHeader) : (s.ctlRead.recordPost i h).modes = s.modes := by
    rw [(State.recordPost_only _ _ _).modes_eq, s.ctlRead_only.modes_eq]
  unfold State.finishChecks State.andThen
  unfold State.headerRead at *
  dsimp only
  rw [h]
  dsimp only
  rw [modes, if_neg (by rw [hk]; decide)]

theorem State.rejectPost_goesOn {i : Nat} (hi : i < Config.slotCount) (hc : s.takes.checking = some i)
    (hf : s.finished i = false) (h : TakeHeader) (r : Reason) : GoesOn s (s.rejectPost i h r) := by
  unfold State.rejectPost
  exact State.handEntry_goesOn hi (.inr hc) hf

/-- Where no posts are kept, the slot of a take that passes its checks stays as it was (R43). -/
theorem State.recordPost_goesOn {i : Nat} (hi : i < Config.slotCount) (hk : s.modes.mode.keepsPosts = false) (h : TakeHeader) :
    GoesOn s (s.recordPost i h) := fun ok => by
  have frame := s.recordPost_only i h
  obtain ⟨checking, toHandle⟩ := s.recordPost_engine i h
  have state (j : Nat) : ((s.recordPost i h).slot j).state = (s.slot j).state := by
    rw [s.recordPost_slots i h (by rw [ok.slots]; exact hi)]
    split
    · next hj => simp only [hk, hj, Bool.false_eq_true, if_false]
    · rfl
  exact ⟨ok.congr (s.recordPost_slotTotal i h) state checking toHandle frame.places,
    .of_same frame.modes_eq frame.composer_eq state (Report.places_eq frame.places).2.2.2 (fun _ hn => checking.trans hn)⟩

theorem State.finishTake_goesOn {i : Nat} (hi : i < Config.slotCount)
    (hb : (s.slot i).state = .posted ∨ s.takes.checking = some i) (hf : s.finished i = false)
    (o : TakeOutcome × Reason × Option Nat × Option Nat) (c : Bool) (f : Option Word) : GoesOn s (s.finishTake i o c f) := by
  unfold State.finishTake
  exact State.handEntry_goesOn hi hb hf

theorem State.rejectPost_finished (s : State) (i : Nat) (h : TakeHeader) (r : Reason) :
    (s.rejectPost i h r).finished i = true := by
  unfold State.rejectPost
  rw [State.finished_handEntry]
  simp

theorem State.finishTake_finished (s : State) (i : Nat) (o : TakeOutcome × Reason × Option Nat × Option Nat) (c : Bool)
    (f : Option Word) : (s.finishTake i o c f).finished i = true := by
  unfold State.finishTake
  rw [State.finished_handEntry]
  simp [State.entryOf]

theorem State.continuePosts_eq {i : Nat} (h : s.takes.checking = some i) : s.continuePosts =
    if (s.finishChecks i).finished i then s.finishChecks i
    else ((s.finishChecks i).modTakes (fun te => { te with checking := none })).handlePosts s.takes.toHandle := by
  unfold State.continuePosts
  rw [h]
  rfl

theorem State.continuePosts_goesOn (hand : s.checksInHand = true) : GoesOn s s.continuePosts := fun ok => by
  unfold State.checksInHand at hand
  cases hc : s.takes.checking with
  | none => simp [hc] at hand
  | some i =>
    have hf : s.finished i = false := by simpa [hc] using hand
    obtain ⟨hi, idle⟩ := ok.checking i hc
    have frame := s.ctlRead_only
    have read : GoesOn s s.ctlRead := frame.goesOn frame.places
    obtain ⟨ok1, g1⟩ := read ok
    have hf1 : s.ctlRead.finished i = false := by rw [State.finished_congr (Report.places_eq frame.places).2.2.2]; exact hf
    have hc1 : s.ctlRead.takes.checking = some i := by rw [frame.takes_eq]; exact hc
    rw [State.continuePosts_eq hc]
    cases hp : s.ctlRead.postCheck i (s.headerRead i) with
    | some r => -- the take is rejected: its entry waits, and the post stays in hand
      obtain ⟨ok2, g2⟩ := State.rejectPost_goesOn hi hc1 hf1 (s.headerRead i) r ok1
      rw [State.finishChecks_rejected hp, if_pos (State.rejectPost_finished _ _ _ _)]
      exact ⟨ok2, g1.trans g2⟩
    | none =>
      have frame1 := s.ctlRead.recordPost_only i (s.headerRead i)
      have hf2 : (s.ctlRead.recordPost i (s.headerRead i)).finished i = false := by
        rw [State.finished_congr (Report.places_eq frame1.places).2.2.2]; exact hf1
      cases hk : s.modes.mode.keepsPosts with
      | true => -- the take is POSTED, and what the POST still names is handled
        have hk1 : s.ctlRead.modes.mode.keepsPosts = true := by rw [frame.modes_eq]; exact hk
        obtain ⟨placed, g2⟩ := State.recordPost_kept ok1 hc1 hf1 hk1 (s.headerRead i)
        obtain ⟨ok3, g3⟩ := State.handlePosts_goOn placed rfl ok.named
        rw [State.finishChecks_kept hp hk, if_neg (by rw [hf2]; decide)]
        exact ⟨ok3, (g1.trans g2).trans g3⟩
      | false => -- the take finishes at once, and the post stays in hand
        have hk1 : s.ctlRead.modes.mode.keepsPosts = false := by rw [frame.modes_eq]; exact hk
        obtain ⟨ok2, g2⟩ := State.recordPost_goesOn hi hk1 (s.headerRead i) ok1
        obtain ⟨ok3, g3⟩ := State.finishTake_goesOn hi
          (.inr ((s.ctlRead.recordPost_engine i (s.headerRead i)).1.trans hc1)) hf2
          (plainOutcome (if s.modes.mode = .fallback then .abandoned else .cancelled)) false none ok2
        rw [State.finishChecks_ended hp hk, if_pos (State.finishTake_finished _ _ _ _ _)]
        exact ⟨ok3, (g1.trans g2).trans g3⟩

end Sys2Proof.Machine
end

section
-- Many short proofs follow one another: taken one at a time they need one thread's memory, not one's for each.
set_option Elab.async false
/-! PROOF. The journal's places (R152), continued: entries written, takes cancelled, posts completed. -/

namespace Sys2Proof.Machine

variable {s t u : State}

/-! One journal entry written (R149, R152, R154). -/

/-- The journal once its first entry is counted. -/
theorem State.countedJournal (s : State) (q : List JournalEntry) :
    ((s.modReport (fun re => { re with journalQueue := q })).countEntry .journal).report.places =
      ((s.report.journal.capacity, s.report.journal.fill + 1, s.report.journal.reserved - 1), q) := by
  unfold State.countEntry
  dsimp only
  rw [(State.raiseIf_only _ _ _).places, (State.writeRingHeader_only _ _).places]
  rfl

/-- The part once the first journal entry is counted, and before the take it is of ends (R149). -/
def State.entryCounted (s : State) (q : List JournalEntry) : State :=
  (((s.flushRing .journal).doRingJob (.entry .journal)).modReport (fun re => { re with journalQueue := q })).countEntry .journal

theorem State.writeJournalEntry_nil (h : s.report.journalQueue = []) : s.writeJournalEntry = s := by
  unfold State.writeJournalEntry
  rw [h]

theorem State.writeJournalEntry_cons {e : JournalEntry} {q : List JournalEntry} (h : s.report.journalQueue = e :: q) :
    s.writeJournalEntry = (s.entryCounted q).endTake e.slot := by
  unfold State.writeJournalEntry
  rw [h]
  rfl

theorem State.entryCounted_only (s : State) (q : List JournalEntry) : OnlyChanges [.ram, .lastServed, .waiting, .blocks,
    .completion, .interrupt, .rings, .causes] s (s.entryCounted q) := by
  unfold State.entryCounted
  exact (((s.flushRing_only .journal).trans (State.doRingJob_only _ _)).next (State.modReport_rings _ _ rfl) (by decide)).next
    (State.countEntry_only _ _) (by decide)

theorem State.entryCounted_places (s : State) (q : List JournalEntry) : (s.entryCounted q).report.places =
    ((s.report.journal.capacity, s.report.journal.fill + 1, s.report.journal.reserved - 1), q) := by
  obtain ⟨capacity, fill, reserved, -⟩ := Report.places_eq
    ((State.doRingJob_places (s.flushRing .journal) (.entry .journal)).trans (s.flushRing_places .journal))
  unfold State.entryCounted
  rw [State.countedJournal, capacity, fill, reserved]

/-- Of the entries that wait, only the first is of its slot. -/
theorem State.placed.first_once (h : s.placed) {e : JournalEntry} {q : List JournalEntry}
    (hq : s.report.journalQueue = e :: q) : (q.map (·.slot)).Nodup ∧ ∀ e' ∈ q, e'.slot ≠ e.slot := by
  have once := h.once
  rw [hq, List.map_cons, List.nodup_cons] at once
  exact ⟨once.2, fun e' he' heq => once.1 (heq ▸ List.mem_map_of_mem he')⟩

theorem State.endTake_of_checking {i : Nat} (h : s.takes.checking = some i) : s.endTake i =
    (s.modTakes (fun te => { te with checking := none })).handlePosts s.takes.toHandle := by
  unfold State.endTake
  rw [if_pos h]

theorem State.endTake_of_ne {i : Nat} (h : s.takes.checking ≠ some i) :
    s.endTake i = s.setSlot i { s.slot i with state := .idle, cancelRequested := false } := by
  unfold State.endTake
  rw [if_neg h]

theorem State.writeJournalEntry_goesOn (s : State) : GoesOn s s.writeJournalEntry := fun ok => by
  cases hq : s.report.journalQueue with
  | nil =>
    rw [State.writeJournalEntry_nil hq]
    exact ⟨ok, .of_same rfl rfl (fun _ => rfl) rfl (fun _ => id)⟩
  | cons e q =>
    rw [State.writeJournalEntry_cons hq]
    obtain ⟨once, ne⟩ := ok.first_once hq
    obtain ⟨hi, busy⟩ := ok.busy e (by rw [hq]; exact List.mem_cons_self)
    have frame := s.entryCounted_only q
    have takes : (s.entryCounted q).takes = s.takes := frame.takes_eq
    have slot (j : Nat) : (s.entryCounted q).slot j = s.slot j := State.slot_congr takes j
    have places := s.entryCounted_places q
    generalize s.entryCounted q = v at *
    obtain ⟨⟨capacity, fill, reserved⟩, queue⟩ : (v.report.journal.capacity = s.report.journal.capacity ∧
        v.report.journal.fill = s.report.journal.fill + 1 ∧ v.report.journal.reserved = s.report.journal.reserved - 1) ∧
        v.report.journalQueue = q := by
      simpa [Report.places] using places
    have room := ok.room
    have waits (e' : JournalEntry) (he' : e' ∈ q) := ok.busy e' (by rw [hq]; exact List.mem_cons_of_mem e he')
    have finished (j : Nat) (hj : j ≠ e.slot) : v.finished j = s.finished j := by
      have hj : ¬ e.slot = j := fun h => hj h.symm
      simp [State.finished, queue, hq, hj]
    have was : s.finished e.slot = true := (s.finished_iff _).2 ⟨e, by rw [hq]; exact List.mem_cons_self, rfl⟩
    by_cases hc : s.takes.checking = some e.slot
    · -- the post in hand is handled: the take engine goes on with the slots the POST still names
      obtain ⟨-, idle⟩ := ok.checking _ hc
      have reservedWas := ok.reserved
      rw [hc] at reservedWas
      have reservedWas : s.report.journal.reserved = s.busyCount + 1 := reservedWas
      have same (j : Nat) : ((v.modTakes (fun te => { te with checking := none })).slot j).state = (s.slot j).state :=
        congrArg SlotRec.state (slot j)
      have length : (v.modTakes (fun te => { te with checking := none })).takes.slots.length = s.takes.slots.length := by
        rw [modTakes_takes, takes]
      have placed : (v.modTakes (fun te => { te with checking := none })).placed := by
        refine { slots := length.trans ok.slots, reserved := ?_, room := ?_, once := ?_, busy := ?_, checking := ?_ }
        · rw [modTakes_report, reserved, State.busyCount_congr length same, reservedWas]
          rfl
        · rw [modTakes_report, capacity, fill, reserved]; omega
        · rw [modTakes_report, queue]; exact once
        · intro e' he'
          rw [modTakes_report, queue] at he'
          obtain ⟨hlt, hb⟩ := waits e' he'
          rw [hc] at hb
          exact ⟨hlt, .inl ((same e'.slot).symm ▸ hb.resolve_right (fun h => ne e' he' (Option.some.inj h).symm))⟩
        · intro j hj
          cases hj
      have g : TakesGoOn s (v.modTakes (fun te => { te with checking := none })) := by
        refine ⟨frame.modes_eq, frame.composer_eq, fun j => ?_, fun _ j hp hn => ?_, fun _ j hi => (same j).trans hi,
          fun _ hn => ?_⟩
        · rw [same]
          by_cases hj : j = e.slot
          · rw [hj, idle]; simp
          · exact and_congr Iff.rfl (by rw [← finished j hj]; rfl)
        · rw [same] at hp
          by_cases hj : j = e.slot
          · rw [hj, idle] at hp; cases hp
          · exact ⟨hp, (finished j hj) ▸ hn⟩
        · rw [hc] at hn; cases hn
      rw [State.endTake_of_checking (by rw [takes]; exact hc)]
      obtain ⟨ok1, g1⟩ := State.handlePosts_goOn placed rfl (l := v.takes.toHandle) (by rw [takes]; exact ok.named)
      exact ⟨ok1, g.trans g1⟩
    · -- the slot becomes IDLE
      have notIdle : (s.slot e.slot).state ≠ .idle := busy.resolve_right hc
      rw [State.endTake_of_ne (by rw [takes]; exact hc)]
      have hi' : e.slot < v.takes.slots.length := by rw [takes, ok.slots]; exact hi
      have after := State.setSlot_slot (s := v) { v.slot e.slot with state := .idle, cancelRequested := false } hi'
      have frame1 := v.setSlot_only e.slot { v.slot e.slot with state := .idle, cancelRequested := false }
      have checking := v.setSlot_checking e.slot { v.slot e.slot with state := .idle, cancelRequested := false }
      have toHandle := v.setSlot_toHandle e.slot { v.slot e.slot with state := .idle, cancelRequested := false }
      have report := v.setSlot_report e.slot { v.slot e.slot with state := .idle, cancelRequested := false }
      have length := v.setSlot_slots_length e.slot { v.slot e.slot with state := .idle, cancelRequested := false }
      generalize v.setSlot e.slot { v.slot e.slot with state := .idle, cancelRequested := false } = w at *
      have state (j : Nat) (hj : j ≠ e.slot) : (w.slot j).state = (s.slot j).state := by rw [after, if_neg hj, slot]
      have idle : (w.slot e.slot).state = .idle := by rw [after, if_pos rfl]
      have length : w.takes.slots.length = s.takes.slots.length := by rw [length, takes]
      have checking : w.takes.checking = s.takes.checking := by rw [checking, takes]
      have count := State.busyCount_one length (by rw [ok.slots]; exact hi) state
      rw [if_pos notIdle, if_neg (by simp [idle])] at count
      have reservedWas := ok.reserved
      have finishedW (j : Nat) : w.finished j = v.finished j := State.finished_congr (by rw [report]) j
      refine ⟨{ slots := length.trans ok.slots, reserved := ?_, room := ?_, once := ?_, busy := ?_, checking := ?_,
                inHand := ?_, named := ?_ }, ?_⟩
      · rw [report, reserved, checking, reservedWas]; omega
      · rw [report, capacity, fill, reserved]; omega
      · rw [report, queue]; exact once
      · intro e' he'
        rw [report, queue] at he'
        rw [state _ (ne e' he'), checking]
        exact waits e' he'
      · intro j hj
        rw [checking] at hj
        obtain ⟨hlt, hidle⟩ := ok.checking j hj
        exact ⟨hlt, (state j (fun h => notIdle (h ▸ hidle))).trans hidle⟩
      · rw [checking, toHandle, takes]; exact ok.inHand
      · rw [toHandle, takes]; exact ok.named
      · refine ⟨by rw [frame1.modes_eq, frame.modes_eq], by rw [frame1.composer_eq, frame.composer_eq], fun j => ?_,
          fun _ j hp hn => ?_, fun _ j hi => ?_, fun _ hn => ⟨checking.trans hn, fun h => ?_⟩⟩
        · by_cases hj : j = e.slot
          · rw [hj, idle, was]; simp
          · rw [state j hj, finishedW, finished j hj]
        · by_cases hj : j = e.slot
          · rw [hj, idle] at hp; cases hp
          · rw [state j hj] at hp
            rw [finishedW, finished j hj] at hn
            exact ⟨hp, hn⟩
        · by_cases hj : j = e.slot
          · rw [hj]; exact idle
          · exact (state j hj).trans hi
        · rw [hq] at h; cases h

/-- Each entry written is no longer waiting. -/
theorem State.writeJournalEntry_queue (s : State) : s.writeJournalEntry.report.journalQueue = s.report.journalQueue.tail := by
  cases hq : s.report.journalQueue with
  | nil => rw [State.writeJournalEntry_nil hq, hq]; rfl
  | cons e q =>
    rw [State.writeJournalEntry_cons hq]
    have queue : (s.entryCounted q).report.journalQueue = q := congrArg Prod.snd (s.entryCounted_places q)
    unfold State.endTake
    split
    · rw [State.handlePosts_queue]; exact queue
    · rw [State.setSlot_report]; exact queue

/-- Every busy slot's take has finished. -/
def State.allFinished (s : State) : Prop := ∀ i, (s.slot i).state ≠ .idle → s.finished i = true

/-- A slot still busy once the first entry is written is of another take. -/
theorem State.writeJournalEntry_busy (ok : s.placesOk) {e : JournalEntry} {q : List JournalEntry}
    (hq : s.report.journalQueue = e :: q) {j : Nat} (hj : (s.writeJournalEntry.slot j).state ≠ .idle) :
    (s.slot j).state ≠ .idle ∧ j ≠ e.slot := by
  have takes : (s.entryCounted q).takes = s.takes := (s.entryCounted_only q).takes_eq
  have hi := (ok.busy e (by rw [hq]; exact List.mem_cons_self)).1
  rw [State.writeJournalEntry_cons hq] at hj
  by_cases hc : s.takes.checking = some e.slot
  · rw [State.endTake_of_checking (by rw [takes]; exact hc), State.handlePosts_state] at hj
    have hj : (s.slot j).state ≠ .idle := State.slot_congr takes j ▸ hj
    exact ⟨hj, fun h => hj (h ▸ (ok.checking _ hc).2)⟩
  · rw [State.endTake_of_ne (by rw [takes]; exact hc), State.setSlot_slot _ (by rw [takes, ok.slots]; exact hi)] at hj
    split at hj
    · exact absurd rfl hj
    · next hne => exact ⟨State.slot_congr takes j ▸ hj, hne⟩

theorem State.writeJournalEntry_allFinished (ok : s.placesOk) (h : s.allFinished) : s.writeJournalEntry.allFinished := by
  cases hq : s.report.journalQueue with
  | nil => rw [State.writeJournalEntry_nil hq]; exact h
  | cons e q =>
    intro j hj
    obtain ⟨busy, hne⟩ := State.writeJournalEntry_busy ok hq hj
    obtain ⟨e', he', hs⟩ := (s.finished_iff j).1 (h j busy)
    rw [hq, List.mem_cons] at he'
    refine (State.finished_iff _ j).2 ⟨e', ?_, hs⟩
    rw [s.writeJournalEntry_queue, hq, List.tail_cons]
    exact he'.resolve_left (fun heq => hne (by rw [← hs, heq]))

/-! Entries written in order. -/

theorem State.writeEvent_goesOn {i : RingId} (h : i ≠ .journal) : GoesOn s (s.writeEvent i) :=
  (s.writeEvent_only i).goesOn (s.writeEvent_places h)

theorem State.writeEntry_goesOn (i : RingId) : GoesOn s (s.writeEntry i) := by
  cases i
  · exact s.writeJournalEntry_goesOn
  · exact State.writeEvent_goesOn (by decide)
  · exact State.writeEvent_goesOn (by decide)

theorem GoesOn.refl (s : State) : GoesOn s s := fun ok => ⟨ok, .of_same rfl rfl (fun _ => rfl) rfl (fun _ => id)⟩

theorem State.writeEntries_goesOn (i : RingId) (n : Nat) : GoesOn s (s.writeEntries i n) := by
  induction n generalizing s with
  | zero => exact .refl s
  | succ n ih => exact (State.writeEntry_goesOn i).trans ih

theorem State.journalDone_goesOn : GoesOn s s.journalDone := State.writeEntries_goesOn _ _

theorem State.flushRing_goesOn (i : RingId) : GoesOn s (s.flushRing i) := (s.flushRing_only i).goesOn (s.flushRing_places i)

theorem State.ringDone_goesOn (i : RingId) : GoesOn s (s.ringDone i) :=
  (State.writeEntries_goesOn i _).trans (State.flushRing_goesOn i)

theorem State.ringsDone_goesOn : GoesOn s s.ringsDone :=
  ((State.ringDone_goesOn _).trans (State.ringDone_goesOn _)).trans (State.ringDone_goesOn _)

/-- Where every busy slot's take has finished, every slot is IDLE once the entries are written (R43). -/
theorem State.writeEntries_idle (n : Nat) (ok : s.placesOk) (h : s.allFinished) (hn : s.report.journalQueue.length = n) :
    (∀ i, ((s.writeEntries .journal n).slot i).state = .idle) ∧ (s.writeEntries .journal n).report.journalQueue = [] := by
  induction n generalizing s with
  | zero =>
    have queue := List.eq_nil_of_length_eq_zero hn
    refine ⟨fun i => ?_, queue⟩
    by_contra hb
    obtain ⟨e, he, -⟩ := (s.finished_iff i).1 (h i hb)
    rw [queue] at he
    exact List.not_mem_nil he
  | succ n ih =>
    refine ih (s.writeJournalEntry_goesOn ok).1 (State.writeJournalEntry_allFinished ok h) ?_
    change s.writeJournalEntry.report.journalQueue.length = n
    rw [s.writeJournalEntry_queue, List.length_tail, hn]
    rfl

theorem State.journalDone_idle (ok : s.placesOk) (h : s.allFinished) :
    (∀ i, (s.journalDone.slot i).state = .idle) ∧ s.journalDone.report.journalQueue = [] :=
  State.writeEntries_idle _ ok h rfl

/-! Posts completed, takes cancelled, entries released. -/

theorem State.completePosts_goesOn (n : Nat) : GoesOn s (s.completePosts n) := by
  induction n generalizing s with
  | zero => exact .refl s
  | succ n ih =>
    unfold State.completePosts
    cases hc : s.takes.checking with
    | none => exact .refl s
    | some i =>
      dsimp only
      cases hf : s.finished i with
      | true => exact State.journalDone_goesOn.trans ih
      | false => exact (State.continuePosts_goesOn (by simp [State.checksInHand, hc, hf])).trans ih

theorem State.cancelSlot_goesOn (i : Nat) : GoesOn s (s.cancelSlot i) := by
  unfold State.cancelSlot
  split
  · next h =>
    intro ok
    have hf : s.finished i = false := by
      cases hf : s.finished i
      · rfl
      · rw [hf] at h; cases h
    have hp : (s.slot i).state = .posted := by simpa [hf] using h
    have hi : i < Config.slotCount := by
      by_contra hi
      rw [State.slot_of_le (by rw [ok.slots]; omega)] at hp
      cases hp
    have frame := s.recordRefusal_only i .none
    have finish : GoesOn (s.recordRefusal i .none) ((s.recordRefusal i .none).finishTake i (plainOutcome .cancelled) false none) :=
      State.finishTake_goesOn hi (.inl ((s.recordRefusal_state i .none i).trans hp))
        (by rw [State.finished_congr (Report.places_eq frame.places).2.2.2]; exact hf) _ _ _
    exact ((State.recordRefusal_goesOn i .none).trans finish).trans State.journalDone_goesOn ok
  · exact State.setSlot_goesOn (by rfl)
  · exact State.refuse_goesOn i _

theorem State.cancelSlots_goesOn (l : List Nat) : GoesOn s (s.cancelSlots l) :=
  GoesOn.foldl (fun _ i => State.cancelSlot_goesOn i) l s

theorem State.releaseRing_report (s : State) {i : RingId} (n : Nat) (h : i ≠ .journal) :
    (s.releaseRing i n).report.places = s.report.places := by
  unfold Report.places
  have ring : (s.releaseRing i n).report.journal = s.report.journal := s.releaseRing_other (q := .journal) h.symm n
  have queue : (s.releaseRing i n).report.journalQueue = s.report.journalQueue :=
    congrArg (fun q => q.1) (s.releaseRing_waiting i n)
  rw [ring, queue]

/-- A release gives places of the journal free (R151). -/
theorem State.releaseRing_goesOn (i : RingId) (n : Nat) : GoesOn s (s.releaseRing i n) := by
  have frame := s.releaseRing_only i n
  by_cases h : i = .journal
  · subst h
    intro ok
    have queue : (s.releaseRing .journal n).report.journalQueue = s.report.journalQueue :=
      congrArg (fun q => q.1) (s.releaseRing_waiting .journal n)
    have ring : (s.releaseRing .journal n).report.journal = if n = 0 then s.report.journal else s.report.journal.released n :=
      s.releaseRing_self .journal n
    have journal : (s.releaseRing .journal n).report.journal.capacity = s.report.journal.capacity ∧
        (s.releaseRing .journal n).report.journal.fill ≤ s.report.journal.fill ∧
        (s.releaseRing .journal n).report.journal.reserved = s.report.journal.reserved := by
      rw [ring]
      split
      · exact ⟨rfl, le_refl _, rfl⟩
      · exact ⟨rfl, Nat.sub_le _ _, rfl⟩
    have takes := frame.takes_eq
    have slot := State.slot_congr takes
    generalize s.releaseRing .journal n = v at *
    obtain ⟨capacity, fill, reserved⟩ := journal
    have room := ok.room
    refine ⟨{ slots := by rw [takes]; exact ok.slots, reserved := ?_, room := ?_, once := by rw [queue]; exact ok.once,
              busy := by simpa only [queue, slot, takes] using ok.busy, checking := by simpa only [slot, takes] using ok.checking,
              inHand := by rw [takes]; exact ok.inHand, named := by rw [takes]; exact ok.named }, ?_⟩
    · rw [reserved, takes, State.busyCount_congr (s := s) (t := v) (by rw [takes]) (fun j => by rw [slot])]; exact ok.reserved
    · rw [capacity, reserved]; omega
    · exact .of_same frame.modes_eq frame.composer_eq (fun j => by rw [slot]) queue (fun _ h => by rw [takes]; exact h)
  · exact frame.goesOn (s.releaseRing_report n h)

theorem State.handlePosts_goesOn (mask : BitVec 16) (h : s.takes.checking = none) :
    GoesOn s (s.handlePosts (maskSlots mask)) :=
  fun ok => State.handlePosts_goOn ok.toPlaced h (fun _ hi => mem_maskSlots hi)

end Sys2Proof.Machine
end

section
-- Many short proofs follow one another: taken one at a time they need one thread's memory, not one's for each.
set_option Elab.async false
/-! PROOF. Every step keeps the journal's places (R43, R48, R52, R126, R131, R152). -/

namespace Sys2Proof.Machine

variable {s t u : State}

/-! The invariant without the plan point: a boundary passes through states between one plan point and the next. -/

/-- The journal's places, the slots and the build stand to each other as R43, R48, R52 and R152 say, whether or not the plan point
of the frame has come. -/
structure State.takesOk (s : State) : Prop extends toPlaces : s.placesOk where
  mode : s.modeOk
  passed : ∀ c p, s.modes.progress = .passed c p → s.takes.checking = none ∧ s.report.journalQueue = []
  idle : s.modes.mode.slotsIdle = true → ∀ i, (s.slot i).state = .idle
  quiescing : s.modes.mode = .quiescing → ∀ i, (s.slot i).state = .posted → s.finished i = true
  building : ∀ i, ((s.slot i).state = .building ∧ s.finished i = false) ↔ i ∈ s.buildSlots
  takeList : s.buildSlots.Nodup
  build : s.composer.build ≠ none → s.modes.mode.mayBuild = true
  owed : s.composer.fallbackOwed = true → s.composer.build = none

/-- What holds of the 16 slots and what no slot beyond them breaks. -/
theorem State.slot_beyond {i : Nat} (hl : s.takes.slots.length = Config.slotCount) (h : Config.slotCount ≤ i) :
    (s.slot i).state = .idle := by
  rw [State.slot_of_le (by rw [hl]; exact h)]
  rfl

theorem State.takesOk.buildSlot_lt (ok : s.takesOk) {i : Nat} (h : i ∈ s.buildSlots) : i < Config.slotCount := by
  by_contra hi
  have := ((ok.building i).2 h).1
  rw [State.slot_beyond ok.slots (Nat.not_lt.1 hi)] at this
  cases this

theorem State.journalOk_iff (s : State) : s.journalOk ↔
    s.takesOk ∧ (s.composer.build ≠ none → s.timing.planDone = true) := by
  constructor
  · rintro ⟨mode, slots, reserved, atMost, room, waiting, checking, inHand, named, passed, idle, quiescing, building, takeList,
      build, owed⟩
    have beyond (i : Nat) (h : ¬ i < Config.slotCount) := State.slot_beyond slots (Nat.not_lt.1 h)
    refine ⟨{ slots, reserved, room, once := waiting.1, busy := waiting.2, checking, inHand, named, mode, passed,
              idle := fun hm i => ?_, quiescing := fun hm i hp => ?_, building := fun i => ?_, takeList := takeList.1,
              build := fun h => (build h).1, owed }, fun h => (build h).2⟩
    · by_cases hi : i < Config.slotCount
      · exact idle hm i hi
      · exact beyond i hi
    · by_cases hi : i < Config.slotCount
      · exact quiescing hm i hi hp
      · rw [beyond i hi] at hp; cases hp
    · by_cases hi : i < Config.slotCount
      · exact building i hi
      · rw [beyond i hi]
        exact ⟨fun h => (by cases h.1), fun h => absurd (takeList.2 i h) hi⟩
  · rintro ⟨ok, planned⟩
    exact {
      mode := ok.mode, slots := ok.slots, reserved := ok.reserved, atMost := ok.atMost, room := ok.room
      waiting := ⟨ok.once, ok.busy⟩, checking := ok.checking, inHand := ok.inHand, named := ok.named, passed := ok.passed
      idle := fun hm i _ => ok.idle hm i, quiescing := fun hm i _ => ok.quiescing hm i, building := fun i _ => ok.building i
      takeList := ⟨ok.takeList, fun i h => ok.buildSlot_lt h⟩, build := fun h => ⟨ok.build h, planned h⟩, owed := ok.owed }

/-! What keeps it. -/

theorem Mode.not_takesPosts_of_slotsIdle {m : Mode} (h : m.slotsIdle = true) : m.takesPosts = false := by
  cases m <;> first | rfl | cases h

theorem Progress.activating_of_passed (ok : s.modeOk) {c : Captured} {p : List WindowRec}
    (h : s.modes.progress = .passed c p) : s.modes.mode = .activating := ok.progress.1 (by simp [h])

theorem State.buildSlots_congr (h : t.composer.build = s.composer.build) : t.buildSlots = s.buildSlots := by
  unfold State.buildSlots
  rw [h]

/-- An operation with which takes go on keeps it. -/
theorem State.takesOk.goOn (ok : s.takesOk) (h : GoesOn s t) : t.takesOk := by
  obtain ⟨places, g⟩ := h ok.toPlaces
  have slots := State.buildSlots_congr (congrArg Composer.build g.composer)
  refine { toPlaces := places, mode := ok.mode.congr g.modes, passed := fun c p hp => ?_, idle := fun hm i => ?_,
           quiescing := fun hm i hp => ?_, building := fun i => ?_, takeList := by rw [slots]; exact ok.takeList,
           build := by rw [g.composer, g.modes]; exact ok.build, owed := by rw [g.composer]; exact ok.owed }
  · rw [g.modes] at hp
    obtain ⟨hc, hq⟩ := ok.passed c p hp
    have activating := Progress.activating_of_passed ok.mode hp
    obtain ⟨c1, q1⟩ := g.handed (by rw [activating]; rfl) hc
    exact ⟨c1, q1 hq (ok.idle (by rw [activating]; rfl))⟩
  · rw [g.modes] at hm
    exact g.idle (Mode.not_takesPosts_of_slotsIdle hm) i (ok.idle hm i)
  · rw [g.modes] at hm
    by_contra hf
    obtain ⟨hp1, hf1⟩ := g.posted (by rw [hm]; rfl) i hp (Bool.eq_false_iff.2 hf)
    rw [ok.quiescing hm i hp1] at hf1
    cases hf1
  · rw [g.building, slots]; exact ok.building i

/-- A change that leaves the slots, the entries that wait and the build. -/
theorem State.takesOk.congr (ok : s.takesOk) (ht : t.takes = s.takes) (hp : t.report.places = s.report.places)
    (hm : t.modes = s.modes) (hb : t.composer.build = s.composer.build)
    (ho : t.composer.fallbackOwed = true → s.composer.fallbackOwed = true) : t.takesOk := by
  have slot := State.slot_congr ht
  have slots := State.buildSlots_congr hb
  have queue := (Report.places_eq hp).2.2.2
  have finished := State.finished_congr queue
  exact {
    toPlaces := ok.toPlaces.congr (by rw [ht]) (fun i => by rw [slot]) (by rw [ht]) (by rw [ht]) hp
    mode := ok.mode.congr hm
    passed := by rw [hm, ht, queue]; exact ok.passed
    idle := by simpa only [hm, slot] using ok.idle
    quiescing := by simpa only [hm, slot, finished] using ok.quiescing
    building := by simpa only [slot, finished, slots] using ok.building
    takeList := by rw [slots]; exact ok.takeList
    build := by rw [hb, hm]; exact ok.build
    owed := fun h => by rw [hb]; exact ok.owed (ho h) }

theorem OnlyChanges.takesOk {l : List Part} (h : OnlyChanges l s t) (ok : s.takesOk)
    (hp : t.report.places = s.report.places) (ht : Part.takes ∉ l := by decide) (hm : Part.modes ∉ l := by decide)
    (hc : Part.composer ∉ l := by decide) : t.takesOk :=
  ok.congr (h.takes_eq ht) hp (h.modes_eq hm) (by rw [h.composer_eq hc]) (by rw [h.composer_eq hc]; exact id)

/-- A change of the mode controller, the build or what is owed that leaves the slots and the entries that wait. -/
theorem State.takesOk.move (ok : s.takesOk) (hm : t.modeOk) (ht : t.takes = s.takes)
    (hp : t.report.places = s.report.places) (hb : t.composer.build = s.composer.build)
    (ho : t.composer.fallbackOwed = true → t.composer.build = none)
    (passed : ∀ c p, t.modes.progress = .passed c p → t.takes.checking = none ∧ t.report.journalQueue = [])
    (idle : t.modes.mode.slotsIdle = true → ∀ i, (s.slot i).state = .idle)
    (quiescing : t.modes.mode = .quiescing → ∀ i, (s.slot i).state = .posted → s.finished i = true)
    (build : t.composer.build ≠ none → t.modes.mode.mayBuild = true) : t.takesOk := by
  have slot := State.slot_congr ht
  have slots := State.buildSlots_congr hb
  have finished := State.finished_congr (Report.places_eq hp).2.2.2
  exact {
    toPlaces := ok.toPlaces.congr (by rw [ht]) (fun i => by rw [slot]) (by rw [ht]) (by rw [ht]) hp
    mode := hm
    passed
    idle := by simpa only [slot] using idle
    quiescing := by simpa only [slot, finished] using quiescing
    building := by simpa only [slot, finished, slots] using ok.building
    takeList := by rw [slots]; exact ok.takeList
    build
    owed := ho }

/-- Where no activation is in progress, none has passed. -/
theorem State.modeOk.not_passed (ok : s.modeOk) (h : s.modes.mode ≠ .activating) {c : Captured} {p : List WindowRec} :
    s.modes.progress ≠ .passed c p := fun hp => h (ok.progress.1 (by simp [hp]))

theorem State.takesOk.build_none (ok : s.takesOk) (h : s.modes.mode.mayBuild = false) : s.composer.build = none := by
  by_contra hb
  rw [ok.build hb] at h
  cases h

/-! Takes that finish, and takes that return. -/

/-- Entries handed on for busy slots that have none yet, each slot once. -/
theorem State.placesOk.handAll (ok : s.placesOk) {es : List JournalEntry} (once : (es.map (·.slot)).Nodup)
    (busy : ∀ e ∈ es, e.slot < Config.slotCount ∧ (s.slot e.slot).state ≠ .idle ∧ s.finished e.slot = false) :
    (s.handAll es).placesOk := by
  induction es generalizing s with
  | nil => rw [State.handAll_nil]; exact ok
  | cons e es ih =>
    rw [List.map_cons, List.nodup_cons] at once
    obtain ⟨hi, hb, hf⟩ := busy e List.mem_cons_self
    have first := ok.handEntry hi (.inl hb) hf
    rw [← List.singleton_append, ← State.handAll_handAll]
    refine ih first once.2 (fun e' he' => ?_)
    obtain ⟨hi', hb', hf'⟩ := busy e' (List.mem_cons_of_mem e he')
    refine ⟨hi', hb', ?_⟩
    rw [← State.handEntry_eq, State.finished_handEntry, hf', Bool.false_or]
    exact beq_eq_false_iff_ne.2 (fun h => once.1 (h ▸ List.mem_map_of_mem he'))

/-- A slot has finished once entries of a list of slots are handed on. -/
theorem State.finished_entries (s : State) (l : List Nat) {f : Nat → JournalEntry} (hf : ∀ i, (f i).slot = i) (i : Nat) :
    (s.handAll (l.map f)).finished i = (s.finished i || decide (i ∈ l)) := by
  rw [State.finished_handAll, List.any_map]
  congr 1
  rw [Bool.eq_iff_iff, List.any_eq_true, decide_eq_true_iff]
  constructor
  · rintro ⟨j, hj, h⟩
    rw [Function.comp_apply, hf, beq_iff_eq] at h
    exact h ▸ hj
  · intro h
    exact ⟨i, h, by simp [hf]⟩

theorem map_slot_map {l : List Nat} {f : Nat → JournalEntry} (hf : ∀ i, (f i).slot = i) : (l.map f).map (·.slot) = l := by
  rw [List.map_map]
  exact (List.map_congr_left (fun i _ => hf i)).trans (List.map_id l)

/-- The takes of a list of busy slots finish, each once. -/
theorem State.placesOk.entries (ok : s.placesOk) {l : List Nat} {f : Nat → JournalEntry} (hf : ∀ i, (f i).slot = i)
    (once : l.Nodup) (busy : ∀ i ∈ l, (s.slot i).state ≠ .idle ∧ s.finished i = false) : (s.handAll (l.map f)).placesOk := by
  refine ok.handAll (by rw [map_slot_map hf]; exact once) (fun e he => ?_)
  obtain ⟨i, hi, rfl⟩ := List.mem_map.1 he
  rw [hf]
  obtain ⟨hb, hn⟩ := busy i hi
  refine ⟨?_, hb, hn⟩
  by_contra hl
  exact hb (State.slot_beyond ok.slots (Nat.not_lt.1 hl))

/-- The takes of a build return to POSTED or finish (R65, R70). -/
theorem State.placesOk.takesReturn (ok : s.placesOk) {l : List Nat} {f : Option Word} (once : l.Nodup)
    (busy : ∀ i ∈ l, (s.slot i).state ≠ .idle ∧ s.finished i = false) (h : TakesReturn l f s t) : t.placesOk := by
  have entries := ok.entries (l := l.filter (fun i => (s.slot i).cancelRequested))
    (f := fun i => s.entryOf i (plainOutcome .cancelled) false f) (fun _ => rfl) (once.filter _)
    (fun i hi => busy i (List.mem_filter.1 hi).1)
  have takes : t.takes = { s.takes with slots := t.takes.slots } := h.rest
  have state (i : Nat) : (t.slot i).state ≠ .idle ↔ (s.slot i).state ≠ .idle := by
    rw [h.slots]
    split
    · next hi => exact ⟨fun _ => (busy i hi.1).1, fun _ => by simp⟩
    · exact Iff.rfl
  have count : t.busyCount = s.busyCount := by
    rw [State.busyCount_eq, State.busyCount_eq, h.length]
    exact List.countP_congr (fun i _ => by simpa using not_congr (not_iff_not.1 (state i)))
  have checking : t.takes.checking = s.takes.checking := by rw [takes]
  have toHandle : t.takes.toHandle = s.takes.toHandle := by rw [takes]
  have report : t.report = (s.handAll _).report := h.report
  refine { slots := h.length.trans ok.slots, reserved := ?_, room := by rw [report]; exact entries.room,
           once := by rw [report]; exact entries.once, busy := fun e he => ?_, checking := fun i hi => ?_,
           inHand := by rw [checking, toHandle]; exact ok.inHand, named := by rw [toHandle]; exact ok.named }
  · rw [report, count, checking]; exact ok.reserved
  · rw [report] at he
    obtain ⟨hi, hb⟩ := entries.busy e he
    rw [checking]
    exact ⟨hi, hb.imp_left (state e.slot).2⟩
  · rw [checking] at hi
    obtain ⟨hl, hidle⟩ := ok.checking i hi
    refine ⟨hl, ?_⟩
    by_contra hb
    exact (state i).1 hb hidle

end Sys2Proof.Machine
end

section
-- Many short proofs follow one another: taken one at a time they need one thread's memory, not one's for each.
set_option Elab.async false
/-! PROOF. Every step keeps the journal's places, continued: the ends of builds, the moves of the mode, the plan point. -/

namespace Sys2Proof.Machine

variable {s t u : State}

/-! The ends of a build (R61, R65, R70, R71). -/

/-- The takes of a build all finish, and the build is gone. -/
theorem State.takesOk.finishBuild (ok : s.takesOk) {es : List JournalEntry} (hes : es.map (·.slot) = s.buildSlots)
    (ht : t.takes = s.takes) (hp : t.report.places = (s.handAll es).report.places) (hm : t.modes = s.modes)
    (hb : t.composer.build = none) : t.takesOk := by
  have slot := State.slot_congr ht
  have busy (e : JournalEntry) (he : e ∈ es) : (s.slot e.slot).state = .building ∧ s.finished e.slot = false :=
    (ok.building e.slot).2 (hes ▸ List.mem_map_of_mem he)
  have handed := ok.toPlaces.handAll (es := es) (by rw [hes]; exact ok.takeList) (fun e he =>
    ⟨ok.buildSlot_lt (hes ▸ List.mem_map_of_mem he), by simp [(busy e he).1], (busy e he).2⟩)
  have finished (i : Nat) : t.finished i = (s.finished i || decide (i ∈ s.buildSlots)) := by
    rw [State.finished_congr (Report.places_eq hp).2.2.2, State.finished_handAll, ← hes]
    congr 1
    rw [Bool.eq_iff_iff, List.any_eq_true, decide_eq_true_iff, List.mem_map]
    exact exists_congr (fun e => and_congr_right (fun _ => beq_iff_eq))
  have slots : t.buildSlots = [] := by simp [State.buildSlots, hb]
  refine { toPlaces := handed.congr (by rw [ht]; rfl) (fun i => by rw [slot]; rfl) (by rw [ht]; rfl) (by rw [ht]; rfl) hp,
           mode := ok.mode.congr hm, passed := fun c p h => ?_, idle := by simpa only [hm, slot] using ok.idle,
           quiescing := fun h i hi => ?_, building := fun i => ?_, takeList := by rw [slots]; exact List.nodup_nil,
           build := fun h => absurd hb h, owed := fun _ => hb }
  · rw [hm] at h
    obtain ⟨hc, hq⟩ := ok.passed c p h
    have none := ok.build_none (by rw [Progress.activating_of_passed ok.mode h]; rfl)
    have hes : es = [] := by simpa [State.buildSlots, none] using hes
    subst hes
    exact ⟨by rw [ht]; exact hc, by rw [(Report.places_eq hp).2.2.2, State.handAll_nil]; exact hq⟩
  · rw [slot] at hi
    rw [hm] at h
    rw [finished, ok.quiescing h i hi]
    rfl
  · rw [slots, slot, finished, Bool.or_eq_false_iff, decide_eq_false_iff_not]
    exact ⟨fun ⟨hb, hf, hn⟩ => absurd ((ok.building i).1 ⟨hb, hf⟩) hn, fun h => absurd h List.not_mem_nil⟩

theorem State.discardBuild_takesOk (f : Option Word) (ok : s.takesOk) (hq : s.modes.mode ≠ .quiescing) :
    (s.discardBuild f).takesOk := by
  have busy (i : Nat) (hi : i ∈ s.buildSlots) := (ok.building i).2 hi
  have returned := s.discardBuild_end f ok.takeList (fun i hi => by rw [ok.slots]; exact ok.buildSlot_lt hi)
  have places := ok.toPlaces.takesReturn ok.takeList (fun i hi => ⟨by simp [(busy i hi).1], (busy i hi).2⟩) returned
  have hb : (s.discardBuild f).composer.build = none := by rw [State.discardBuild_composer]
  have hm := s.discardBuild_modes f
  have slots : (s.discardBuild f).buildSlots = [] := by simp [State.buildSlots, hb]
  have report : (s.discardBuild f).report = (s.handAll _).report := returned.report
  have finished (i : Nat) : (s.discardBuild f).finished i =
      (s.finished i || decide (i ∈ s.buildSlots.filter (fun i => (s.slot i).cancelRequested))) := by
    rw [State.finished_congr (congrArg Report.journalQueue report)]
    exact s.finished_entries _ (fun _ => rfl) i
  have slot := returned.slots
  refine { toPlaces := places, mode := ok.mode.congr hm, passed := fun c p h => ?_, idle := fun h i => ?_,
           quiescing := fun h => absurd (hm ▸ h) hq, building := fun i => ?_, takeList := by rw [slots]; exact List.nodup_nil,
           build := fun h => absurd hb h, owed := fun _ => hb }
  · rw [hm] at h
    obtain ⟨hc, hq⟩ := ok.passed c p h
    have none := ok.build_none (by rw [Progress.activating_of_passed ok.mode h]; rfl)
    have empty : s.buildSlots = [] := by simp [State.buildSlots, none]
    rw [returned.rest, report, empty]
    exact ⟨hc, by rw [List.filter_nil, List.map_nil, State.handAll_nil]; exact hq⟩
  · rw [hm] at h
    rw [slot]
    split
    · next hi =>
      have := (busy i hi.1).1
      rw [ok.idle h i] at this
      cases this
    · exact ok.idle h i
  · rw [slots, finished, slot]
    refine ⟨fun ⟨hb, hf⟩ => ?_, fun h => absurd h List.not_mem_nil⟩
    rw [Bool.or_eq_false_iff, decide_eq_false_iff_not, List.mem_filter] at hf
    split at hb
    · cases hb
    · next hi =>
      have mem := (ok.building i).1 ⟨hb, hf.1⟩
      cases hc : (s.slot i).cancelRequested
      · exact absurd ⟨mem, hc⟩ hi
      · exact absurd ⟨mem, hc⟩ hf.2

/-! Posted takes finish (R44, R49, R71, R142). -/

theorem State.handAll_goesOn {es : List JournalEntry} (once : (es.map (·.slot)).Nodup)
    (busy : ∀ e ∈ es, (s.slot e.slot).state = .posted ∧ s.finished e.slot = false) : GoesOn s (s.handAll es) := fun ok => by
  induction es generalizing s with
  | nil => rw [State.handAll_nil]; exact GoesOn.refl s ok
  | cons e es ih =>
    rw [List.map_cons, List.nodup_cons] at once
    obtain ⟨hb, hf⟩ := busy e List.mem_cons_self
    have hi : e.slot < Config.slotCount := by
      by_contra hl
      rw [State.slot_beyond ok.slots (Nat.not_lt.1 hl)] at hb
      cases hb
    obtain ⟨ok1, g1⟩ := State.handEntry_goesOn hi (.inl hb) hf ok
    rw [← List.singleton_append, ← State.handAll_handAll, ← State.handEntry_eq]
    have later (e' : JournalEntry) (he' : e' ∈ es) : ((s.handEntry e).slot e'.slot).state = .posted ∧
        (s.handEntry e).finished e'.slot = false := by
      obtain ⟨hb', hf'⟩ := busy e' (List.mem_cons_of_mem e he')
      refine ⟨hb', ?_⟩
      rw [State.finished_handEntry, hf', Bool.false_or]
      exact beq_eq_false_iff_ne.2 (fun h => once.1 (h ▸ List.mem_map_of_mem he'))
    obtain ⟨ok2, g2⟩ := ih once.2 later ok1
    exact ⟨ok2, g1.trans g2⟩

/-- Takes of posted slots finish, each once. -/
theorem State.entries_goesOn {l : List Nat} {f : Nat → JournalEntry} (hf : ∀ i, (f i).slot = i) (once : l.Nodup)
    (busy : ∀ i ∈ l, (s.slot i).state = .posted ∧ s.finished i = false) : GoesOn s (s.handAll (l.map f)) :=
  State.handAll_goesOn (by rw [map_slot_map hf]; exact once) (fun e he => by
    obtain ⟨i, hi, rfl⟩ := List.mem_map.1 he
    rw [hf]
    exact busy i hi)

theorem State.cancelPosted_goesOn (f : Option Word) : GoesOn s (s.cancelTakes s.postedSlots f) := by
  rw [State.cancelTakes_eq]
  exact State.entries_goesOn (fun _ => rfl) s.postedSlots_nodup (fun i hi => (State.postedSlots_mem.1 hi).2)

theorem State.abandonPosted_goesOn : GoesOn s (s.abandonTakes s.postedSlots) := by
  rw [State.abandonTakes_eq]
  exact State.entries_goesOn (fun _ => rfl) s.postedSlots_nodup (fun i hi => (State.postedSlots_mem.1 hi).2)

theorem State.expireTakes_goesOn (n : Word) : GoesOn s (s.expireTakes n) := by
  rw [State.expireTakes_eq]
  refine State.entries_goesOn (fun _ => rfl) (s.slotsOf_nodup _) (fun i hi => ?_)
  obtain ⟨-, hp, hf⟩ := State.slotsOf_mem.1 hi
  simp only [SlotRec.considered, Bool.and_eq_true, decide_eq_true_eq] at hp
  exact ⟨hp.1.1, hf⟩

/-- No POSTED take is left unfinished once those of the posted slots have finished. -/
theorem State.finished_of_posted {f : Nat → JournalEntry} (hf : ∀ i, (f i).slot = i) {i : Nat}
    (hp : (s.slot i).state = .posted) :
    (s.handAll (s.postedSlots.map f)).finished i = true := by
  rw [State.finished_entries s _ hf, Bool.or_eq_true, decide_eq_true_iff, State.postedSlots_mem]
  cases h : s.finished i
  · refine .inr ⟨?_, hp, rfl⟩
    by_contra hi
    rw [State.slot_of_le (Nat.not_lt.1 hi)] at hp
    cases hp
  · exact .inl rfl

/-! FALLBACK, QUIESCING and QUIESCED (R71, R139, R142). -/

theorem State.takesOk.allFinished (ok : s.takesOk) (hb : s.composer.build = none)
    (hp : ∀ i, (s.slot i).state = .posted → s.finished i = true) : s.allFinished := fun i hi => by
  cases hs : (s.slot i).state with
  | idle => exact absurd hs hi
  | posted => exact hp i hs
  | building =>
    by_contra hf
    have mem := (ok.building i).1 ⟨hs, Bool.eq_false_iff.2 hf⟩
    rw [State.buildSlots, hb] at mem
    exact List.not_mem_nil mem

theorem State.enterFallback_takesOk (r : Trigger) (ok : s.takesOk) (hm : (s.enterFallback r).modeOk) :
    (s.enterFallback r).takesOk := by
  have composer := s.enterFallback_composer r
  have modes := s.enterFallback_modes r
  have abandoned : ((s.abandonTakes s.buildSlots).setBuild none).takesOk := by
    refine ok.finishBuild (es := s.buildSlots.map (fun i => s.entryOf i (plainOutcome .abandoned)
      (s.slot i).cancelRequested none)) (map_slot_map (fun _ => rfl)) ?_ ?_ ?_ rfl
    · rw [(State.setBuild_only _ _).takes_eq, (s.abandonTakes_only _).takes_eq]
    · rw [(State.setBuild_only _ _).places, State.abandonTakes_eq]
    · rw [(State.setBuild_only _ _).modes_eq, (s.abandonTakes_only _).modes_eq]
  unfold State.enterFallback State.andThen at *
  dsimp only at *
  generalize (s.abandonTakes s.buildSlots).setBuild none = v at *
  have hv : v.composer.build = none := by
    have := congrArg Composer.build composer
    rw [modComposer_composer, (State.moveMode_only _ _ _).composer_eq, (State.raise_only _ _).composer_eq,
      (State.stopSupervision_only _).composer_eq, (State.journalDone_only _).composer_eq,
      (State.abandonTakes_only _ _).composer_eq] at this
    exact this
  have posted : (v.abandonTakes v.postedSlots).takesOk := abandoned.goOn State.abandonPosted_goesOn
  have hv1 : (v.abandonTakes v.postedSlots).composer.build = none := by rw [(State.abandonTakes_only _ _).composer_eq]; exact hv
  have all : (v.abandonTakes v.postedSlots).allFinished := posted.allFinished hv1 (fun i hi => by
    rw [State.slot_congr (State.abandonTakes_only _ _).takes_eq] at hi
    rw [State.abandonTakes_eq]
    exact State.finished_of_posted (fun _ => rfl) hi)
  obtain ⟨idle, -⟩ := State.journalDone_idle posted.toPlaces all
  have done : (v.abandonTakes v.postedSlots).journalDone.takesOk := posted.goOn State.journalDone_goesOn
  have hv2 : (v.abandonTakes v.postedSlots).journalDone.composer.build = none := by
    rw [(State.journalDone_only _).composer_eq]; exact hv1
  generalize (v.abandonTakes v.postedSlots).journalDone = w at *
  have frame : OnlyChanges [.interrupt, .modes, .rings, .causes]  w
      ((w.stopSupervision.raise .fallbackEntered).moveMode .fallback r) :=
    (((w.stopSupervision_only).mono (by decide)).next (State.raise_only _ _) (by decide)).next (State.moveMode_only _ _ _)
      (by decide)
  have places : ((w.stopSupervision.raise .fallbackEntered).moveMode .fallback r).report.places = w.report.places := by
    rw [State.moveMode_places, (State.raise_only _ _).places, w.stopSupervision_only.places]
  refine done.move hm ?_ ?_ ?_ ?_ ?_ (fun _ => idle) ?_ ?_
  · rw [modComposer_takes, frame.takes_eq]
  · rw [modComposer_report, places]
  · rw [modComposer_composer]
    change (State.composer _).build = _
    rw [frame.composer_eq]
  · intro _; rw [composer]
  · intro c p h
    exact absurd h (hm.not_passed (by rw [modes]; simp))
  · intro h; rw [modes] at h; cases h
  · intro h; rw [composer] at h; exact absurd rfl h

theorem State.quiesceDone_takesOk (ok : s.takesOk) (hm : s.modes.mode = .quiescing) (hb : s.composer.build = none)
    (hq : s.quiesceDone.modeOk) : s.quiesceDone.takesOk := by
  have modes := s.quiesceDone_modes
  have composer := s.quiesceDone_only.composer_eq
  obtain ⟨idle, -⟩ := State.journalDone_idle ok.toPlaces (ok.allFinished hb (ok.quiescing hm))
  have done : s.journalDone.takesOk := ok.goOn State.journalDone_goesOn
  unfold State.quiesceDone at *
  have hb1 : s.journalDone.composer.build = none := by rw [s.journalDone_only.composer_eq]; exact hb
  generalize s.journalDone = w at *
  have frame : OnlyChanges [.interrupt, .modes, .rings, .causes] w ((w.raise .modeReached).moveMode .quiesced .quiesceDone) :=
    ((State.raise_only _ _).mono (by decide)).next (State.moveMode_only _ _ _) (by decide)
  refine done.move hq frame.takes_eq ?_ (by rw [frame.composer_eq]) ?_ ?_ (fun _ => idle) ?_ ?_
  · rw [State.moveMode_places, (State.raise_only _ _).places]
  · intro _; rw [frame.composer_eq]; exact hb1
  · intro c p h
    exact absurd h (hq.not_passed (by rw [modes]; simp))
  · intro h; rw [modes] at h; cases h
  · intro h; rw [frame.composer_eq] at h; exact absurd hb1 h

theorem State.enterQuiescing_takesOk (r : Trigger) (ok : s.takesOk)
    (hm : s.modes.mode = .run ∨ s.modes.mode = .hold ∨ s.modes.mode = .fallback) : (s.enterQuiescing r).takesOk := by
  have hq := State.enterQuiescing_modeOk ok.mode (by rcases hm with h | h | h <;> simp [h])
    (by rcases hm with h | h | h <;> simp [h, Mode.early]) r
  have cancelled : (s.cancelTakes s.postedSlots none).takesOk := ok.goOn (State.cancelPosted_goesOn none)
  have posted (i : Nat) (hi : (s.slot i).state = .posted) : (s.cancelTakes s.postedSlots none).finished i = true := by
    rw [State.cancelTakes_eq]
    exact State.finished_of_posted (fun _ => rfl) hi
  have modes : (((s.cancelTakes s.postedSlots none).stopSupervision).moveMode .quiescing r).modes =
      { s.modes with mode := .quiescing, supervision := none } := by
    rw [State.moveMode_modes]
    change { ({ (s.cancelTakes s.postedSlots none).modes with supervision := none } : ModeCtl) with mode := .quiescing } = _
    rw [(State.cancelTakes_only _ _ _).modes_eq]
  have frame : OnlyChanges [.interrupt, .modes, .rings, .causes] (s.cancelTakes s.postedSlots none)
      (((s.cancelTakes s.postedSlots none).stopSupervision).moveMode .quiescing r) :=
    ((State.stopSupervision_only _).mono (by decide)).next (State.moveMode_only _ _ _) (by decide)
  have modeOk : (((s.cancelTakes s.postedSlots none).stopSupervision).moveMode .quiescing r).modeOk :=
    ok.mode.move (m := .quiescing) (v := none) (by rcases hm with h | h | h <;> simp [h]) (by decide)
      (by rcases hm with h | h | h <;> simp [h, Mode.early]) (by simp) modes
  have moved : (((s.cancelTakes s.postedSlots none).stopSupervision).moveMode .quiescing r).takesOk := by
    refine cancelled.move modeOk frame.takes_eq ?_ (by rw [frame.composer_eq]) ?_ ?_ ?_ (fun _ i hi => ?_) ?_
    · rw [State.moveMode_places, (State.stopSupervision_only _).places]
    · rw [frame.composer_eq]; exact cancelled.owed
    · intro c p h
      exact absurd h (modeOk.not_passed (by rw [modes]; simp))
    · intro h; rw [modes] at h; cases h
    · exact posted i (State.slot_congr (State.cancelTakes_only _ _ _).takes_eq i ▸ hi)
    · intro _; rw [modes]; rfl
  unfold State.enterQuiescing State.andThen at *
  dsimp only at *
  generalize ((s.cancelTakes s.postedSlots none).stopSupervision).moveMode .quiescing r = v at *
  split at hq
  · next h =>
    rw [if_pos h]
    rw [Bool.and_eq_true, Option.isNone_iff_eq_none] at h
    exact State.quiesceDone_takesOk moved (by rw [modes]) h.1 hq
  · next h =>
    rw [if_neg h]
    exact moved

end Sys2Proof.Machine
end

section
-- Many short proofs follow one another: taken one at a time they need one thread's memory, not one's for each.
set_option Elab.async false
/-! PROOF. Every step keeps the journal's places, continued: requests, gathering, boundaries, resets. -/

namespace Sys2Proof.Machine

variable {s t u : State}

/-! Requests (R130). -/

/-- A change of the mode controller alone, where the mode it moves to allows the slots and the build. -/
theorem State.takesOk.moveModes {l : List Part} (ok : s.takesOk) (h : OnlyChanges l s t) (hm : t.modeOk)
    (hp : t.report.places = s.report.places) (hb : t.composer.layouts = s.composer.layouts)
    (idle : t.modes.mode.slotsIdle = true → s.modes.mode.slotsIdle = true) (hq : t.modes.mode ≠ .quiescing)
    (build : t.modes.mode.mayBuild = false → s.composer.build = none) (ha : ∀ c p, t.modes.progress ≠ .passed c p)
    (ht : Part.takes ∉ l := by decide) : t.takesOk := by
  obtain ⟨-, hb, ho, -⟩ := Composer.layouts_eq hb
  refine ok.move hm (h.takes_eq ht) hp hb (by rw [hb, ho]; exact ok.owed) (fun c p hp => absurd hp (ha c p))
    (fun h => ok.idle (idle h)) (fun h => absurd h hq) (fun h => ?_)
  rw [hb] at h
  cases hn : t.modes.mode.mayBuild
  · exact absurd (build hn) h
  · rfl

theorem State.failRequest_takesOk (ok : s.takesOk) : s.failRequest.takesOk :=
  s.failRequest_only.takesOk ok s.failRequest_only.places

theorem State.startSupervision_places (s : State) : s.startSupervision.report.places = s.report.places := rfl

theorem State.startActivation_places (s : State) : s.startActivation.report.places = s.report.places := by
  unfold State.startActivation State.andThen
  dsimp only
  rw [State.moveMode_places]
  split <;> rfl

/-- RUN is entered from HOLD, FALLBACK and QUIESCED; no slot is asked for anything there. -/
theorem State.takesOk.enterRun {l : List Part} (ok : s.takesOk) (frame : OnlyChanges l s t.startSupervision)
    (modeOk : t.startSupervision.modeOk) (layouts : t.startSupervision.composer.layouts = s.composer.layouts)
    (ht : t.modes = { s.modes with mode := .run }) (places : t.report.places = s.report.places)
    (hs : s.modes.mode ≠ .activating) (hl : Part.takes ∉ l := by decide) : t.startSupervision.takesOk := by
  have mode : t.startSupervision.modes.mode = .run := by rw [State.startSupervision_modes, ht]
  have progress : t.startSupervision.modes.progress = s.modes.progress := by rw [State.startSupervision_modes, ht]
  refine ok.moveModes frame modeOk (t.startSupervision_places.trans places) layouts ?_ ?_ ?_ ?_ hl
  · rw [mode]; exact fun h => by cases h
  · rw [mode]; simp
  · rw [mode]; exact fun h => by cases h
  · rw [progress]; exact fun _ _ => ok.mode.not_passed hs

theorem State.runRequest_takesOk (ok : s.takesOk) : s.runRequest.takesOk := by
  have modeOk := State.runRequest_modeOk ok.mode
  have layouts := s.runRequest_layouts
  have frame := s.runRequest_only
  revert modeOk layouts frame
  unfold State.runRequest
  split <;> intro modeOk layouts frame
  · exact ok
  · next hm =>
    exact ok.moveModes frame modeOk s.startActivation_places layouts (fun _ => by rw [hm]; rfl)
      (by simp [State.startActivation_modes]) (fun _ => ok.build_none (by rw [hm]; rfl)) (by simp [State.startActivation_modes])
  · exact State.failRequest_takesOk ok
  · exact ok
  · next hm =>
    exact ok.enterRun frame modeOk layouts (State.moveMode_modes _ _ _) (State.moveMode_places _ _ _) (by simp [hm])
  · next hm =>
    exact ok.enterRun frame modeOk layouts (State.moveMode_modes _ _ _) (State.moveMode_places _ _ _) (by simp [hm])
  · exact State.failRequest_takesOk ok
  · next hm =>
    exact ok.enterRun frame modeOk layouts (State.moveMode_modes _ _ _) (State.moveMode_places _ _ _) (by simp [hm])

theorem State.enterHold_places (s : State) (r : Trigger) : (s.enterHold r).report.places = s.report.places :=
  Report.places_of_journalPart (s.enterHold_journal r)

/-- HOLD is entered from RUN, with no build left (R70, R138). -/
theorem State.enterHold_takesOk (r : Trigger) (ok : s.takesOk) (hm : s.modes.mode = .run) (hb : s.composer.build = none) :
    (s.enterHold r).takesOk := by
  refine ok.moveModes (s.enterHold_only r) (State.enterHold_modeOk ok.mode hm rfl r) (s.enterHold_places r)
    (by rw [State.enterHold_composer]) ?_ ?_ (fun _ => hb) ?_
  · rw [State.enterHold_modes]; exact fun h => by cases h
  · rw [State.enterHold_modes]; simp
  · rw [State.enterHold_modes]; exact fun _ _ => ok.mode.not_passed (by simp [hm])

theorem State.holdRequest_takesOk (ok : s.takesOk) : s.holdRequest.takesOk := by
  unfold State.holdRequest
  split
  · exact ok
  · next hm =>
    exact State.enterHold_takesOk _ (State.discardBuild_takesOk none ok (by simp [hm]))
      (by rw [State.discardBuild_modes]; exact hm) (by rw [State.discardBuild_composer])
  · exact ok
  all_goals exact State.failRequest_takesOk ok

theorem State.fallbackRequest_takesOk (ok : s.takesOk) : s.fallbackRequest.takesOk := by
  have modeOk := State.fallbackRequest_modeOk ok.mode
  revert modeOk
  unfold State.fallbackRequest
  split <;> intro modeOk
  · exact ok
  · exact State.enterFallback_takesOk _ ok modeOk
  · exact State.enterFallback_takesOk _ ok modeOk
  · exact State.enterFallback_takesOk _ ok modeOk
  · exact ok
  all_goals exact State.failRequest_takesOk ok

theorem State.quiesceRequest_takesOk (ok : s.takesOk) : s.quiesceRequest.takesOk := by
  unfold State.quiesceRequest
  split
  · exact ok
  · next hm => exact State.enterQuiescing_takesOk _ ok (.inl hm)
  · next hm => exact State.enterQuiescing_takesOk _ ok (.inr (.inl hm))
  · next hm => exact State.enterQuiescing_takesOk _ ok (.inr (.inr hm))
  · exact ok
  · exact ok
  all_goals exact State.failRequest_takesOk ok

theorem State.endActivation_places (s : State) (r : Trigger) : (s.endActivation r).report.places = s.report.places := by
  unfold State.endActivation State.andThen
  dsimp only
  rw [State.moveMode_places]
  rfl

/-- From ACTIVATING an activation ends without a capture (R135, R137). -/
theorem State.endActivation_takesOk (r : Trigger) (ok : s.takesOk) (hm : s.modes.mode = .activating)
    (modeOk : (s.endActivation r).modeOk) : (s.endActivation r).takesOk := by
  refine ok.moveModes (s.endActivation_only r) modeOk (s.endActivation_places r)
    (by rw [(s.endActivation_only r).composer_eq]) (fun _ => by rw [hm]; rfl) ?_ (fun _ => ok.build_none (by rw [hm]; rfl)) ?_
  · rw [State.endActivation_modes]; simp
  · rw [State.endActivation_modes]; simp

theorem State.clearLayoutForConfig_places (s : State) : s.clearLayoutForConfig.report.places = s.report.places :=
  s.clearLayoutForConfig_only.places

theorem State.configRequest_takesOk (ok : s.takesOk) : s.configRequest.takesOk := by
  have modeOk := State.configRequest_modeOk ok.mode
  have failed := State.failRequest_takesOk ok
  revert modeOk
  unfold State.configRequest
  split <;> intro modeOk
  · exact ok
  · exact ok
  · next hm => exact State.endActivation_takesOk _ ok hm modeOk
  · next hm => exact State.enterQuiescing_takesOk _ failed (.inl hm)
  · next hm => exact State.enterQuiescing_takesOk _ failed (.inr (.inl hm))
  · next hm => exact State.enterQuiescing_takesOk _ failed (.inr (.inr hm))
  · exact failed
  · next hm =>
    obtain ⟨-, build, owed, -⟩ := Composer.layouts_of ((s.moveMode .config .request).clearLayoutForConfig_layouts)
    have frame := State.clearLayoutForConfig_only (s.moveMode .config .request)
    have modes : (s.moveMode .config .request).clearLayoutForConfig.modes = { s.modes with mode := .config } := by
      rw [frame.modes_eq, State.moveMode_modes]
    have composer := (s.moveMode_only .config .request).composer_eq
    refine ok.move modeOk ?_ ?_ (by rw [build, composer]) ?_ ?_ (fun _ => ok.idle (by rw [hm]; rfl)) ?_ ?_
    · rw [frame.takes_eq, (s.moveMode_only _ _).takes_eq]
    · rw [State.clearLayoutForConfig_places, State.moveMode_places]
    · rw [owed, build, composer]; exact ok.owed
    · intro c p h
      exact absurd h (modeOk.not_passed (by simp [modes]))
    · intro h; rw [modes] at h; cases h
    · intro h; rw [build, composer] at h; exact absurd (ok.build_none (by rw [hm]; rfl)) h

/-! An activation's checks (R135). -/

/-- Where every slot is IDLE and no post is in hand, no entry waits. -/
theorem State.placesOk.queue_nil (ok : s.placesOk) (idle : ∀ i, (s.slot i).state = .idle) (hc : s.takes.checking = none) :
    s.report.journalQueue = [] := by
  refine List.eq_nil_iff_forall_not_mem.2 (fun e he => ?_)
  obtain ⟨-, hb⟩ := ok.busy e he
  rw [idle, hc] at hb
  simp at hb

theorem State.checksComplete_takesOk {image : ConfigImage} (ok : s.takesOk) (hp : s.modes.progress = .checking image)
    (hc : s.takes.checking = none) : (s.checksComplete image).takesOk := by
  have activating : s.modes.mode = .activating := ok.mode.progress.1 (by simp [hp])
  have modeOk := State.checksComplete_modeOk ok.mode hp
  have modes := s.checksComplete_modes image
  have frame := s.checksComplete_only image
  have build := ok.build_none (by rw [activating]; rfl)
  have idle := ok.idle (by rw [activating]; rfl)
  have places : (s.checksComplete image).report.places = s.report.places := by
    unfold State.checksComplete State.andThen
    cases image.failure s.map with
    | none => rfl
    | some f =>
      dsimp only
      rw [State.endActivation_places, (State.raise_only _ _).places]
      rfl
  refine ok.move modeOk frame.takes_eq places (by rw [frame.composer_eq]) ?_ (fun _ _ _ => ?_) (fun _ => idle) ?_ ?_
  · intro _; rw [frame.composer_eq]; exact build
  · rw [frame.takes_eq, (Report.places_eq places).2.2.2]
    exact ⟨hc, ok.toPlaces.queue_nil idle hc⟩
  · intro h
    rw [modes] at h
    split at h
    · cases h
    · rw [activating] at h; cases h
  · intro h
    rw [frame.composer_eq] at h
    exact absurd build h

/-! Gathering (R49, R50, R52). -/

theorem State.insertGathered_perm (s : State) (i : Nat) (l : List Nat) : (s.insertGathered i l).Perm (i :: l) := by
  induction l with
  | nil => exact .refl _
  | cons j l ih =>
    unfold State.insertGathered
    split
    · exact .refl _
    · exact (ih.cons j).trans (.swap i j l)

theorem State.gatheredOrder_perm (s : State) (n : Word) :
    (s.gatheredOrder n).Perm (s.slotsOf (fun r => r.considered n)) := by
  unfold State.gatheredOrder
  induction s.slotsOf (fun r => r.considered n) with
  | nil => exact .refl _
  | cons i l ih => exact (s.insertGathered_perm i _).trans (ih.cons i)

theorem State.gathered_nodup (s : State) (n : Word) : (s.gathered n).Nodup :=
  (List.take_sublist _ _).nodup ((s.gatheredOrder_perm n).nodup_iff.2 (s.slotsOf_nodup _))

theorem State.mem_gathered {n : Word} {i : Nat} (h : i ∈ s.gathered n) :
    i < s.takes.slots.length ∧ (s.slot i).state = .posted ∧ s.finished i = false := by
  obtain ⟨hi, hc, hf⟩ := State.slotsOf_mem.1 ((s.gatheredOrder_perm n).mem_iff.1 (List.mem_of_mem_take h))
  simp only [SlotRec.considered, Bool.and_eq_true, decide_eq_true_eq] at hc
  exact ⟨hi, hc.1, hf⟩

theorem State.startTakes_slot (s : State) (l : List Nat) (j : Nat) (hl : ∀ i ∈ l, i < s.takes.slots.length) :
    (s.startTakes l).slot j = if j ∈ l then { s.slot j with state := .building } else s.slot j := by
  induction l generalizing s with
  | nil => rfl
  | cons i l ih =>
    have hi := hl i List.mem_cons_self
    have one := State.setSlot_slot (s := s) { s.slot i with state := .building } hi
    change ((s.setSlot i { s.slot i with state := .building }).startTakes l).slot j = _
    rw [ih _ (fun k hk => by rw [State.setSlot_slots_length]; exact hl k (List.mem_cons_of_mem i hk)), one]
    by_cases hj : j = i
    · subst hj
      simp
    · simp [hj]

theorem State.startTakes_engine (s : State) (l : List Nat) : (s.startTakes l).takes.checking = s.takes.checking ∧
    (s.startTakes l).takes.toHandle = s.takes.toHandle := by
  induction l generalizing s with
  | nil => exact ⟨rfl, rfl⟩
  | cons i l ih =>
    obtain ⟨h1, h2⟩ := ih (s.setSlot i { s.slot i with state := .building })
    exact ⟨h1.trans (s.setSlot_checking i _), h2.trans (s.setSlot_toHandle i _)⟩

/-- The places where slots stay busy or IDLE. -/
theorem State.placesOk.rebusy (h : s.placesOk) (hl : t.takes.slots.length = s.takes.slots.length)
    (hs : ∀ i, (t.slot i).state = .idle ↔ (s.slot i).state = .idle) (hc : t.takes.checking = s.takes.checking)
    (hh : t.takes.toHandle = s.takes.toHandle) (hp : t.report.places = s.report.places) : t.placesOk := by
  obtain ⟨capacity, fill, reserved, queue⟩ := Report.places_eq hp
  have count : t.busyCount = s.busyCount := by
    rw [State.busyCount_eq, State.busyCount_eq, hl]
    exact List.countP_congr (fun i _ => by simpa using not_congr (hs i))
  exact {
    slots := hl.trans h.slots
    reserved := by rw [reserved, count, hc]; exact h.reserved
    room := by rw [capacity, fill, reserved]; exact h.room
    once := by rw [queue]; exact h.once
    busy := by simpa only [queue, ne_eq, hs, hc] using h.busy
    checking := by simpa only [hs, hc] using h.checking
    inHand := by rw [hc, hh]; exact h.inHand
    named := by rw [hh]; exact h.named }

/-- The takes gathered are started, and the build is theirs (R50, R52). -/
theorem State.takesOk.startBuild (ok : s.takesOk) (n : Word) (hb : s.composer.build = none)
    (hm : s.modes.mode.builds = true) (ho : s.composer.fallbackOwed = false) {b : BuildRecord}
    (takes : b.takes = (s.gathered n).map (fun i => ⟨i, none⟩)) :
    (((s.startTakes (s.gathered n)).modTakes (fun te => { te with behindBuild := false })).setBuild (some b)).takesOk := by
  have frame := s.startTakes_only (s.gathered n)
  have slot (j : Nat) := s.startTakes_slot (s.gathered n) j (fun i hi => (State.mem_gathered hi).1)
  obtain ⟨checking, toHandle⟩ := s.startTakes_engine (s.gathered n)
  have length := s.startTakes_slotTotal (s.gathered n)
  have places := frame.places
  have hmodes := frame.modes_eq
  have composer := frame.composer_eq
  generalize s.startTakes (s.gathered n) = v at *
  have slot' (j : Nat) : ((v.modTakes (fun te => { te with behindBuild := false })).setBuild (some b)).slot j =
      if j ∈ s.gathered n then { s.slot j with state := .building } else s.slot j := slot j
  have slots : ((v.modTakes (fun te => { te with behindBuild := false })).setBuild (some b)).buildSlots = s.gathered n := by
    change b.takes.map (·.slot) = _
    rw [takes, List.map_map]
    exact List.map_id _
  have modes : ((v.modTakes (fun te => { te with behindBuild := false })).setBuild (some b)).modes = s.modes := hmodes
  have places' : ((v.modTakes (fun te => { te with behindBuild := false })).setBuild (some b)).report.places =
      s.report.places := places
  have finished := State.finished_congr (Report.places_eq places').2.2.2
  have owed : ((v.modTakes (fun te => { te with behindBuild := false })).setBuild (some b)).composer.fallbackOwed = false := by
    rw [State.setBuild, modComposer_composer, modTakes_composer, composer]
    exact ho
  have length' : ((v.modTakes (fun te => { te with behindBuild := false })).setBuild (some b)).takes.slots.length =
      s.takes.slots.length := length
  have checking' : ((v.modTakes (fun te => { te with behindBuild := false })).setBuild (some b)).takes.checking =
      s.takes.checking := checking
  have toHandle' : ((v.modTakes (fun te => { te with behindBuild := false })).setBuild (some b)).takes.toHandle =
      s.takes.toHandle := toHandle
  generalize (v.modTakes (fun te => { te with behindBuild := false })).setBuild (some b) = w at *
  have none (i : Nat) : ¬ ((s.slot i).state = .building ∧ s.finished i = false) := fun h => by
    have mem := (ok.building i).1 h
    rw [State.buildSlots, hb] at mem
    exact List.not_mem_nil mem
  refine { toPlaces := ok.toPlaces.rebusy length' (fun i => ?_) checking' toHandle' places', mode := ok.mode.congr modes,
           passed := fun c p h => ?_, idle := fun h i => ?_, quiescing := fun h => ?_, building := fun i => ?_,
           takeList := by rw [slots]; exact s.gathered_nodup n, build := fun _ => ?_,
           owed := fun h => by rw [owed] at h; cases h }
  · rw [slot']
    split
    · next hi => simp [(State.mem_gathered hi).2.1]
    · exact Iff.rfl
  · rw [modes] at h
    rw [Progress.activating_of_passed ok.mode h] at hm
    cases hm
  · rw [modes] at h
    rw [slot']
    split
    · next hi =>
      have := (State.mem_gathered hi).2.1
      rw [ok.idle h i] at this
      cases this
    · exact ok.idle h i
  · rw [modes] at h
    rw [h] at hm
    cases hm
  · rw [slots, slot', finished]
    split
    · next hi => exact ⟨fun _ => hi, fun _ => ⟨rfl, (State.mem_gathered hi).2.2⟩⟩
    · next hi => exact ⟨fun h => absurd h (none i), fun h => absurd h hi⟩
  · rw [modes]
    revert hm
    cases s.modes.mode <;> simp [Mode.builds, Mode.mayBuild]

theorem State.planPoint_takesOk (ok : s.takesOk) (hb : s.composer.build = none) : s.planPoint.takesOk := by
  have done : (s.modTiming (fun ti => { ti with planDone := true })).takesOk :=
    (s.modTiming_only _).takesOk ok (s.modTiming_only _).places
  unfold State.planPoint State.andThen
  dsimp only
  split
  · next h =>
    rw [Bool.and_eq_true, Bool.not_eq_true'] at h
    obtain ⟨hm, ho⟩ := h
    have expired := done.goOn (State.expireTakes_goesOn (s.timing.frame + 1))
    have frame := State.expireTakes_only (s.modTiming (fun ti => { ti with planDone := true })) (s.timing.frame + 1)
    have composer : ((s.modTiming (fun ti => { ti with planDone := true })).expireTakes (s.timing.frame + 1)).composer =
        s.composer := by rw [frame.composer_eq, modTiming_composer]
    have modes : ((s.modTiming (fun ti => { ti with planDone := true })).expireTakes (s.timing.frame + 1)).modes =
        s.modes := by rw [frame.modes_eq, modTiming_modes]
    unfold State.gatherAndBuild State.andThen
    dsimp only
    split
    · exact expired
    · exact expired.startBuild _ (by rw [composer]; exact hb) (by rw [modes]; exact hm) (by rw [composer]; exact ho) (by rfl)
  · exact done

end Sys2Proof.Machine
end

section
-- Many short proofs follow one another: taken one at a time they need one thread's memory, not one's for each.
set_option Elab.async false
/-! PROOF. Every step keeps the journal's places, continued: builds, boundaries, resets, every move. -/

namespace Sys2Proof.Machine

variable {s t u : State}

/-! What the operations of a boundary leave of the entries that wait. -/

theorem State.handEvents_places (s : State) (es : List Event) : (s.handEvents es).report.places = s.report.places := by
  unfold State.handEvents
  induction es generalizing s with
  | nil => rfl
  | cons e es ih => exact (ih _).trans (s.handEvent_places e)

theorem State.changeSource_places (s : State) (i : Nat) (r : SourceRec) (g a : Bool) :
    (s.changeSource i r g a).report.places = s.report.places := by
  unfold State.changeSource State.andThen
  dsimp only
  rw [State.handEvent_places]
  exact (s.setSource_only i r).places

theorem State.applySettings_places (s : State) (i : Nat) (new : SourceSettings) :
    (s.applySettings i new).report.places = s.report.places := by
  have set (r : SourceRec) : (s.setSource i r).report.places = s.report.places := (s.setSource_only i r).places
  unfold State.applySettings State.andThen
  dsimp only
  split_ifs
  · exact (State.changeSource_places _ _ _ _ _).trans (s.changeSource_places _ _ _ _)
  · exact s.changeSource_places _ _ _ _
  · exact s.changeSource_places _ _ _ _
  · exact set _
  · split
    · split
      · exact s.changeSource_places _ _ _ _
      · exact set _
    · split
      · exact s.changeSource_places _ _ _ _
      · exact set _
    · exact set _

theorem State.applyAllSettings_places (s : State) (i : Nat) (l : List SourceSettings) :
    (s.applyAllSettings i l).report.places = s.report.places := by
  induction l generalizing s i with
  | nil => rfl
  | cons n l ih => exact (ih (s.applySettings i n) (i + 1)).trans (s.applySettings_places i n)

theorem State.timingChange_places (s : State) (old new : RefState) (n : Nat) (a b c : Bool) :
    (s.timingChange old new n a b c).report.places = s.report.places := by
  unfold State.timingChange
  rw [(State.raise_only _ _).places, State.handEvent_places]

theorem State.applyRate_places (s : State) (rate : WallRate) (lead : Nat) :
    (s.applyRate rate lead).report.places = s.report.places := by
  unfold State.applyRate State.andThen
  dsimp only
  split_ifs
  · exact (s.setTiming_only _).places
  · exact (s.setTiming_only _).places
  · rw [State.timingChange_places]
    exact (s.setTiming_only _).places

/-! The build replaced, its takes the same or none. -/

/-- The takes keep their slots, and a build of the same takes stands where one stood. -/
theorem State.takesOk.rebuild (ok : s.takesOk) (slots : t.takes.slots = s.takes.slots)
    (hc : t.takes.checking = s.takes.checking) (hh : t.takes.toHandle = s.takes.toHandle)
    (hp : t.report.places = s.report.places) (hm : t.modes = s.modes) (list : t.buildSlots = s.buildSlots)
    (hb : t.composer.build ≠ none → s.composer.build ≠ none)
    (ho : t.composer.fallbackOwed = true → s.composer.fallbackOwed = true) : t.takesOk := by
  have slot (i : Nat) : t.slot i = s.slot i := by unfold State.slot; rw [slots]
  have queue := (Report.places_eq hp).2.2.2
  have finished := State.finished_congr queue
  exact {
    toPlaces := ok.toPlaces.congr (by rw [slots]) (fun i => by rw [slot]) hc hh hp
    mode := ok.mode.congr hm
    passed := by rw [hm, hc, queue]; exact ok.passed
    idle := by simpa only [hm, slot] using ok.idle
    quiescing := by simpa only [hm, slot, finished] using ok.quiescing
    building := by simpa only [slot, finished, list] using ok.building
    takeList := by rw [list]; exact ok.takeList
    build := fun h => by rw [hm]; exact ok.build (hb h)
    owed := fun h => by by_contra hn; exact hb hn (ok.owed (ho h)) }

/-- The composer's layouts change, the takes do not. -/
theorem State.takesOk.ofComposer {l : List Part} (ok : s.takesOk) (h : OnlyChanges l s t)
    (list : t.buildSlots = s.buildSlots) (hb : t.composer.build ≠ none → s.composer.build ≠ none)
    (ho : t.composer.fallbackOwed = true → s.composer.fallbackOwed = true) (hp : t.report.places = s.report.places)
    (hm : Part.modes ∉ l := by decide) (ht : Part.takes ∉ l := by decide) : t.takesOk :=
  have takes := h.takes_eq ht
  ok.rebuild (by rw [takes]) (by rw [takes]) (by rw [takes]) hp (h.modes_eq hm) list hb ho

theorem State.buildSlots_some {b : BuildRecord} (h : s.composer.build = some b) : s.buildSlots = b.takes.map (·.slot) := by
  unfold State.buildSlots
  rw [h]

theorem State.checkNext_slots (s : State) (b : BuildRecord) {l : List BuildTake}
    {r : List BuildTake × Layout × List (Nat × Word)} (h : s.checkNext b l = some r) : r.1.map (·.slot) = l.map (·.slot) := by
  induction l generalizing r with
  | nil => cases h
  | cons k l ih =>
    unfold State.checkNext at h
    split at h
    · obtain ⟨q, hq, rfl⟩ := Option.map_eq_some_iff.1 h
      exact congrArg (k.slot :: ·) (ih hq)
    · cases h
      rfl

theorem State.checkBuildTake_takesOk {b : BuildRecord} (ok : s.takesOk) (hb : s.composer.build = some b) :
    (s.checkBuildTake b).takesOk := by
  have read : s.ctlRead.takesOk := ok.goOn (s.ctlRead_only.goesOn s.ctlRead_only.places)
  have build : s.ctlRead.composer.build = some b := by rw [s.ctlRead_only.composer_eq]; exact hb
  unfold State.checkBuildTake State.andThen
  generalize s.ctlRead = v at *
  dsimp only
  split
  · exact read
  · next r hr =>
    have composer : ((v.setBuild (some { b with takes := r.1, draft := r.2.1, inTake := none, named := r.2.2 })).modTakes
        (fun te => { te with behindBuild := false })).composer =
        { v.composer with build := some { b with takes := r.1, draft := r.2.1, inTake := none, named := r.2.2 } } := rfl
    refine read.rebuild rfl rfl rfl rfl rfl ?_ (fun _ => by simp [build]) (by rw [composer]; exact id)
    rw [State.buildSlots_some (congrArg Composer.build composer), State.buildSlots_some build]
    exact v.checkNext_slots b hr

theorem State.grantTo_takesOk (m : Master) (ok : s.takesOk) : (s.grantTo m).takesOk := by
  have frame := s.grantTo_only m
  have places : (s.grantTo m).report.places = s.report.places := by
    cases m with
    | exchangePort => rfl
    | ringWriter => exact s.ringGrant_places
    | commitWriter => exact s.commitGrant_only.places
    | takeReader => exact s.readerGrant_only.places
    | statusWriter => exact s.statusGrant_only.places
  rcases s.grantTo_composer m with h | ⟨b, k, e, hb, h⟩
  · exact ok.ofComposer frame (State.buildSlots_congr (by rw [h])) (by rw [h]; exact id) (by rw [h]; exact id) places
  · refine ok.ofComposer frame ?_ (fun _ => by simp [hb]) (by rw [h]; exact id) places
    rw [State.buildSlots_some (congrArg Composer.build h), State.buildSlots_some hb]

theorem State.buildComplete_takesOk {b : BuildRecord} (ok : s.takesOk) (hb : s.composer.build = some b) (st : BuildStatus)
    (d : Layout) : (s.setBuild (some { b with status := st, draft := d })).takesOk := by
  refine ok.ofComposer (s.setBuild_only _) ?_ (fun _ => by simp [hb]) id (s.setBuild_only _).places
  rw [State.buildSlots_some (b := { b with status := st, draft := d }) rfl, State.buildSlots_some hb]

theorem State.changeSource_takesOk (i : Nat) (r : SourceRec) (g a : Bool) (ok : s.takesOk) :
    (s.changeSource i r g a).takesOk := by
  obtain ⟨-, build, owed, -⟩ := Composer.layouts_eq (s.changeSource_layouts i r g a)
  exact ok.ofComposer (s.changeSource_only i r g a) (State.buildSlots_congr build) (by rw [build]; exact id)
    (by rw [owed]; exact id) (s.changeSource_places i r g a)

/-! The mode controller's other fields. -/

/-- The mode and the progress of an activation stay as they are. -/
theorem State.takesOk.sameMode {l : List Part} (ok : s.takesOk) (h : OnlyChanges l s t) (modeOk : t.modeOk)
    (hm : t.modes.mode = s.modes.mode) (hg : t.modes.progress = s.modes.progress) (hp : t.report.places = s.report.places)
    (ht : Part.takes ∉ l := by decide) (hc : Part.composer ∉ l := by decide) : t.takesOk := by
  have takes := h.takes_eq ht
  have composer := h.composer_eq hc
  refine ok.move modeOk takes hp (by rw [composer]) (by rw [composer]; exact ok.owed) ?_ ?_ ?_ ?_
  · rw [hg, takes, (Report.places_eq hp).2.2.2]; exact ok.passed
  · rw [hm]; exact ok.idle
  · rw [hm]; exact ok.quiescing
  · rw [hm, composer]; exact ok.build

/-! The boundary. -/

/-- What a boundary leaves: the invariant, and no build (R61, R65, R140). -/
def State.settled (s : State) : Prop := s.takesOk ∧ s.composer.build = none

theorem State.fallbackCommit_settled (n : Word) (ok : s.takesOk) (ho : s.composer.fallbackOwed = true) :
    (s.fallbackCommit n).settled := by
  obtain ⟨-, build, owed, -⟩ := Composer.layouts_of (s.fallbackCommit_layouts n)
  refine ⟨ok.ofComposer (s.fallbackCommit_only n) (State.buildSlots_congr build) (by rw [build]; exact id) ?_
    (s.fallbackCommit_only n).places, by rw [build]; exact ok.owed ho⟩
  rw [owed]
  exact fun h => by cases h

/-- The journal entry of a take of a build, from its slot (R62). -/
def TakeEngine.builtEntry (e : TakeEngine) (n : Word) (t : BuildTake) : JournalEntry :=
  let r := t.result.getD ⟨false, .none, none, none⟩
  let q := e.slots.getD t.slot SlotRec.empty
  { slot := t.slot, outcome := if r.applied then .applied else .rejected, reason := r.reason, failedEntry := r.failedEntry,
    failedTile := r.failedTile, cancelLate := q.cancelRequested, driverTag := q.header.driverTag, seq := q.seq, frame := some n }

theorem State.finishBuilt_eq (s : State) (n : Word) (t : BuildTake) :
    s.finishBuilt n t = s.handAll [s.takes.builtEntry n t] := rfl

theorem State.finishBuilt_foldl (s : State) (n : Word) (l : List BuildTake) :
    l.foldl (fun s t => s.finishBuilt n t) s = s.handAll (l.map (s.takes.builtEntry n)) :=
  handAll_foldl _ (fun e t => e.builtEntry n t) (fun s t => s.finishBuilt_eq n t) l s

theorem TakeEngine.builtEntry_slots (e : TakeEngine) (n : Word) (l : List BuildTake) :
    (l.map (e.builtEntry n)).map (·.slot) = l.map (·.slot) := by
  rw [List.map_map]
  rfl

theorem State.commitBuild_settled {b : BuildRecord} (n : Word) (ok : s.takesOk) (hb : s.composer.build = some b) :
    (s.commitBuild b n).settled := by
  obtain ⟨-, build, -, -⟩ := Composer.layouts_of (s.commitBuild_layouts b n)
  have frame := s.commitBuild_only b n
  refine ⟨ok.finishBuild (es := b.takes.map (s.takes.builtEntry n)) ?_ frame.takes_eq ?_ frame.modes_eq build, build⟩
  · rw [s.takes.builtEntry_slots, State.buildSlots_some hb]
  · unfold State.commitBuild State.andThen
    dsimp only
    rw [(State.layoutReplaced_only _).places, State.handEvents_places, State.finishBuilt_foldl]
    rfl

theorem State.overrunBuild_settled (b : BuildRecord) (n : Word) (ok : s.takesOk) : (s.overrunBuild b n).settled := by
  obtain ⟨-, build, -, -⟩ := Composer.layouts_of (s.overrunBuild_layouts b n)
  refine ⟨?_, build⟩
  have gone := congrArg Composer.build (s.discardedAtOverrun_composer n)
  have ended : (if s.modes.mode = .quiescing then (s.cancelTakes s.buildSlots (some n)).setBuild none
      else s.discardBuild (some n)).takesOk := by
    split
    · refine ok.finishBuild (es := s.buildSlots.map (fun i => s.entryOf i (plainOutcome .cancelled) false (some n)))
        (map_slot_map (fun _ => rfl)) ?_ ?_ ?_ rfl
      · rw [(State.setBuild_only _ _).takes_eq, (s.cancelTakes_only _ _).takes_eq]
      · rw [(State.setBuild_only _ _).places, State.cancelTakes_eq]
      · rw [(State.setBuild_only _ _).modes_eq, (s.cancelTakes_only _ _).modes_eq]
    · next h => exact State.discardBuild_takesOk _ ok h
  unfold State.overrunBuild State.andThen
  dsimp only
  generalize (if s.modes.mode = .quiescing then (s.cancelTakes s.buildSlots (some n)).setBuild none
      else s.discardBuild (some n)) = v at ended gone ⊢
  have counted (e : Event) (k : Nat) : ((v.modComposer (fun co => { co with overruns := k })).handEvent e).takesOk ∧
      ((v.modComposer (fun co => { co with overruns := k })).handEvent e).composer.build = none := by
    have frame : OnlyChanges [.interrupt, .rings, .causes, .composer] v
        ((v.modComposer (fun co => { co with overruns := k })).handEvent e) :=
      ((v.modComposer_only _).mono (by decide)).next (State.handEvent_only _ e) (by decide)
    have composer := ((v.modComposer (fun co => { co with overruns := k })).handEvent_only e).composer_eq
    have noBuild : ((v.modComposer (fun co => { co with overruns := k })).handEvent e).composer.build = none := by
      rw [composer]; exact gone
    refine ⟨ended.ofComposer frame (State.buildSlots_congr (by rw [composer]; rfl)) (fun h => absurd noBuild h) ?_
      (State.handEvent_places _ e), noBuild⟩
    rw [composer]
    exact id
  have raised (e : Event) (k : Nat) : (((v.modComposer (fun co => { co with overruns := k })).handEvent e).raise
      .overrun).takesOk := (State.raise_only _ _).takesOk (counted e k).1 (State.raise_only _ _).places
  split
  · next h =>
    refine State.enterHold_takesOk _ (raised _ _) h.1 ?_
    rw [(State.raise_only _ _).composer_eq]
    exact (counted _ _).2
  · exact raised _ _

/-- Entries written before a capture finish nothing: every slot is IDLE, and nothing is in hand (R135, R163). -/
theorem State.rateInForce_takes (s : State) (c : Captured) : (s.rateInForce c).takes = s.ringsDone.takes.clearRefusals := by
  unfold State.rateInForce State.andThen
  dsimp only
  rw [(State.applyRate_only _ _ _).takes_eq]
  rfl

theorem State.rateInForce_places (s : State) (c : Captured) :
    (s.rateInForce c).report.places = ((c.journal.capacity, 0, 0), []) := by
  unfold State.rateInForce State.andThen
  dsimp only
  rw [State.applyRate_places]
  rfl

theorem State.captureConfig_places (s : State) (c : Captured) (plan : List WindowRec) (n : Word) :
    (s.captureConfig c plan n).report.places = ((c.journal.capacity, 0, 0), []) := by
  rw [State.captureConfig_eq, State.andThen, (State.startSupervision_places), State.moveMode_places,
    (State.raise_only _ _).places, (s.layoutInForce_only c plan n).places]
  unfold State.settingsInForce State.andThen
  rw [(State.setInternalRate_only _ _).places, State.applyAllSettings_places, State.rateInForce_places]

theorem State.captureConfig_takes (s : State) (c : Captured) (plan : List WindowRec) (n : Word) :
    (s.captureConfig c plan n).takes = s.ringsDone.takes.clearRefusals := by
  rw [(s.captureConfig_ends_only c plan n).takes_eq, (s.layoutInForce_only c plan n).takes_eq,
    (s.settingsInForce_only c).takes_eq, State.rateInForce_takes]

theorem TakeEngine.clearRefusals_state (e : TakeEngine) (i : Nat) :
    (e.clearRefusals.slots.getD i SlotRec.empty).state = (e.slots.getD i SlotRec.empty).state := by
  simp only [TakeEngine.clearRefusals, List.getD_eq_getElem?_getD, List.getElem?_map]
  cases e.slots[i]? <;> rfl

theorem State.captureConfig_settled {c : Captured} {plan : List WindowRec} (n : Word) (ok : s.takesOk)
    (hp : s.modes.progress = .passed c plan) (hq : (s.captureConfig c plan n).modeOk) :
    (s.captureConfig c plan n).settled := by
  have activating := Progress.activating_of_passed ok.mode hp
  have noBuild := ok.build_none (by rw [activating]; rfl)
  obtain ⟨-, build, owed, -⟩ := Composer.layouts_of (s.captureConfig_layouts c plan n)
  obtain ⟨timer, modes⟩ := s.captureConfig_modes c plan n
  have written : s.ringsDone.takesOk := ok.goOn State.ringsDone_goesOn
  obtain ⟨-, g⟩ := State.ringsDone_goesOn ok.toPlaces
  obtain ⟨checking, -⟩ := g.handed (by rw [activating]; rfl) (ok.passed c plan hp).1
  have idle := g.idle (by rw [activating]; rfl)
  have wasIdle := ok.idle (by rw [activating]; rfl)
  have takes := s.captureConfig_takes c plan n
  have places := s.captureConfig_places c plan n
  have build : (s.captureConfig c plan n).composer.build = none := build.trans noBuild
  generalize s.captureConfig c plan n = w at *
  have slot (i : Nat) : (w.slot i).state = .idle := by
    unfold State.slot
    rw [takes, TakeEngine.clearRefusals_state]
    exact idle i (wasIdle i)
  have checking : w.takes.checking = none := by rw [takes]; exact checking
  have count : w.busyCount = 0 := State.busyCount_eq_zero (fun i _ => slot i)
  have slots : w.buildSlots = [] := by simp [State.buildSlots, build]
  simp only [Report.places, Prod.mk.injEq] at places
  obtain ⟨⟨-, fill, reserved⟩, queue⟩ := places
  refine ⟨?_, build⟩
  exact {
    slots := by rw [takes]; exact (List.length_map _).trans written.slots
    reserved := by rw [reserved, count, checking]; rfl
    room := by rw [fill, reserved]; exact Nat.zero_le _
    once := by rw [queue]; exact List.nodup_nil
    busy := by rw [queue]; exact fun e he => absurd he List.not_mem_nil
    checking := by rw [checking]; exact fun i h => by cases h
    inHand := fun _ => by rw [takes]; exact written.inHand (by rw [takes] at checking; exact checking)
    named := by rw [takes]; exact written.named
    mode := hq
    passed := by rw [modes]; exact fun c p h => by cases h
    idle := fun _ => slot
    quiescing := by rw [modes]; exact fun h => by cases h
    building := fun i => by simp [slots, slot]
    takeList := by rw [slots]; exact List.nodup_nil
    build := fun h => absurd build h
    owed := fun _ => build }

theorem State.boundary_settled (ok : s.takesOk) : s.boundary.settled := by
  refine s.boundary_from (P := State.takesOk) (Q := State.settled) ((s.setTiming_only _).takesOk ok (s.setTiming_only _).places)
    (fun u n ok => ?_) (fun u hm ⟨ok, noBuild⟩ => ?_) (fun u v h _ _ ⟨ok, noBuild⟩ =>
      ⟨h.takesOk ok h.places, by rw [h.composer_eq]; exact noBuild⟩)
  · exact u.composerBoundary_cases n (State.fallbackCommit_settled n ok)
      (fun c plan _ _ hp => State.captureConfig_settled n ok hp (State.captureConfig_modeOk ok.mode hp n))
      (fun b _ hb _ => State.commitBuild_settled n ok hb) (fun b _ _ _ => State.overrunBuild_settled b n ok)
      (fun _ noBuild => ⟨ok, noBuild⟩)
  · exact ⟨State.quiesceDone_takesOk ok hm noBuild (State.quiesceDone_modeOk ok.mode hm),
      by rw [u.quiesceDone_only.composer_eq]; exact noBuild⟩

end Sys2Proof.Machine
end

section
-- Many short proofs follow one another: taken one at a time they need one thread's memory, not one's for each.
set_option Elab.async false
/-! PROOF. Every step keeps the journal's places, concluded. -/

namespace Sys2Proof.Machine

variable {s t u : State}

/-! The resets. -/

/-- With every slot IDLE and nothing in hand there is a place for each take. -/
theorem State.takesOk.ofIdle (ht : t.takes = TakeEngine.reset) (hm : t.modeOk) (hp : t.modes.progress = .none)
    (hq : t.modes.mode ≠ .quiescing) (hb : t.composer.build = none) (hf : t.report.journal.fill = 0)
    (hr : t.report.journal.reserved = 0) (hj : t.report.journalQueue = []) : t.takesOk := by
  have slot (i : Nat) : (t.slot i).state = .idle := by
    unfold State.slot
    rw [ht, TakeEngine.reset, List.getD_eq_getElem?_getD]
    simp only [List.getElem?_replicate]
    split <;> rfl
  have count : t.busyCount = 0 := State.busyCount_eq_zero (fun i _ => slot i)
  have slots : t.buildSlots = [] := by simp [State.buildSlots, hb]
  exact {
    slots := by rw [ht]; rfl
    reserved := by rw [hr, count, ht]; rfl
    room := by rw [hf, hr]; exact Nat.zero_le _
    once := by rw [hj]; exact List.nodup_nil
    busy := by rw [hj]; exact fun e he => absurd he List.not_mem_nil
    checking := by rw [ht]; exact fun i h => by cases h
    inHand := fun _ => by rw [ht]; rfl
    named := by rw [ht]; exact fun i h => absurd h List.not_mem_nil
    mode := hm
    passed := by rw [hp]; exact fun c p h => by cases h
    idle := fun _ => slot
    quiescing := fun h => absurd h hq
    building := fun i => by simp [slots, slot]
    takeList := by rw [slots]; exact List.nodup_nil
    build := fun h => absurd hb h
    owed := fun _ => hb }

theorem State.rewriteSections_report (s : State) : s.rewriteSections.report = s.report := by
  unfold State.rewriteSections
  split <;> rfl

theorem State.softReset_takesOk (hm : s.softReset.modeOk) : s.softReset.takesOk := by
  have report : s.softReset.report = s.report.softReset s.map.isSome :=
    State.rewriteSections_report _
  refine .ofIdle s.softReset_takes hm (by rw [State.softReset_modes]; rfl) (by rw [State.softReset_modes]; simp [ModeCtl.softReset])
    (by rw [State.softReset_composer]; rfl) ?_ ?_ ?_ <;> rw [report] <;> rfl

theorem State.powerOn_takesOk (hm : s.powerOn.modeOk) : s.powerOn.takesOk :=
  .ofIdle rfl hm rfl (by simp [State.powerOn, State.andThen, State.modModes, State.setModes, State.modPort, State.setPort,
      State.setFreeIdx, State.setPending, State.reset, ModeCtl.reset]) rfl rfl rfl rfl

/-- The takes of every busy slot finish ABANDONED, and a build is left without takes (R46, R73). -/
theorem State.takesOk.abandonBusy (ok : s.takesOk) : (s.abandonTakes s.busySlots).restartBuild.takesOk := by
  have frame := (s.abandonTakes s.busySlots).restartBuild_only
  have abandoned := s.abandonTakes_only s.busySlots
  have report : (s.abandonTakes s.busySlots).restartBuild.report.places = (s.handAll (s.busySlots.map (fun i =>
      s.entryOf i (plainOutcome .abandoned) (s.slot i).cancelRequested none))).report.places := by
    rw [frame.places, State.abandonTakes_eq]
  have takes : (s.abandonTakes s.busySlots).restartBuild.takes = s.takes := by rw [frame.takes_eq, abandoned.takes_eq]
  have modes : (s.abandonTakes s.busySlots).restartBuild.modes = s.modes := by rw [frame.modes_eq, abandoned.modes_eq]
  have before : (s.abandonTakes s.busySlots).composer = s.composer := abandoned.composer_eq
  have build : ((s.abandonTakes s.busySlots).restartBuild.composer.build ≠ none → s.composer.build ≠ none) ∧
      (s.abandonTakes s.busySlots).restartBuild.buildSlots = [] ∧
      (s.abandonTakes s.busySlots).restartBuild.composer.fallbackOwed = s.composer.fallbackOwed := by
    rcases (s.abandonTakes s.busySlots).restartBuild_composer with ⟨hb, h⟩ | ⟨b, hb, h⟩
    · rw [before] at hb
      rw [h, before, State.buildSlots, before, hb]
      exact ⟨id, rfl, rfl⟩
    · rw [before] at hb
      rw [State.buildSlots, h, before, hb]
      exact ⟨fun _ => by simp, rfl, rfl⟩
  generalize (s.abandonTakes s.busySlots).restartBuild = v at *
  have slot := State.slot_congr takes
  have handed := ok.toPlaces.entries (l := s.busySlots) (f := fun i => s.entryOf i (plainOutcome .abandoned)
    (s.slot i).cancelRequested none) (fun _ => rfl) s.busySlots_nodup (fun i hi => (State.busySlots_mem.1 hi).2)
  have finished (i : Nat) : v.finished i = (s.finished i || decide (i ∈ s.busySlots)) := by
    rw [State.finished_congr (Report.places_eq report).2.2.2]
    exact s.finished_entries _ (fun _ => rfl) i
  obtain ⟨stays, slots, owed⟩ := build
  refine { toPlaces := handed.congr (by rw [takes]; rfl) (fun i => by rw [slot]; rfl) (by rw [takes]; rfl) (by rw [takes]; rfl)
             report, mode := ok.mode.congr modes, passed := fun c p h => ?_, idle := by simpa only [modes, slot] using ok.idle,
           quiescing := fun h i hi => ?_, building := fun i => ?_, takeList := by rw [slots]; exact List.nodup_nil,
           build := fun h => by rw [modes]; exact ok.build (stays h), owed := fun h => ?_ }
  · rw [modes] at h
    obtain ⟨hc, hq⟩ := ok.passed c p h
    have none : s.busySlots = [] := List.eq_nil_iff_forall_not_mem.2 (fun i hi => (State.busySlots_mem.1 hi).2.1
      (ok.idle (by rw [Progress.activating_of_passed ok.mode h]; rfl) i))
    rw [takes, (Report.places_eq report).2.2.2, none]
    exact ⟨hc, by rw [List.map_nil, State.handAll_nil]; exact hq⟩
  · rw [slot] at hi
    rw [modes] at h
    rw [finished, ok.quiescing h i hi]
    rfl
  · rw [slots, slot, finished, Bool.or_eq_false_iff, decide_eq_false_iff_not, State.busySlots_mem]
    refine ⟨fun ⟨hb, hf, hn⟩ => absurd ⟨?_, by simp [hb], hf⟩ hn, fun h => absurd h List.not_mem_nil⟩
    rw [ok.slots]
    exact ok.buildSlot_lt ((ok.building i).1 ⟨hb, hf⟩)
  · rw [owed] at h
    by_contra hn
    exact stays hn (ok.owed h)

theorem State.linkReset_takesOk (ok : s.takesOk) : s.linkReset.takesOk := by
  rw [State.linkReset_eq]
  dsimp only
  have reset : (s.setPort s.port.linkReset).takesOk := ok.congr rfl rfl rfl rfl id
  have posts : ((s.setPort s.port.linkReset).completePosts (2 * (s.takes.toHandle.length + 1))).takesOk :=
    reset.goOn (State.completePosts_goesOn _)
  generalize (s.setPort s.port.linkReset).completePosts (2 * (s.takes.toHandle.length + 1)) = u at *
  have fields : (u.modModes (fun mo => { mo with permit := false, intEnable := false })).takesOk :=
    posts.sameMode (u.modModes_only _) (posts.mode.timer posts.mode.supervision rfl) rfl rfl rfl
  have frame := State.clearInterrupt_only (u.modModes (fun mo => { mo with permit := false, intEnable := false }))
  exact (frame.takesOk fields frame.places).abandonBusy

/-! Every move. -/

theorem OnlyChanges.takesOk_of_not_rings {l : List Part} (h : OnlyChanges l s t) (ok : s.takesOk)
    (ht : Part.takes ∉ l := by decide) (hm : Part.modes ∉ l := by decide) (hc : Part.composer ∉ l := by decide)
    (hr : Part.rings ∉ l := by decide) : t.takesOk := h.takesOk ok (h.places hr) ht hm hc

theorem Work.takesOk (h : Work s t) (ok : s.takesOk) (planned : s.composer.build ≠ none → s.timing.planDone = true) :
    t.takesOk := by
  have modeOk := h.modeOk ok.mode
  cases h with
  | pending q => exact (s.setPending_only q).takesOk_of_not_rings ok
  | clock t => exact (s.setNow_only t).takesOk_of_not_rings ok
  | freeIdx n => exact (s.setFreeIdx_only n).takesOk_of_not_rings ok
  | completed bs => exact (s.complete_only bs).takesOk_of_not_rings ok
  | raise c => exact (s.raise_only c).takesOk_of_not_rings ok
  | event e => exact (s.handEvent_only e).takesOk ok (s.handEvent_places e)
  | serve => exact ok.sameMode s.serve_only modeOk (by rw [s.serve_modes]) (by rw [s.serve_modes]) s.serve_only.places
  | runRequest => exact State.runRequest_takesOk ok
  | holdRequest => exact State.holdRequest_takesOk ok
  | fallbackRequest => exact State.fallbackRequest_takesOk ok
  | quiesceRequest => exact State.quiesceRequest_takesOk ok
  | configRequest => exact State.configRequest_takesOk ok
  | posts mask h => exact ok.goOn (State.handlePosts_goesOn mask h)
  | cancels mask => exact ok.goOn (State.cancelSlots_goesOn _)
  | continuePosts h => exact ok.goOn (State.continuePosts_goesOn h)
  | release r n => exact ok.goOn (State.releaseRing_goesOn r n)
  | ctlRead => exact s.ctlRead_only.takesOk_of_not_rings ok
  | commitDone => exact s.commitDone_only.takesOk_of_not_rings ok
  | readingDone =>
    exact ok.sameMode (l := [.modes, .holdArea]) (((s.modModes_only _).mono (by decide)).next (State.modPort_holdArea _ none) (by decide)) modeOk rfl rfl rfl
  | checksComplete image h hc => exact State.checksComplete_takesOk ok h hc
  | checkBuildTake b h hr => exact State.checkBuildTake_takesOk ok h
  | buildComplete b h hr hc => exact State.buildComplete_takesOk ok h _ _
  | writeSection n => exact (s.writeSection_only n).takesOk_of_not_rings ok
  | completeMirror m => exact (s.completeMirror_only m).takesOk_of_not_rings ok
  | publishSource m i => exact (s.publishSource_only m i).takesOk_of_not_rings ok
  | copySlotPart m p => exact (s.copySlotPart_only m p).takesOk_of_not_rings ok
  | writeEntry r => exact ok.goOn (State.writeEntry_goesOn r)
  | flushRing r => exact ok.goOn (State.flushRing_goesOn r)
  | grant m => exact State.grantTo_takesOk m ok
  | planPoint h =>
    refine State.planPoint_takesOk ok ?_
    by_contra hb
    rw [planned hb] at h
    cases h
  | boundary => exact (State.boundary_settled ok).1
  | timing v h => exact (s.setTiming_only v).takesOk_of_not_rings ok
  | setSource i r hr hs => exact (s.setSource_only i r).takesOk_of_not_rings ok
  | changeSource i r g hr hs => exact State.changeSource_takesOk i r g false ok
  | supervisionFallback h => exact State.enterFallback_takesOk _ ok modeOk

/-- A build stands only once the frame's plan point has come (R48, R50). -/
def State.buildPlanned (s : State) : Prop := s.composer.build ≠ none → s.timing.planDone = true

theorem OnlyChanges.buildPlanned {l : List Part} (h : OnlyChanges l s t) (ok : s.buildPlanned)
    (hb : t.composer.build ≠ none → s.composer.build ≠ none) (ht : Part.timing ∉ l := by decide) : t.buildPlanned :=
  fun hn => by rw [h.timing_eq ht]; exact ok (hb hn)

theorem OnlyChanges.keepsBuild {l : List Part} (h : OnlyChanges l s t) (ok : s.buildPlanned)
    (hc : Part.composer ∉ l := by decide) (ht : Part.timing ∉ l := by decide) : t.buildPlanned :=
  h.buildPlanned ok (by rw [h.composer_eq hc]; exact id) ht

theorem State.planPoint_planDone (s : State) : s.planPoint.timing.planDone = true := by
  unfold State.planPoint State.andThen
  dsimp only
  split
  · rw [(State.gatherAndBuild_only _ _).timing_eq]
    rfl
  · rfl

theorem State.discardBuild_none (s : State) (f : Option Word) : (s.discardBuild f).composer.build = none := by
  rw [State.discardBuild_composer]

theorem State.holdRequest_build (s : State) : s.holdRequest.composer.build ≠ none → s.composer.build ≠ none := by
  unfold State.holdRequest
  split
  · exact id
  · rw [State.enterHold_composer, State.discardBuild_composer]
    exact fun h => absurd rfl h
  · exact id
  all_goals exact id

theorem State.fallbackRequest_build (s : State) : s.fallbackRequest.composer.build ≠ none → s.composer.build ≠ none := by
  have none (r : Trigger) : (s.enterFallback r).composer.build ≠ none → s.composer.build ≠ none := by
    rw [State.enterFallback_composer]
    exact fun h => absurd rfl h
  unfold State.fallbackRequest
  split
  · exact id
  · exact none _
  · exact none _
  · exact none _
  all_goals exact id

theorem State.configRequest_build (s : State) : s.configRequest.composer.build = s.composer.build := by
  have failed := s.failRequest_only.composer_eq
  have quiescing : (s.failRequest.enterQuiescing .redirect).composer.build = s.composer.build := by
    rw [(State.enterQuiescing_only _ _).composer_eq, failed]
  unfold State.configRequest
  split
  · rfl
  · rfl
  · rw [(State.endActivation_only _ _).composer_eq]
  · exact quiescing
  · exact quiescing
  · exact quiescing
  · rw [failed]
  · rw [(Composer.layouts_of (State.clearLayoutForConfig_layouts _)).2.1, (State.moveMode_only _ _ _).composer_eq]

theorem Work.buildPlanned (h : Work s t) (ok : s.takesOk) (planned : s.buildPlanned) : t.buildPlanned := by
  cases h with
  | pending q => exact planned
  | clock t => exact planned
  | freeIdx n => exact planned
  | completed bs => exact planned
  | raise c => exact (s.raise_only c).keepsBuild planned
  | event e => exact (s.handEvent_only e).keepsBuild planned
  | serve => exact s.serve_only.keepsBuild planned
  | runRequest =>
    exact s.runRequest_only.buildPlanned planned (by rw [(Composer.layouts_eq s.runRequest_layouts).2.1]; exact id)
  | holdRequest => exact s.holdRequest_only.buildPlanned planned s.holdRequest_build
  | fallbackRequest => exact s.fallbackRequest_only.buildPlanned planned s.fallbackRequest_build
  | quiesceRequest => exact s.quiesceRequest_only.keepsBuild planned
  | configRequest => exact s.configRequest_only.buildPlanned planned (by rw [s.configRequest_build]; exact id)
  | posts mask h => exact (s.handlePosts_only _).keepsBuild planned
  | cancels mask => exact (s.cancelSlots_only _).keepsBuild planned
  | continuePosts h => exact s.continuePosts_only.keepsBuild planned
  | release r n => exact (s.releaseRing_only r n).keepsBuild planned
  | ctlRead => exact s.ctlRead_only.keepsBuild planned
  | commitDone => exact s.commitDone_only.keepsBuild planned
  | readingDone => exact planned
  | checksComplete image h hc => exact (s.checksComplete_only image).keepsBuild planned
  | checkBuildTake b h hr => exact (s.checkBuildTake_only b).buildPlanned planned (fun _ => by simp [h])
  | buildComplete b h hr hc => exact (s.setBuild_only _).buildPlanned planned (fun _ => by simp [h])
  | writeSection n => exact (s.writeSection_only n).keepsBuild planned
  | completeMirror m => exact (s.completeMirror_only m).keepsBuild planned
  | publishSource m i => exact (s.publishSource_only m i).keepsBuild planned
  | copySlotPart m p => exact (s.copySlotPart_only m p).keepsBuild planned
  | writeEntry r => exact (s.writeEntry_only r).keepsBuild planned
  | flushRing r => exact (s.flushRing_only r).keepsBuild planned
  | grant m =>
    refine (s.grantTo_only m).buildPlanned planned ?_
    rcases s.grantTo_composer m with h | ⟨b, k, e, hb, -⟩
    · rw [h]; exact id
    · exact fun _ => by simp [hb]
  | planPoint h => exact fun _ => s.planPoint_planDone
  | boundary => exact fun h => absurd (State.boundary_settled ok).2 h
  | timing v h => exact fun hb => h.trans (planned hb)
  | setSource i r hr hs => exact (s.setSource_only i r).keepsBuild planned
  | changeSource i r g hr hs =>
    exact (s.changeSource_only i r g false).buildPlanned planned
      (by rw [(Composer.layouts_eq (s.changeSource_layouts i r g false)).2.1]; exact id)
  | supervisionFallback h =>
    refine (s.enterFallback_only _).buildPlanned planned ?_
    rw [State.enterFallback_composer]
    exact fun h => absurd rfl h

theorem Move.takesOk (h : Move s t) (ok : s.takesOk) (planned : s.buildPlanned) : t.takesOk ∧ t.buildPlanned := by
  have modeOk := h.modeOk ok.mode
  cases h with
  | work w => exact ⟨w.takesOk ok planned, w.buildPlanned ok planned⟩
  | queue q h => exact ⟨(s.setWaiting_only q).takesOk_of_not_rings ok, planned⟩
  | taken i h =>
    have frame := (takeRamAccess_only i (s.setWaiting []))
    exact ⟨frame.takesOk_of_not_rings ((s.setWaiting_only []).takesOk_of_not_rings ok), frame.keepsBuild planned⟩
  | part first rest r h =>
    have frame := servePart_only first s
    exact ⟨(State.setWaiting_only _ _).takesOk_of_not_rings (frame.takesOk_of_not_rings ok), frame.keepsBuild planned⟩
  | causes v => exact ⟨(s.setCauses_only v).takesOk_of_not_rings ok, planned⟩
  | enables v => exact ⟨(s.takeCauseenWrite_only v).takesOk_of_not_rings ok, planned⟩
  | fields p i => exact ⟨ok.sameMode (s.modectl_only false p i) modeOk rfl rfl rfl, planned⟩
  | softReset h =>
    refine ⟨State.softReset_takesOk modeOk, fun hb => ?_⟩
    rw [State.softReset_composer] at hb
    exact absurd rfl hb
  | powerOn => exact ⟨State.powerOn_takesOk modeOk, fun hb => absurd rfl hb⟩
  | clearDone h =>
    have noBuild := ok.build_none (by rw [h]; rfl)
    refine ⟨ok.moveModes (l := [.ram, .lastServed, .modes])
      ((((s.setRam_only []).mono (by decide)).next (State.setLastServed_only _ _) (by decide)).next (State.setMode_only _ _)
        (by decide)) modeOk rfl rfl (fun _ => by rw [h]; rfl) (fun hq => by cases hq)
      (fun _ => noBuild)
      (fun c p => ok.mode.not_passed (by rw [h]; decide)), planned⟩
  | linkReset =>
    refine ⟨State.linkReset_takesOk ok, s.linkReset_only.buildPlanned planned ?_⟩
    rcases s.linkReset_composer with ⟨-, h⟩ | ⟨b, u, hb, -⟩
    · rw [h]; exact id
    · exact fun _ => by simp [hb]
  | switches p h => exact ⟨(s.setSwitches_only p).takesOk_of_not_rings ok, planned⟩
  | linkReturn => exact ⟨ok.congr rfl rfl rfl rfl id, planned⟩

theorem Move.journalOk (h : Move s t) (ok : s.journalOk) : t.journalOk :=
  let ⟨ok, planned⟩ := s.journalOk_iff.1 ok
  t.journalOk_iff.2 (h.takesOk ok planned)

/-- Settles O7: every move keeps the places, the slots and the build in step; a build stands only between a plan point and the
boundary after it. -/
theorem journalAlwaysHasAPlace : Obligations.JournalAlwaysHasAPlace :=
  fun s t ok h => step_keeps (fun _ _ m ok => m.journalOk ok) s t ok h

end Sys2Proof.Machine
end

section
-- Many short proofs follow one another: taken one at a time they need one thread's memory, not one's for each.
set_option Elab.async false
/-! PROOF. The step, the registers, the invariants at reset, and the commands of one line each (R129, R166 to R175, R186 to R188,
R194). -/

namespace Sys2Proof.Machine

variable {s t : State}

/-! The tick (logs 1 and 44). -/

theorem State.portAsks_empty (h : s.port.waiting = []) : s.portAsks = false := by
  simp [State.portAsks, h]

theorem State.grant_none (h : s.controllerMaster = none) (hw : s.port.waiting = []) : s.grant s.portAsks = none := by
  rw [State.portAsks_empty hw]
  simp [State.grant, h]

theorem State.tick_now (s : State) : s.tick.now = s.now + 1 := by
  unfold State.tick
  split
  · rw [(State.resume_only _).now_eq, (State.grantTo_only _ _).now_eq]
    rfl
  · rw [(State.resume_only _).now_eq]
    rfl

/-- Settles O1: a tick's one grant and the port's queue change neither the clock nor the queue of commands. -/
theorem stepTakesFrontCommand : Obligations.StepTakesFrontCommand := by
  refine ⟨fun s c rest h => ?_, fun s h => ⟨s.tick, ?_, rfl, s.tick_now, ?_, fun hm hw => ?_⟩⟩
  · unfold step
    rw [h]
    rfl
  · unfold step
    rw [h]
  · rw [s.tick_only.pending_eq]
    exact h
  · unfold State.tick
    rw [State.grant_none hm hw]
    dsimp only
    rw [State.resume_idle (s := s.setNow (s.now + 1)) hw]
    exact s.setNow_only _

/-! The registers (R166, R167, R187, R194). -/

theorem Summary.bits_getLsbD (b : Summary) : (List.range 9).map (fun k => b.bits.getLsbD k) =
    [b.journalPending, b.urgentPending, b.routinePending, b.slotsBusy, b.sourceTrouble, b.substituting, b.timingUnlocked,
      b.notRun, b.causePending] := by
  simp only [List.range_succ, List.range_zero, List.nil_append, List.cons_append, List.map_cons, List.map_nil, Summary.bits,
    BitVec.getLsbD_append, BitVec.getLsbD_ofBool]
  simp

/-- The fields of STATUS, each at its place (R194). -/
theorem statusFields (overruns : BitVec 8) (index : BitVec 6) (code : BitVec 4) (ref : BitVec 2) (mode : BitVec 3)
    (bits : BitVec 9) :
    let v : Word := overruns ++ index ++ code ++ ref ++ mode ++ bits
    (∀ k, k < 9 → v.getLsbD k = bits.getLsbD k) ∧ v.extractLsb' 9 3 = mode ∧ v.extractLsb' 12 2 = ref ∧
      v.extractLsb' 14 4 = code ∧ v.extractLsb' 18 6 = index ∧ v.extractLsb' 24 8 = overruns := by
  refine ⟨fun k hk => ?_, ?_, ?_, ?_, ?_, ?_⟩
  · simp only [BitVec.getLsbD_append, hk, if_true]
  all_goals
    refine BitVec.eq_of_getLsbD_eq (fun i hi => ?_)
    rw [BitVec.getLsbD_extractLsb']
    simp only [BitVec.getLsbD_append, hi, decide_true, Bool.true_and]
    split_ifs <;> first | (exfalso; omega) | (congr 1; omega)

/-- A list of all values of a code, each at the place its code names. -/
theorem Mode.atCode (m : Mode) : [Mode.starting, .config, .activating, .run, .hold, .fallback, .quiescing,
    .quiesced][(BitVec.ofNat 3 m.code).toNat]? = some m := by cases m <;> rfl

theorem RefState.atCode (r : RefState) : [RefState.freerun, .locked, .holdover][(BitVec.ofNat 2 r.code).toNat]? = some r := by
  cases r <;> rfl

theorem FailCode.atCode (f : FailCode) : [FailCode.none, .geometry, .rate, .planLead, .ringParam, .sectionRange, .sectionAlign,
    .sectionSize, .sectionOverlap, .sourceParam, .filterParam, .startLayout, .fallbackEntry,
    .fallbackLayout][(BitVec.ofNat 4 f.code).toNat]? = some f := by cases f <;> rfl

theorem State.modectlValue_getLsbD (s : State) (k : Nat) : s.modectlValue.getLsbD k =
    ((decide (k = 8) && s.modes.permit) || (decide (k = 9) && s.modes.intEnable)) := by
  simp only [State.modectlValue, BitVec.getLsbD_append, BitVec.getLsbD_ofBool, BitVec.getLsbD_zero]
  split_ifs <;> grind

theorem State.identValue_eq (s : State) :
    s.identValue = if s.modes.mode = .starting then 0x84412819#32 else 0x84412899#32 := by
  unfold State.identValue State.ready
  split
  · next h => rw [h]; rfl
  · next h => rw [decide_eq_true h]; rfl

theorem State.summary_eq_groups (s : State) : s.summary = {
    journalPending := decide (s.report.journal.fill ≠ 0)
    urgentPending := decide (s.report.urgent.fill ≠ 0)
    routinePending := decide (s.report.routine.fill ≠ 0)
    slotsBusy := s.takes.slots.any (fun r => decide (r.state = .posted ∨ r.state = .building))
    sourceTrouble := (s.composer.live.windows.filter (fun w => w.visible)).any
      (fun w => decide ((s.source w.shown).state ≠ .locked))
    substituting := (s.composer.live.windows.filter (fun w => w.visible)).any
      (fun w => decide (w.sub = .backup ∨ w.sub = .slate))
    timingUnlocked := decide (s.timing.ref ≠ .locked)
    notRun := decide (s.modes.mode ≠ .run)
    causePending := decide (s.report.causes ≠ 0) } := by
  have busy (r : SlotRec) : decide (r.state ≠ .idle) = decide (r.state = .posted ∨ r.state = .building) := by
    cases r.state <;> rfl
  have sub (w : WindowRec) : decide (w.sub ≠ .none) = decide (w.sub = .backup ∨ w.sub = .slate) := by
    cases w.sub <;> rfl
  have indexed (l : List SlotRec) (p : SlotRec → Bool) (k : Nat) : (l.zipIdx k).any (fun r => p r.1) = l.any p := by
    induction l generalizing k with
    | nil => rfl
    | cons r l ih => rw [List.zipIdx_cons, List.any_cons, List.any_cons, ih]
  have cause : (s.report.causes != 0) = decide (s.report.causes ≠ 0) := by
    rw [Bool.eq_iff_iff, bne_iff_ne, decide_eq_true_iff]
  unfold State.summary State.slotsBusy State.sourceTrouble State.substituting
  simp only [Bool.true_and, List.any_filter, ← busy, ← sub, indexed _ (fun r => decide (r.state ≠ .idle)), ← Nat.pos_iff_ne_zero, cause]

theorem State.registerValue_beyond (s : State) {a : Nat} (h : a = 0x0C ∨ a = 0x10 ∨ 0x20 ≤ a) : s.registerValue a = 0 := by
  unfold State.registerValue
  split <;> first | rfl | omega

theorem getLsbD_flags (v : BitVec 14) (k : Nat) : (v.setWidth 32).getLsbD k = (decide (k < 14) && v.getLsbD k) := by
  rw [BitVec.getLsbD_setWidth]
  by_cases h : k < 14
  · simp [h, Nat.lt_trans h]
  · simp [h, BitVec.getLsbD_of_ge v k (Nat.not_lt.1 h)]

/-- Settles O2: STATUS is its six fields in order, each of which is read back at its place. -/
theorem registersAfterPowerOn : Obligations.RegistersAfterPowerOn := by
  refine ⟨by decide, by decide, by decide, by decide, by decide, by decide, by decide, by decide, fun s => ?_⟩
  obtain ⟨bits, mode, ref, code, index, overruns⟩ := statusFields (BitVec.ofNat 8 s.composer.overruns)
    (BitVec.ofNat 6 s.modes.failIndex) (BitVec.ofNat 4 s.modes.failCode.code) (BitVec.ofNat 2 s.timing.ref.code)
    (BitVec.ofNat 3 s.modes.mode.code) s.summary.bits
  refine ⟨s.summary_eq_groups, ?_, ?_, ?_, ?_, index, overruns, s.modectlValue_getLsbD, s.identValue_eq,
    getLsbD_flags s.report.causes, getLsbD_flags s.report.enables, fun a => s.registerValue_beyond⟩
  · rw [← Summary.bits_getLsbD]
    exact List.map_congr_left (fun k hk => bits k (List.mem_range.1 hk))
  · exact mode ▸ s.modes.mode.atCode
  · exact ref ▸ s.timing.ref.atCode
  · exact code ▸ s.modes.failCode.atCode

/-! The invariants at reset. -/

theorem State.reset_modeOk : State.reset.modeOk := by
  constructor <;> simp [State.reset, ModeCtl.reset, Mode.early]

theorem State.reset_takesOk : State.reset.takesOk := by
  refine .ofIdle rfl State.reset_modeOk rfl (fun h => by cases h) rfl rfl rfl rfl

theorem State.reset_interruptOk : State.reset.interruptOk := ⟨rfl, rfl, fun h => by cases h⟩

theorem windowAt_cleared (i : Nat) : windowAt Layout.cleared.windows i = WindowRec.cleared := by
  simp only [windowAt, Layout.cleared, List.getD_eq_getElem?_getD, List.getElem?_replicate]
  split <;> rfl

theorem TableOk.cleared (g : Geometry) (cls : Nat → Nat) : TableOk g cls Layout.cleared.windows := by
  have hidden (i : Nat) : (windowAt Layout.cleared.windows i).visible = false := by rw [windowAt_cleared]; rfl
  have none (k : Nat) : touching g Layout.cleared.windows k = [] := by simp [touching, hidden]
  exact {
    ranks := fun i j h => by rw [hidden] at h; cases h
    onTop := fun i j _ h => by rw [hidden] at h; cases h
    layers := fun k _ => by rw [none]; exact Nat.zero_le _
    fetch := fun k _ => by rw [chargeOn, none]; exact Nat.zero_le _
    pool := by decide
    routed := fun i h => by rw [hidden] at h; cases h }

theorem ContextsOk.cleared : ContextsOk Layout.cleared.windows where
  holder i := by rw [windowAt_cleared]; decide
  below i c h := by rw [windowAt_cleared] at h; cases h
  alone i j c h := by rw [windowAt_cleared] at h; cases h

theorem State.reset_layoutOk : State.reset.layoutOk where
  live := ⟨TableOk.cleared _ _, ContextsOk.cleared⟩
  draft b h := by cases h
  fallback p h := by cases h
  passed c p h := by cases h
  plans := ⟨by decide, by decide⟩
  external h := absurd rfl h
  settings c h := by cases h
  internal := by decide
  early _ := rfl
  owed h := by cases h

/-- Settles O3: after reset every slot is IDLE, the layout is cleared, and nothing is captured. -/
theorem invariantsHoldAtReset : Obligations.InvariantsHoldAtReset :=
  ⟨Memory.wf_nil, State.reset_interruptOk, by decide,
    State.reset.journalOk_iff.2 ⟨State.reset_takesOk, fun h => absurd rfl h⟩, sourcesReset_ok, State.reset_modeOk,
    State.reset_tablesOk, State.noPart.portOk ⟨rfl, rfl⟩, State.reset_layoutOk⟩

/-! The switches and the link (R172, R188). -/

/-- Settles O14. -/
theorem switchesAndLinkReturn : Obligations.SwitchesAndLinkReturn := by
  refine ⟨fun s p h => ⟨s.setSwitches p, ?_, rfl, s.setSwitches_only p⟩, fun s p h => ?_,
    fun s => ⟨s.modPort (fun pt => { pt with linkUp := true }), rfl, rfl, ?_⟩⟩
  · exact (if_pos h : execPcieConfigChange p s = _)
  · exact if_neg (by rw [h]; decide)
  · constructor <;> first | exact .inl (by decide) | exact .inr rfl | exact .inr ⟨rfl, rfl⟩

/-! Accesses to the registers (R170 to R174, R186). -/

theorem exec_access {s : State} {i : Instr} (h : s.accepts i) (hg : s.asksGrant i = false)
    (he : exec i s = .next (s.arrive i)) : exec i s = .next (takeAccess i s) := by
  rw [he, State.arrive_of_not_asksGrant h hg]

/-- Settles O31. -/
theorem causeenWriteStoresEnables : Obligations.CauseenWriteStoresEnables := fun s v h =>
  ⟨s.takeCauseenWrite v, exec_access h rfl rfl, fun k => by
    change (v.setWidth 14).getLsbD k = _
    rw [BitVec.getLsbD_setWidth], rfl, Delivers.of_evaluate rfl rfl, s.takeCauseenWrite_only v⟩

/-- Settles O34. -/
theorem discardedRegisterWriteOnlyFlags : Obligations.DiscardedRegisterWriteOnlyFlags := fun s offset length h shape => by
  have discarded : s.takeDiscardedWrite offset length = s.raise .writeViolation := by
    have : discardedShape offset length = true := by
      simpa [discardedShape, or_assoc] using shape
    rw [State.takeDiscardedWrite, this]
    rfl
  refine ⟨s.raise .writeViolation, (exec_access h rfl rfl).trans (congrArg _ discarded), s.causeSet_raise _, rfl,
    s.setCauses_delivers _, s.raise_only _⟩

end Sys2Proof.Machine
end

section
-- Many short proofs follow one another: taken one at a time they need one thread's memory, not one's for each.
set_option Elab.async false
/-! PROOF. Operations one after another: what they hand on to the rings and the flags, and which copies of the slot table they
ask for (R27, R155 to R172). -/

namespace Sys2Proof.Machine

variable {s t u : State}

/-! Events and flags over several operations. -/

/-- From `s` to `t` the events `es` are handed on and the flags of `f` set, the capture and the filter list the same throughout.
-/
structure Hands (s t : State) (es : List Event) (f : Cause → Bool) : Prop where
  hands : HandsOn s t es f
  sets : SetsFlags s t
  captured : t.modes.captured = s.modes.captured
  filters : t.composer.live.filters = s.composer.live.filters

theorem Hands.trans {es fs : List Event} {f g : Cause → Bool} (h : Hands s t es f) (k : Hands t u fs g) :
    Hands s u (es ++ fs) (fun c => f c || g c) where
  hands := h.hands.trans k.hands h.captured h.filters (h.sets.next k.sets).delivery
  sets := h.sets.next k.sets
  captured := k.captured.trans h.captured
  filters := k.filters.trans h.filters

theorem Hands.congr {es fs : List Event} {f g : Cause → Bool} (h : Hands s t es f) (he : es = fs) (hf : ∀ c, f c = g c) :
    Hands s t fs g := he ▸ { h with hands := h.hands.congr hf }

/-- First what hands on nothing. -/
theorem Hands.after {es : List Event} {f : Cause → Bool} (k : Hands t u es f) (h : Hands s t [] (fun _ => false)) :
    Hands s u es f := (h.trans k).congr rfl (fun _ => rfl)

/-- Then what hands on nothing. -/
theorem Hands.before {es : List Event} {f : Cause → Bool} (h : Hands s t es f) (k : Hands t u [] (fun _ => false)) :
    Hands s u es f := (h.trans k).congr (List.append_nil es) (fun c => Bool.or_false (f c))

/-- A change that leaves the event rings, the flags and the port. -/
theorem Hands.of_frame {l : List Part} (h : OnlyChanges l s t) (hr : t.report.eventPart = s.report.eventPart)
    (hm : t.modes.captured = s.modes.captured) (hi : t.modes.intEnable = s.modes.intEnable)
    (hf : t.composer.live.filters = s.composer.live.filters) (hc : Part.causes ∉ l := by decide)
    (hp : Part.interrupt ∉ l := by decide) (hk : Part.link ∉ l := by decide) : Hands s t [] (fun _ => false) :=
  have sets := SetsFlags.of_frame h hc hp hk hi
  ⟨HandsOn.of_same hr (h.causes_eq hc) sets.delivery, sets, hm, hf⟩

theorem State.raise_handed (s : State) (c : Cause) : Hands s (s.raise c) [] (fun d => decide (d = c)) :=
  ⟨HandsOn.of_raise s c, s.raise_sets c, rfl, rfl⟩

theorem State.handEvents_handed (s : State) (es : List Event) : Hands s (s.handEvents es) es (fun _ => false) :=
  ⟨HandsOn.of_events s es, s.handEvents_sets es, by rw [(s.handEvents_only es).modes_eq],
    by rw [(s.handEvents_only es).composer_eq]⟩

theorem State.handEvent_handed (s : State) (e : Event) : Hands s (s.handEvent e) [e] (fun _ => false) :=
  s.handEvents_handed [e]

theorem State.moveMode_handed (s : State) (m : Mode) (r : Trigger) :
    Hands s (s.moveMode m r) [modeEvent s.modes.mode m r] (fun _ => false) :=
  ⟨s.moveMode_hands m r, s.moveMode_sets m r, by rw [State.moveMode_modes], by rw [(s.moveMode_only m r).composer_eq]⟩

theorem State.startSupervision_handed (s : State) : Hands s s.startSupervision [] (fun _ => false) :=
  .of_frame s.startSupervision_only rfl rfl rfl rfl

theorem State.enterHold_handed (s : State) (r : Trigger) :
    Hands s (s.enterHold r) [modeEvent s.modes.mode .hold r] (fun c => decide (c = .holdEntered)) :=
  ⟨s.enterHold_hands r, s.enterHold_sets r, by rw [State.enterHold_modes], by rw [State.enterHold_composer]⟩

theorem Hands.refl (s : State) : Hands s s [] (fun _ => false) :=
  .of_frame (OnlyChanges.refl [] s) rfl rfl rfl rfl

/-- A change of the mode controller's other fields alone. -/
theorem State.modModes_handed (s : State) (f : ModeCtl → ModeCtl) (hc : (f s.modes).captured = s.modes.captured)
    (hi : (f s.modes).intEnable = s.modes.intEnable) : Hands s (s.modModes f) [] (fun _ => false) :=
  .of_frame (s.modModes_only f) rfl hc hi rfl

theorem State.modPort_holdArea_handed (s : State) (a : Option Section) :
    Hands s (s.modPort (fun pt => { pt with holdArea := a })) [] (fun _ => false) :=
  .of_frame (s.modPort_holdArea a) rfl rfl rfl rfl

theorem State.modComposer_handed (s : State) (f : Composer → Composer)
    (hf : (f s.composer).live.filters = s.composer.live.filters) : Hands s (s.modComposer f) [] (fun _ => false) :=
  .of_frame (s.modComposer_only f) rfl rfl rfl hf

/-! After the fields of a MODECTL write (R129). -/

theorem State.modectl_captured (s : State) (b p i : Bool) : (s.modectl b p i).modes.captured = s.modes.captured := by
  rw [State.modectl_modes]; rfl

theorem State.modectl_mode (s : State) (b p i : Bool) : (s.modectl b p i).modes.mode = s.modes.mode := by
  rw [State.modectl_modes]; rfl

theorem State.modectl_startedTimer (s : State) (b p i : Bool) : (s.modectl b p i).startedTimer = s.startedTimer := by
  unfold State.startedTimer
  rw [State.modectl_captured, (s.modectl_only b p i).now_eq]

/-- What is handed on and set after the fields are stored is so from the state before. -/
theorem Hands.afterFields {b p i : Bool} {es : List Event} {f : Cause → Bool} (h : Hands (s.modectl b p i) t es f) :
    HandsOn s t es f := by
  have frame := s.modectl_only b p i
  have report := s.modectl_report b p i
  exact ((s.modectl_hands b p i).trans h.hands (s.modectl_captured b p i) (by rw [frame.composer_eq])
    (SetsFlags.afterFields (s.modectl_delivers b p i) (by rw [report]) (by rw [report]) frame.link_eq h.sets)).congr (fun _ => rfl)

/-- What is done after the fields are stored. -/
theorem exec_request {i : Instr} (h : s.accepts i) (hg : s.asksGrant i = false) (he : exec i s = .next (s.arrive i))
    {serve permit intEnable : Bool} {f : State → State} (hf : takeAccess i s = f (s.modectl serve permit intEnable)) :
    exec i s = .next (f (s.modectl serve permit intEnable)) := hf ▸ exec_access h hg he

end Sys2Proof.Machine
end

section
-- Many short proofs follow one another: taken one at a time they need one thread's memory, not one's for each.
set_option Elab.async false
/-! PROOF. MODECTL: the fields, SERVE, and the requests by mode (R70 to R72, R127 to R132, R137 to R144). -/

namespace Sys2Proof.Machine

variable {s t u : State}

/-! The fields stored, and what is refused after that. -/

/-- The parts a refused request touches. -/
theorem State.modectl_refused (s : State) (b p i : Bool) :
    let t := (s.modectl b p i).failRequest
    t.modes = s.fieldsStored b p i ∧ (∀ c, t.causeSet c = (s.causeSet c || decide (c = .modeFail))) ∧
      t.report.enables = s.report.enables ∧ KeepsDelivery s t ∧ OnlyChanges [.modes, .interrupt, .causes] s t := by
  have hands := ((s.modectl b p i).raise_handed .modeFail).afterFields
  exact ⟨((s.modectl b p i).raise_only _).modes_eq.trans (s.modectl_modes b p i), hands.causes, hands.enables, hands.interrupt,
    ((s.modectl_only b p i).mono (by decide)).next (State.raise_only _ _) (by decide)⟩

/-- And one that stores the fields alone. -/
theorem State.modectl_stays (s : State) (b p i : Bool) :
    let t := s.modectl b p i
    t.modes = s.fieldsStored b p i ∧ t.report.causes = s.report.causes ∧ t.report.enables = s.report.enables ∧
      Delivers s t ∧ OnlyChanges [.modes, .interrupt, .causes] s t :=
  ⟨s.modectl_modes b p i, by rw [State.modectl_report], by rw [State.modectl_report], s.modectl_delivers b p i,
    (s.modectl_only b p i).mono (by decide)⟩

/-- A request that is refused where `fails` holds, and else stores the fields alone. -/
theorem State.modectl_refusedIf (s : State) {t : State} (b p i : Bool) {fails : Bool}
    (ht : t = if fails then (s.modectl b p i).failRequest else s.modectl b p i) :
    t.modes = s.fieldsStored b p i ∧ (∀ c, t.causeSet c = (s.causeSet c || (decide (c = .modeFail) && fails))) ∧
      t.report.enables = s.report.enables ∧ KeepsDelivery s t ∧ OnlyChanges [.modes, .interrupt, .causes] s t := by
  subst ht
  cases fails with
  | true => simpa using s.modectl_refused b p i
  | false =>
    obtain ⟨modes, causes, enables, delivers, frame⟩ := s.modectl_stays b p i
    exact ⟨modes, fun c => by rw [Bool.and_false, Bool.or_false]; exact State.causeSet_congr causes c, enables,
      fun _ => delivers, frame⟩

/-- Settles O20. -/
theorem modectlStoresFieldsAndServes : Obligations.ModectlStoresFieldsAndServes := by
  refine ⟨fun s w => ⟨fun i hi h => ?_, fun h => ⟨_, exec_access h rfl rfl, s.modectl_stays true _ _⟩⟩, fun s v w h =>
    ⟨_, exec_access h rfl rfl, s.modectl_refusedIf w.serve w.permit w.intEnable
      (fails := decide (s.modes.mode ≠ .starting)) ?_⟩⟩
  · rcases hi with rfl | rfl
    · exact ⟨_, exec_access h rfl rfl, s.modectl_stays false _ _⟩
    · exact ⟨_, exec_access h rfl rfl, s.modectl_stays false _ _⟩
  · change (s.modectl w.serve w.permit w.intEnable).invalidRequest = _
    unfold State.invalidRequest
    rw [State.modectl_mode]
    by_cases hm : s.modes.mode = .starting <;> simp [hm]

/-! RUN (R130, R132, R138, R141, R143). -/

theorem State.startActivation_spec (s : State) :
    s.startActivation.composer = s.composer ∧
    s.startActivation.port.holdArea = (if s.modes.captured = none then some (sectionOf (Memory.configImage s.ram).map 1)
      else s.port.holdArea) ∧
    Hands s s.startActivation [modeEvent s.modes.mode .activating .request] (fun _ => false) ∧
    s.startActivation.report.journalPart = s.report.journalPart := by
  unfold State.startActivation State.andThen
  dsimp only
  cases hc : s.modes.captured with
  | none =>
    simp only [Option.isNone_none, if_true]
    refine ⟨(State.moveMode_only _ _ _).composer_eq, (State.moveMode_only _ _ _).holdArea_eq, ?_, State.moveMode_journal _ _ _⟩
    exact (State.moveMode_handed _ .activating .request).after
      ((s.modModes_handed _ rfl rfl).before (State.modPort_holdArea_handed _ _))
  | some c =>
    simp only [Option.isNone_some, Bool.false_eq_true, if_false, reduceCtorEq]
    refine ⟨(State.moveMode_only _ _ _).composer_eq, (State.moveMode_only _ _ _).holdArea_eq, ?_, State.moveMode_journal _ _ _⟩
    exact (State.moveMode_handed _ .activating .request).after (s.modModes_handed _ rfl rfl)

/-- RUN entered from a mode in which the timer is stopped or runs anew. -/
theorem State.enterRun_spec (s : State) : let t := (s.moveMode .run .request).startSupervision
    t.modes = { s.modes with mode := .run, supervision := s.startedTimer } ∧ t.composer = s.composer ∧
    t.port.holdArea = s.port.holdArea ∧ Hands s t [modeEvent s.modes.mode .run .request] (fun _ => false) ∧
    t.report.journalPart = s.report.journalPart := by
  have frame := s.moveMode_only .run .request
  refine ⟨?_, frame.composer_eq, frame.holdArea_eq,
    (s.moveMode_handed .run .request).before (State.startSupervision_handed _), s.moveMode_journal _ _⟩
  rw [State.startSupervision_modes, State.moveMode_modes]
  unfold State.startedTimer
  rw [State.moveMode_modes, frame.now_eq]

/-- What a request leaves after the fields are stored: the mode controller and the events of its move. -/
structure RequestLeaves (s t : State) (modes : ModeCtl) (composer : Composer) (hold : Option Section) (es : List Event)
    (fails : Bool) : Prop where
  modes : t.modes = modes
  composer : t.composer = composer
  holdArea : t.port.holdArea = hold
  hands : Hands s t es (fun c => decide (c = .modeFail) && fails)
  journal : t.report.journalPart = s.report.journalPart

theorem RequestLeaves.refl (s : State) : RequestLeaves s s s.modes s.composer s.port.holdArea [] false :=
  ⟨rfl, rfl, rfl, (Hands.refl s).congr rfl (fun _ => (Bool.and_false _).symm), rfl⟩

theorem State.failRequest_leaves (s : State) :
    RequestLeaves s s.failRequest s.modes s.composer s.port.holdArea [] true :=
  ⟨rfl, rfl, rfl, (s.raise_handed .modeFail).congr rfl (fun _ => (Bool.and_true _).symm), rfl⟩

theorem State.runRequest_leaves (s : State) : RequestLeaves s s.runRequest
    (match s.modes.mode with
      | .config => { s.modes with
          mode := .activating, progress := .checking (Memory.configImage s.ram), reading := true, attempt := s.modes.attempt + 1
          failCode := .none, failIndex := 0 }
      | .hold | .fallback | .quiesced => { s.modes with mode := .run, supervision := s.startedTimer }
      | .starting | .activating | .run | .quiescing => s.modes)
    (if s.modes.mode = .hold then { s.composer with overruns := 0 } else s.composer)
    (if s.modes.mode = .config ∧ s.modes.captured = none then some (sectionOf (Memory.configImage s.ram).map 1)
      else s.port.holdArea)
    (match s.modes.mode with
      | .config => [modeEvent s.modes.mode .activating .request]
      | .hold | .fallback | .quiesced => [modeEvent s.modes.mode .run .request]
      | .starting | .activating | .run | .quiescing => [])
    (decide (s.modes.mode = .activating ∨ s.modes.mode = .quiescing)) := by
  have stays := RequestLeaves.refl s
  have fails := s.failRequest_leaves
  obtain ⟨modes, composer, hold, hands, journal⟩ := s.enterRun_spec
  have runs : RequestLeaves s ((s.moveMode .run .request).startSupervision) { s.modes with
      mode := .run, supervision := s.startedTimer } s.composer s.port.holdArea [modeEvent s.modes.mode .run .request] false :=
    ⟨modes, composer, hold, hands.congr rfl (fun _ => (Bool.and_false _).symm), journal⟩
  unfold State.runRequest
  cases hm : s.modes.mode with
  | starting => simpa using stays
  | config =>
    obtain ⟨composer, hold, hands, journal⟩ := s.startActivation_spec
    rw [hm] at hands
    refine ⟨s.startActivation_modes, composer, ?_, hands.congr rfl (fun _ => (Bool.and_false _).symm), journal⟩
    simpa using hold
  | activating => simpa using fails
  | run => simpa using stays
  | hold =>
    obtain ⟨modes, composer, hold, hands, journal⟩ := (s.modComposer (fun co => { co with overruns := 0 })).enterRun_spec
    rw [show (s.modComposer (fun co => { co with overruns := 0 })).modes.mode = .hold from hm] at hands
    exact ⟨modes, composer, hold, (hands.after (s.modComposer_handed _ rfl)).congr rfl (fun _ => (Bool.and_false _).symm), journal⟩
  | fallback => simpa [hm] using runs
  | quiescing => simpa using fails
  | quiesced => simpa [hm] using runs

/-- Settles O21. -/
theorem requestRunByMode : Obligations.RequestRunByMode := by
  intro s w h
  have fields := s.modectl_modes w.serve w.permit w.intEnable
  have frame := s.modectl_only w.serve w.permit w.intEnable
  have timer := s.modectl_startedTimer w.serve w.permit w.intEnable
  obtain ⟨modes, composer, hold, hands, journal⟩ := (s.modectl w.serve w.permit w.intEnable).runRequest_leaves
  have whole : OnlyChanges [.modes, .composer, .holdArea, .rings, .interrupt, .causes] s
      (s.modectl w.serve w.permit w.intEnable).runRequest := (frame.mono (by decide)).next (State.runRequest_only _) (by decide)
  rw [frame.ram_eq, fields, timer] at modes
  rw [frame.composer_eq, fields] at composer
  rw [frame.ram_eq, frame.holdArea_eq, fields] at hold
  have hands := hands.afterFields
  rw [fields] at hands
  refine ⟨_, exec_access h rfl rfl, modes, composer, hold, ?_, journal.trans frame.journalPart_eq, whole⟩
  change HandsOn s (State.runRequest (s.modectl w.serve w.permit w.intEnable)) (if (State.runRequest (s.modectl w.serve
    w.permit w.intEnable)).modes.mode = s.modes.mode then [] else [modeEvent s.modes.mode (State.runRequest (s.modectl w.serve
    w.permit w.intEnable)).modes.mode .request]) _
  rw [modes]
  have mode : (s.fieldsStored w.serve w.permit w.intEnable).mode = s.modes.mode := rfl
  rw [mode] at hands ⊢
  cases hm : s.modes.mode <;> simpa [hm, mode] using hands

/-! What an entry to FALLBACK or QUIESCING brings about, the fields stored before it. -/

theorem exists_cause {k : Nat} (h : k < 14) : ∃ c : Cause, c.code - 1 = k := by
  refine ⟨[Cause.fallbackEntered, .holdEntered, .activationFailed, .modeFail, .urgentWatermark, .journalWatermark,
    .routineWatermark, .overrun, .eventsLost, .slotRefused, .writeViolation, .releaseError, .timingChange,
    .modeReached].getD k .modeReached, ?_⟩
  revert k
  decide

/-- Events handed on set flags and clear none. -/
theorem HandsOn.setsFlags {es : List Event} {f : Cause → Bool} (h : HandsOn s t es f)
    (hi : t.modes.intEnable = s.modes.intEnable) (hl : t.port.linkUp = s.port.linkUp ∧ t.port.pcie = s.port.pcie) :
    SetsFlags s t where
  causes k hk := by
    obtain ⟨c, rfl⟩ := exists_cause (BitVec.lt_of_getLsbD hk)
    rw [← State.causeSet_eq, h.causes, State.causeSet_eq, (s.handEvents_sets es).causes _ hk, Bool.true_or]
  enables := h.enables
  master := hi
  link := hl
  delivery := h.interrupt

/-- Entries handed on to a journal are those read from the same slots. -/
theorem Report.handed_map_congr (hj : t.report.journalPart = s.report.journalPart) {l : List Nat} {f g : Nat → JournalEntry}
    (h : ∀ i, f i = g i) : (t.report.handed (l.map f)).journalPart = (s.report.handed (l.map g)).journalPart := by
  rw [funext h]
  exact Report.handed_congr hj _

theorem State.postedSlots_congr (ht : t.takes = s.takes) (hj : t.report.journalPart = s.report.journalPart) :
    t.postedSlots = s.postedSlots :=
  State.slotsOf_congr ht (congrArg (fun p => p.2.1) hj) _

/-- The entry to FALLBACK as it is from the state before the fields are stored (R139). -/
theorem EntersFallback.afterFields {b p i : Bool} {r : Trigger}
    (h : EntersFallback (s.modectl b p i) t (s.modectl b p i).modes r []) :
    EntersFallback s t (s.fieldsStored b p i) r [] := by
  have frame := s.modectl_only b p i
  obtain ⟨u, modes, composer, entries, hands, changes, now, modes', composer', entries', hands', changes'⟩ := h
  have sets : SetsFlags (s.modectl b p i) u := hands.setsFlags (by rw [modes]) changes.link_eq
  have fromFields : Hands (s.modectl b p i) u [] (fun _ => false) :=
    ⟨hands, sets, by rw [modes], by rw [composer]⟩
  have mode := s.modectl_mode b p i
  rw [s.modectl_modes] at modes modes'
  rw [frame.composer_eq] at composer composer'
  have slot := State.slot_congr frame.takes_eq
  rw [State.postedSlots_congr frame.takes_eq frame.journalPart_eq, State.buildSlots_congr (t := s.modectl b p i) (s := s)
    (by rw [frame.composer_eq]), Report.handed_map_congr (s := s) frame.journalPart_eq
    (fun j => by rw [slot, State.entryOf_congr (slot j)])] at entries
  rw [mode] at hands'
  exact ⟨u, modes, composer, entries, fromFields.afterFields, (frame.mono (by decide)).next changes (by decide), now, modes',
    composer', entries', hands', changes'⟩

/-- The entry to QUIESCING as it is from the state before the fields are stored, the request refused where it is redirected
(R142). -/
theorem EntersQuiescing.afterFields {b p i : Bool} {r : Trigger} {v : State} {fails : Bool}
    (hv : Hands (s.modectl b p i) v [] (fun c => decide (c = .modeFail) && fails))
    (fv : OnlyChanges [.interrupt, .causes] (s.modectl b p i) v) (h : EntersQuiescing v t v.modes r false) :
    EntersQuiescing s t (s.fieldsStored b p i) r fails := by
  have frame : OnlyChanges [.modes, .interrupt, .causes] s v := ((s.modectl_only b p i).mono (by decide)).next fv (by decide)
  have modes : v.modes = s.fieldsStored b p i := fv.modes_eq.trans (s.modectl_modes b p i)
  obtain ⟨u, umodes, entries, hands, changes, ends⟩ := h
  have sets : SetsFlags v u := hands.setsFlags (by rw [umodes]) changes.link_eq
  have fromFields : Hands v u [modeEvent v.modes.mode .quiescing r] (fun c => decide (c = .modeFail) && false) :=
    ⟨hands, sets, by rw [umodes], by rw [changes.composer_eq]⟩
  have mode : v.modes.mode = s.modes.mode := by rw [modes]; rfl
  rw [modes] at umodes
  rw [mode] at fromFields
  rw [frame.composer_eq] at ends
  refine ⟨u, umodes, ?_, (hv.trans fromFields).afterFields.congr (fun c => by simp), ?_, ends⟩
  · rw [entries, State.postedSlots_congr frame.takes_eq frame.journalPart_eq]
    exact Report.handed_map_congr frame.journalPart_eq (fun j => State.entryOf_congr (State.slot_congr frame.takes_eq j) _ _ _)
  · exact (frame.mono (by decide)).next changes (by decide)

/-! FALLBACK (R71, R130, R139). -/

/-- Settles O23. -/
theorem requestFallbackByMode : Obligations.RequestFallbackByMode := by
  refine ⟨fun s w h hb hm => ?_, fun s w h hm => ⟨_, exec_access h rfl rfl,
    s.modectl_refusedIf w.serve w.permit w.intEnable (fails := decide (s.modes.mode ≠ .fallback ∧ s.modes.mode ≠ .starting)) ?_⟩⟩
  · have frame := s.modectl_only w.serve w.permit w.intEnable
    have enters := (s.modectl w.serve w.permit w.intEnable).enterFallback_spec .request (fun i hi => by
      rw [State.buildSlots_congr (t := s.modectl w.serve w.permit w.intEnable) (s := s) (by rw [frame.composer_eq])] at hi
      rw [frame.slot_eq]
      exact hb i hi)
    have entered : (s.modectl w.serve w.permit w.intEnable).fallbackRequest =
        (s.modectl w.serve w.permit w.intEnable).enterFallback .request := by
      unfold State.fallbackRequest
      rw [State.modectl_mode]
      rcases hm with hm | hm | hm <;> rw [hm]
    refine ⟨_, (exec_access h rfl rfl).trans (congrArg Host.Outcome.next entered), enters.afterFields, ?_⟩
    rw [(State.enterFallback_only _ _).now_eq, frame.now_eq]
  · change (s.modectl w.serve w.permit w.intEnable).fallbackRequest = _
    unfold State.fallbackRequest
    rw [State.modectl_mode]
    revert hm
    cases s.modes.mode <;> simp

/-! QUIESCE (R72, R130, R142). -/

theorem State.enterQuiescing_afterFields (s : State) (b p i : Bool) (r : Trigger) :
    EntersQuiescing s ((s.modectl b p i).enterQuiescing r) (s.fieldsStored b p i) r false :=
  .afterFields ((Hands.refl _).congr rfl (fun _ => (Bool.and_false _).symm)) (OnlyChanges.refl _ _)
    ((s.modectl b p i).enterQuiescing_spec r)

theorem State.postedSlots_eq (s : State) (h : s.takes.slots.length = Config.slotCount) : s.postedSlots =
    (List.range 16).filter (fun i => decide ((s.slot i).state = .posted) && !s.finished i) := by
  rw [State.postedSlots, State.slotsOf_eq, h]
  rfl

theorem State.buildSlots_eq (s : State) : s.buildSlots = (s.composer.build.map (fun b => b.takes.map (·.slot))).getD [] := by
  unfold State.buildSlots
  cases s.composer.build <;> rfl

/-- Settles O24. -/
theorem requestQuiesceByMode : Obligations.RequestQuiesceByMode := by
  refine ⟨fun s w h hm => ?_, fun s w h hm => ⟨_, exec_access h rfl rfl,
    s.modectl_refusedIf w.serve w.permit w.intEnable (fails := decide (s.modes.mode = .config ∨ s.modes.mode = .activating)) ?_⟩,
    fun s => ⟨s.buildSlots_eq, s.postedSlots_eq, s.finished_iff⟩⟩
  · have entered : (s.modectl w.serve w.permit w.intEnable).quiesceRequest =
        (s.modectl w.serve w.permit w.intEnable).enterQuiescing .request := by
      unfold State.quiesceRequest
      rw [State.modectl_mode]
      rcases hm with hm | hm | hm <;> rw [hm]
    exact ⟨_, (exec_access h rfl rfl).trans (congrArg Host.Outcome.next entered),
      s.enterQuiescing_afterFields w.serve w.permit w.intEnable .request⟩
  · change (s.modectl w.serve w.permit w.intEnable).quiesceRequest = _
    unfold State.quiesceRequest
    rw [State.modectl_mode]
    revert hm
    cases s.modes.mode <;> simp

/-! CONFIG (R25, R130, R137, R142, R143). -/

theorem State.endActivation_handed (s : State) (r : Trigger) :
    Hands s (s.endActivation r) [modeEvent s.modes.mode .config r] (fun _ => false) := by
  unfold State.endActivation State.andThen
  exact (State.moveMode_handed _ .config r).after ((s.modModes_handed _ rfl rfl).before (State.modPort_holdArea_handed _ none))

theorem State.endActivation_journal (s : State) (r : Trigger) :
    (s.endActivation r).report.journalPart = s.report.journalPart := by
  unfold State.endActivation State.andThen
  rw [State.moveMode_journal]
  rfl

theorem State.endActivation_holdArea (s : State) (r : Trigger) : (s.endActivation r).port.holdArea = none := by
  unfold State.endActivation State.andThen
  rw [(State.moveMode_only _ _ _).holdArea_eq]
  rfl

theorem StatusJob.not_ofMirror (j : StatusJob) : (!j.ofMirror) = (match j with
    | .mirror _ => false
    | .wholeSection n => n ≠ 4 && n ≠ 5 && n ≠ 7
    | .source _ => true) := by
  unfold StatusJob.ofMirror
  split <;> simp_all

/-- A rewrite of the mirrors is asked for (R22). -/
theorem StatusWriter.askMirrors_eq (w : StatusWriter) : w.askMirrors =
    { w with windowsPending := true, plansPending := true, filtersPending := true, job := w.withoutMirror } := by
  have tests : (fun j : StatusJob × Nat => !j.1.ofMirror) = fun j => match j.1 with
    | .mirror _ => false
    | .wholeSection n => n ≠ 4 && n ≠ 5 && n ≠ 7
    | .source _ => true := funext (fun j => j.1.not_ofMirror)
  unfold StatusWriter.askMirrors StatusWriter.setAside StatusWriter.withoutMirror
  dsimp only
  rw [tests] <;> rfl

theorem State.beginRewrites_rewrites (s : State) : RewritesBegin s s.beginRewrites := by
  unfold RewritesBegin State.beginRewrites
  cases hm : s.map with
  | none => simp
  | some m =>
    simp only [Option.isSome_some, if_true, reduceCtorEq, if_false]
    exact s.status.askMirrors_eq

theorem State.map_congr (h : t.modes.captured = s.modes.captured) : t.map = s.map := by
  unfold State.map
  rw [h]

/-- The mirrors' rewrites begin where nothing before has touched the status writer. -/
theorem RewritesBegin.after {l : List Part} (h : OnlyChanges l s t) (k : RewritesBegin t u)
    (hc : t.modes.captured = s.modes.captured) (hs : Part.status ∉ l := by decide) : RewritesBegin s u := by
  unfold RewritesBegin at *
  rw [k, State.map_congr hc, h.status_eq hs]

theorem State.clearLayoutForConfig_spec (s : State) :
    s.clearLayoutForConfig.composer =
      { s.composer with live := Layout.cleared, pendingEdits := [], epoch := s.composer.epoch + 1 } ∧
    RewritesBegin s s.clearLayoutForConfig ∧ s.clearLayoutForConfig.report = s.report ∧
    s.clearLayoutForConfig.port = s.port := by
  unfold State.clearLayoutForConfig
  dsimp only
  have cleared : OnlyChanges [.composer, .ports] s ((s.setComposer { s.composer.clearedLayout with
      epoch := s.composer.clearedLayout.epoch + 1 }).dropPlans) :=
    ((s.setComposer_only _).mono (by decide)).next (State.dropPlans_only _) (by decide)
  refine ⟨(State.beginRewrites_only _).composer_eq, .after cleared (State.beginRewrites_rewrites _) rfl, ?_, ?_⟩ <;>
  · unfold State.beginRewrites
    split <;> rfl

/-- Clearing the layout hands on nothing. -/
theorem HandsOn.of_report {es : List Event} {f : Cause → Bool} (h : HandsOn s t es f) (hr : u.report = t.report)
    (hp : u.port = t.port) (hi : u.modes.intEnable = t.modes.intEnable) : HandsOn s u es f where
  rings := by rw [hr]; exact h.rings
  causes c := (State.causeSet_congr (congrArg Report.causes hr) c).trans (h.causes c)
  enables := by rw [hr]; exact h.enables
  interrupt ok := by
    obtain ⟨condition, line, message⟩ := h.interrupt ok
    exact ⟨by rw [hr, hi]; exact condition, by rw [hr, hp]; exact line, by rw [hr, hp]; exact message⟩

/-- Settles O25. -/
theorem requestConfigByMode : Obligations.RequestConfigByMode := by
  intro s w h
  have mode := s.modectl_mode w.serve w.permit w.intEnable
  have fields := s.modectl_modes w.serve w.permit w.intEnable
  have frame := s.modectl_only w.serve w.permit w.intEnable
  obtain ⟨modes, causes, enables, delivers, changes⟩ := s.modectl_stays w.serve w.permit w.intEnable
  have request {t : State} (ht : (s.modectl w.serve w.permit w.intEnable).configRequest = t) :
      exec (.requestConfig w) s = .next t := (exec_access h rfl rfl).trans (congrArg Host.Outcome.next ht)
  have redirected : EntersQuiescing s ((s.modectl w.serve w.permit w.intEnable).failRequest.enterQuiescing .redirect)
      (s.fieldsStored w.serve w.permit w.intEnable) .redirect true :=
    .afterFields (((s.modectl w.serve w.permit w.intEnable).raise_handed .modeFail).congr rfl (fun _ => (Bool.and_true _).symm))
      (State.failRequest_only _) (State.enterQuiescing_spec _ _)
  unfold State.configRequest at request
  rw [mode] at request
  cases hm : s.modes.mode with
  | starting => exact ⟨_, request (by rw [hm]), modes, causes, enables, fun _ => delivers, changes⟩
  | config => exact ⟨_, request (by rw [hm]), modes, causes, enables, fun _ => delivers, changes⟩
  | activating =>
    refine ⟨_, request (by rw [hm]), ?_, State.endActivation_holdArea _ _, ?_, ?_, ?_⟩
    · rw [State.endActivation_modes, fields]
    · have handed := ((s.modectl w.serve w.permit w.intEnable).endActivation_handed .request).afterFields
      rw [mode, hm] at handed
      exact handed
    · rw [State.endActivation_journal, frame.journalPart_eq]
    · exact (frame.mono (by decide)).next (State.endActivation_only _ _) (by decide)
  | run => exact ⟨_, request (by rw [hm]), redirected⟩
  | hold => exact ⟨_, request (by rw [hm]), redirected⟩
  | fallback => exact ⟨_, request (by rw [hm]), redirected⟩
  | quiescing => exact ⟨_, request (by rw [hm]), s.modectl_refused w.serve w.permit w.intEnable⟩
  | quiesced =>
    have moved := (s.modectl w.serve w.permit w.intEnable).moveMode_only .config .request
    have handed := ((s.modectl w.serve w.permit w.intEnable).moveMode_handed .config .request).afterFields
    have before : OnlyChanges [.modes, .interrupt, .causes, .rings] s ((s.modectl w.serve w.permit w.intEnable).moveMode
        .config .request) := (changes.mono (by decide)).next moved (by decide)
    have cleared := State.clearLayoutForConfig_only ((s.modectl w.serve w.permit w.intEnable).moveMode .config .request)
    obtain ⟨composer, rewrites, report, port⟩ := State.clearLayoutForConfig_spec
      ((s.modectl w.serve w.permit w.intEnable).moveMode .config .request)
    rw [mode, hm] at handed
    refine ⟨_, request (by rw [hm]), ?_, ?_, ?_, ?_, ?_, ?_, ?_⟩
    · rw [cleared.modes_eq, State.moveMode_modes, fields]
    · rw [composer, before.composer_eq]
    · exact .after before rewrites (by rw [State.moveMode_modes, fields]; rfl)
    · rw [State.clearLayoutForConfig_ports, before.ports_eq]
    · exact handed.of_report report port (by rw [cleared.modes_eq])
    · rw [report, State.moveMode_journal, frame.journalPart_eq]
    · exact (before.mono (by decide)).next cleared (by decide)

end Sys2Proof.Machine
end

section
-- Many short proofs follow one another: taken one at a time they need one thread's memory, not one's for each.
set_option Elab.async false
/-! PROOF. The copies of the slot table that changes ask for (R27), and a HOLD request (R70, R138). -/

namespace Sys2Proof.Machine

variable {s t u : State}

/-! Copies asked for. -/

theorem Option.filter_always {α : Type} (o : Option α) : o.filter (fun _ => true) = o := by cases o <;> rfl

/-- Some slot record differs. -/
def State.slotsDiffer (s t : State) : Bool := (List.range Config.slotCount).any (fun i => decide (t.slot i ≠ s.slot i))

theorem State.slotsDiffer_eq_false : s.slotsDiffer t = false ↔ ∀ i, i < Config.slotCount → t.slot i = s.slot i := by
  simp [State.slotsDiffer]

theorem AsksCopies.of_same (ht : t.takes = s.takes) (hs : t.status = s.status) : AsksCopies s.status s t where
  unmapped _ := hs
  records _ i _ := by rw [hs, State.slot_congr ht]; simp
  rest _ := by
    have none : s.slotsDiffer t = false := State.slotsDiffer_eq_false.2 (fun i _ => State.slot_congr ht i)
    unfold State.slotsDiffer at none
    rw [none, ht, hs]
    simp only [Bool.and_false, Bool.not_false, Option.filter_always, ne_eq, not_true_eq_false, decide_false, Bool.or_false]

theorem OnlyChanges.asksCopies {l : List Part} (h : OnlyChanges l s t) (ht : Part.takes ∉ l := by decide)
    (hs : Part.status ∉ l := by decide) : AsksCopies s.status s t := .of_same (h.takes_eq ht) (h.status_eq hs)

/-- One change after another, where no record comes back to what it was. -/
theorem AsksCopies.trans {w : StatusWriter} (h : AsksCopies w s t) (k : AsksCopies t.status t u) (hm : t.map = s.map)
    (hr : ∀ i, i < Config.slotCount → u.slot i = s.slot i → t.slot i = s.slot i)
    (hn : u.takes.nextSeq = s.takes.nextSeq → t.takes.nextSeq = s.takes.nextSeq) : AsksCopies w s u where
  unmapped hs := (k.unmapped (hm.trans hs)).trans (h.unmapped hs)
  records hs i hi := by
    rw [k.records (by rw [hm]; exact hs) i hi, h.records hs i hi, Bool.or_assoc]
    congr 1
    have := hr i hi
    by_cases h1 : t.slot i = s.slot i
    · rw [h1]; simp
    · have h2 : u.slot i ≠ s.slot i := fun h => h1 (this h)
      simp [h1, h2]
  rest hs := by
    have hs' : t.map ≠ none := by rw [hm]; exact hs
    have first := h.rest hs
    have second := k.rest hs'
    have differ : (s.slotsDiffer t || t.slotsDiffer u) = s.slotsDiffer u := by
      rw [Bool.eq_iff_iff]
      simp only [State.slotsDiffer, Bool.or_eq_true, List.any_eq_true, List.mem_range, decide_eq_true_eq]
      constructor
      · rintro (⟨i, hi, h1⟩ | ⟨i, hi, h2⟩)
        · exact ⟨i, hi, fun h => h1 (hr i hi h)⟩
        · exact ⟨i, hi, fun h => h2 (h.trans (hr i hi h).symm)⟩
      · rintro ⟨i, hi, h1⟩
        by_cases h2 : t.slot i = s.slot i
        · exact .inr ⟨i, hi, fun h => h1 (h.trans h2)⟩
        · exact .inl ⟨i, hi, h2⟩
    have header : (decide (t.takes.nextSeq ≠ s.takes.nextSeq) || decide (u.takes.nextSeq ≠ t.takes.nextSeq)) =
        decide (u.takes.nextSeq ≠ s.takes.nextSeq) := by
      by_cases h1 : t.takes.nextSeq = s.takes.nextSeq
      · rw [h1]; simp
      · have h2 : u.takes.nextSeq ≠ s.takes.nextSeq := fun h => h1 (hn h)
        simp [h1, h2]
    have job : (t.status.job.filter (fun j => !(decide (j.1 = .wholeSection 3) && t.slotsDiffer u))) =
        w.job.filter (fun j => !(decide (j.1 = .wholeSection 3) && s.slotsDiffer u)) := by
      rw [first]
      dsimp only
      rw [Option.filter_filter, ← differ]
      congr 1
      funext j
      change (!(decide (j.1 = .wholeSection 3) && s.slotsDiffer t) && !(decide (j.1 = .wholeSection 3) && t.slotsDiffer u)) = _
      cases decide (j.1 = StatusJob.wholeSection 3) <;> simp
    unfold State.slotsDiffer at job
    rw [second, job]
    rw [first]
    dsimp only
    rw [Bool.or_assoc, header]

/-- What each slot record becomes when one is replaced, and the copy that asks for (R27). -/
theorem State.setSlot_asks {i : Nat} (r : SlotRec) (hl : s.takes.slots.length = Config.slotCount) (hi : i < Config.slotCount) :
    AsksCopies s.status s (s.setSlot i r) := by
  have slot := State.setSlot_slot (s := s) r (by rw [hl]; exact hi)
  have status : (s.setSlot i r).status = if s.map.isSome && decide (r ≠ s.slot i) then s.status.askSlot i else s.status := by
    unfold State.setSlot State.andThen
    change (if s.map.isSome && decide (r ≠ s.slot i) then _ else _ : State).status = _
    split <;> rfl
  have next := s.setSlot_nextSeq i r
  have differ : s.slotsDiffer (s.setSlot i r) = decide (r ≠ s.slot i) := by
    rw [Bool.eq_iff_iff]
    simp only [State.slotsDiffer, List.any_eq_true, List.mem_range, decide_eq_true_eq]
    constructor
    · rintro ⟨j, hj, h⟩
      rw [slot] at h
      split at h
      · next hj => rw [hj] at h; exact h
      · exact absurd rfl h
    · intro h
      exact ⟨i, hi, by rw [slot, if_pos rfl]; exact h⟩
  refine ⟨fun hm => ?_, fun hm j hj => ?_, fun hm => ?_⟩
  · rw [status, hm]; rfl
  · have hm : s.map.isSome = true := Option.isSome_iff_ne_none.2 hm
    rw [status, hm, slot, Bool.true_and]
    by_cases hr : r = s.slot i
    · by_cases hji : j = i
      · simp [hr, hji]
      · simp [hr, hji]
    · simp only [ne_eq, hr, not_false_eq_true, decide_true, if_true]
      have bit : (1#16 <<< i).getLsbD j = decide (j = i) := by
        have h16 : j < 16 := hj
        rw [BitVec.getLsbD_shiftLeft, BitVec.getLsbD_one]
        by_cases hji : j = i
        · subst hji; simp [h16]
        · simp [hji, h16]; omega
      have asked : (s.status.askSlot i).slotDirty.getLsbD j = (s.status.slotDirty.getLsbD j || decide (j = i)) := by
        rw [← bit, ← BitVec.getLsbD_or]
        rfl
      rw [asked]
      by_cases hji : j = i
      · simp [hji, hr]
      · simp [hji]
  · have hm : s.map.isSome = true := Option.isSome_iff_ne_none.2 hm
    unfold State.slotsDiffer at differ
    rw [differ, next, status, hm, Bool.true_and]
    by_cases hr : r = s.slot i
    · simp only [hr, ne_eq, not_true_eq_false, decide_false, Bool.and_false, Bool.not_false, Option.filter_always, Bool.or_false,
        Bool.false_eq_true, if_false]
    · simp only [ne_eq, hr, not_false_eq_true, decide_true, if_true]
      simp [StatusWriter.askSlot, StatusWriter.setAside]

theorem State.setSlot_map (s : State) (i : Nat) (r : SlotRec) : (s.setSlot i r).map = s.map :=
  State.map_congr (by rw [(s.setSlot_only i r).modes_eq])

/-- Takes returned to POSTED ask for the copies of their slots (R27, R70). -/
theorem State.returnTakes_asks (f : Option Word) {l : List Nat} (hl : s.takes.slots.length = Config.slotCount) (once : l.Nodup)
    (hi : ∀ i ∈ l, i < Config.slotCount) : AsksCopies s.status s (l.foldl (fun s i => s.returnTake f i) s) := by
  induction l generalizing s with
  | nil => exact .of_same rfl rfl
  | cons i l ih =>
    obtain ⟨hn, once⟩ := List.nodup_cons.1 once
    have hii := hi i List.mem_cons_self
    have one := s.returnTake_one f i (by rw [hl]; exact hii)
    have frame := s.returnTake_only f i
    have rest := State.returnTakes_end (s.returnTake f i) l f once
      (fun j hj => by rw [one.length, hl]; exact hi j (List.mem_cons_of_mem i hj))
    have asked : AsksCopies s.status s (s.returnTake f i) := by
      unfold State.returnTake
      split
      · exact (State.finishTake_only _ _ _ _ _).asksCopies
      · exact State.setSlot_asks _ hl hii
    refine asked.trans (ih (one.length.trans hl) once (fun j hj => hi j (List.mem_cons_of_mem i hj)))
      (State.map_congr (by rw [frame.modes_eq])) (fun j _ h => ?_) (fun _ => by rw [one.rest])
    by_cases hj : j = i
    · have kept := rest.slots j
      rw [if_neg (by rw [hj]; exact fun h => hn h.1)] at kept
      exact kept.symm.trans h
    · rw [one.slots, if_neg (by simp [hj])]

theorem State.discardBuild_asks (f : Option Word) (hl : s.takes.slots.length = Config.slotCount) (once : s.buildSlots.Nodup)
    (hi : ∀ i ∈ s.buildSlots, i < Config.slotCount) : AsksCopies s.status s (s.discardBuild f) :=
  have returned := State.returnTakes_asks f hl once hi
  ⟨returned.unmapped, returned.records, returned.rest⟩

/-! HOLD (R70, R130, R138). -/

theorem State.discardBuild_handed (f : Option Word) (hl : s.takes.slots.length = Config.slotCount) (once : s.buildSlots.Nodup)
    (hi : ∀ i ∈ s.buildSlots, i < Config.slotCount) : Hands s (s.discardBuild f) [] (fun _ => false) :=
  .of_frame (s.discardBuild_only f) (s.discardBuild_end f once (fun i h => by rw [hl]; exact hi i h)).eventPart
    (by rw [s.discardBuild_modes]) (by rw [s.discardBuild_modes]) (by rw [s.discardBuild_composer])

/-- Settles O22. -/
theorem requestHoldByMode : Obligations.RequestHoldByMode := by
  intro s w h once below length
  have mode := s.modectl_mode w.serve w.permit w.intEnable
  have fields := s.modectl_modes w.serve w.permit w.intEnable
  have frame := s.modectl_only w.serve w.permit w.intEnable
  have timer := s.modectl_startedTimer w.serve w.permit w.intEnable
  have asked := frame.asksCopies
  have request {t : State} (ht : (s.modectl w.serve w.permit w.intEnable).holdRequest = t) :
      exec (.requestHold w) s = .next t := (exec_access h rfl rfl).trans (congrArg Host.Outcome.next ht)
  have slots : (s.modectl w.serve w.permit w.intEnable).buildSlots = s.buildSlots :=
    State.buildSlots_congr (by rw [frame.composer_eq])
  have slot := frame.slot_eq
  have length' : (s.modectl w.serve w.permit w.intEnable).takes.slots.length = Config.slotCount := by
    rw [frame.takes_eq]; exact length
  have once' : (s.modectl w.serve w.permit w.intEnable).buildSlots.Nodup := by rw [slots]; exact once
  have below' : ∀ i ∈ (s.modectl w.serve w.permit w.intEnable).buildSlots, i < Config.slotCount := by rw [slots]; exact below
  unfold State.holdRequest at request
  rw [mode] at request
  by_cases hm : s.modes.mode = .run
  · have returned := (s.modectl w.serve w.permit w.intEnable).discardBuild_end none once'
      (fun i hi => by rw [length']; exact below' i hi)
    have discarded := State.discardBuild_only (s.modectl w.serve w.permit w.intEnable) none
    have held := State.enterHold_only ((s.modectl w.serve w.permit w.intEnable).discardBuild none) .request
    have handed := ((State.enterHold_handed ((s.modectl w.serve w.permit w.intEnable).discardBuild none) .request).after
      (State.discardBuild_handed none length' once' below')).afterFields
    have copies := State.discardBuild_asks none length' once' below'
    have modes' := (s.modectl w.serve w.permit w.intEnable).discardBuild_modes none
    have timer' : ((s.modectl w.serve w.permit w.intEnable).discardBuild none).startedTimer = s.startedTimer := by
      rw [← timer]
      unfold State.startedTimer
      rw [modes', discarded.now_eq]
    rw [modes', fields] at handed
    have reads (i : Nat) : (((s.modectl w.serve w.permit w.intEnable).discardBuild none).enterHold .request).slot i =
        if s.modes.mode = .run ∧ i ∈ s.buildSlots ∧ (s.slot i).cancelRequested = false
        then { s.slot i with state := .posted } else s.slot i := by
      rw [held.slot_eq, returned.slots, slots, slot]
      simp only [hm, true_and]
    refine ⟨_, request (by rw [hm]), ?_, ?_, reads, ?_, ?_, ?_, ?_, ?_⟩
    · rw [State.enterHold_modes, modes', fields, timer', if_pos hm]
    · rw [State.enterHold_composer, State.discardBuild_composer, frame.composer_eq, if_pos hm]
    · rw [held.takes_eq, returned.rest, frame.takes_eq]
    · have same := held.asksCopies
      have second := copies.trans same (State.map_congr (by rw [modes'])) (fun i _ h => by rw [held.slot_eq] at h; exact h)
        (fun h => by rw [held.takes_eq] at h; exact h)
      refine asked.trans second (State.map_congr (by rw [fields]; rfl)) (fun i _ _ => slot i) (fun _ => by rw [frame.takes_eq])
    · rw [State.enterHold_journal, returned.journal, slots, if_pos hm]
      have tests : (fun i => ((s.modectl w.serve w.permit w.intEnable).slot i).cancelRequested) =
          fun i => (s.slot i).cancelRequested := funext (fun i => by rw [slot])
      rw [tests]
      exact Report.handed_map_congr frame.journalPart_eq (fun i => State.entryOf_congr (slot i) _ _ _)
    · rw [if_pos hm]
      have mode' : (s.fieldsStored w.serve w.permit w.intEnable).mode = .run := hm
      rw [mode'] at handed
      exact handed.congr (fun c => by simp [hm])
    · exact ((frame.mono (by decide)).next discarded (by decide)).next held (by decide)
  · have stays : ∃ fails : Bool, fails = decide (s.modes.mode ≠ .run ∧ s.modes.mode ≠ .hold ∧ s.modes.mode ≠ .starting) ∧
        (s.modectl w.serve w.permit w.intEnable).holdRequest = if fails
          then (s.modectl w.serve w.permit w.intEnable).failRequest else s.modectl w.serve w.permit w.intEnable := by
      refine ⟨_, rfl, ?_⟩
      unfold State.holdRequest
      rw [mode]
      revert hm
      cases s.modes.mode <;> simp
    obtain ⟨fails, hf, eq⟩ := stays
    obtain ⟨modes, causes, enables, delivers, changes⟩ := s.modectl_refusedIf w.serve w.permit w.intEnable eq
    have handed : HandsOn s (s.modectl w.serve w.permit w.intEnable).holdRequest [] (fun c => decide (c = .modeFail) && fails) := by
      refine ⟨changes.eventPart_eq, fun c => causes c, enables, delivers⟩
    have slot := changes.slot_eq
    refine ⟨_, exec_access h rfl rfl, ?_⟩
    change (s.modectl w.serve w.permit w.intEnable).holdRequest.modes = _ ∧
      (s.modectl w.serve w.permit w.intEnable).holdRequest.composer = _ ∧
      (∀ i, (s.modectl w.serve w.permit w.intEnable).holdRequest.slot i = _) ∧ _
    refine ⟨?_, ?_, fun i => ?_, ?_, changes.asksCopies, ?_, ?_, changes.mono (by decide)⟩
    · rw [modes, if_neg hm]
    · rw [changes.composer_eq, if_neg hm]
    · rw [slot, if_neg (fun h => hm h.1)]
    · change (s.modectl w.serve w.permit w.intEnable).holdRequest.takes = { s.takes with
        slots := (s.modectl w.serve w.permit w.intEnable).holdRequest.takes.slots }
      rw [changes.takes_eq]
    · rw [if_neg hm]
      exact changes.journalPart_eq
    · rw [if_neg hm]
      exact handed.congr (fun c => by rw [hf]; simp [hm])

end Sys2Proof.Machine
end

section
-- Many short proofs follow one another: taken one at a time they need one thread's memory, not one's for each.
set_option Elab.async false
/-! PROOF. NEXTCAUSE (R173, R186), a soft reset (R146, R164, R189), power-on reset and the end of the clear (R127, R183). -/

namespace Sys2Proof.Machine

variable {s t u : State}

/-! NEXTCAUSE (R173, R186). -/

/-- The code found is that of the lowest flag of those tried, 0 where none is set. -/
theorem firstCodeFrom_spec (v : BitVec 14) (n k : Nat) (hk : 1 ≤ k) :
    (firstCodeFrom v n k = 0 ∧ ∀ j, k ≤ j → j < k + n → v.getLsbD (j - 1) = false) ∨
    (k ≤ firstCodeFrom v n k ∧ v.getLsbD (firstCodeFrom v n k - 1) = true ∧
      ∀ j, k ≤ j → j < firstCodeFrom v n k → v.getLsbD (j - 1) = false) := by
  induction n generalizing k with
  | zero => exact .inl ⟨rfl, fun j h1 h2 => by omega⟩
  | succ n ih =>
    unfold firstCodeFrom
    split
    · next h => exact .inr ⟨le_refl k, h, fun j h1 h2 => by omega⟩
    · next h =>
      have stays (j : Nat) (h1 : k ≤ j) : j = k ∨ k + 1 ≤ j := by omega
      rcases ih (k + 1) (by omega) with ⟨h0, hn⟩ | ⟨hge, hset, hlow⟩
      · refine .inl ⟨h0, fun j h1 h2 => ?_⟩
        rcases stays j h1 with rfl | h1
        · simpa using h
        · exact hn j h1 (by omega)
      · refine .inr ⟨by omega, hset, fun j h1 h2 => ?_⟩
        rcases stays j h1 with rfl | h1
        · simpa using h
        · exact hlow j h1 h2

theorem Cause.code_bounds (c : Cause) : 1 ≤ c.code ∧ c.code ≤ 14 := by cases c <;> decide

/-- A flag both set and enabled. -/
def State.asks (s : State) (c : Cause) : Bool := s.causeSet c && s.report.enables.getLsbD (c.code - 1)

theorem State.asks_eq (s : State) (c : Cause) :
    s.asks c = (s.report.causes &&& s.report.enables).getLsbD (c.code - 1) := by
  rw [State.asks, State.causeSet_eq, BitVec.getLsbD_and]

/-- The code NEXTCAUSE shows is 0 where no flag asks, and else the lowest of those that do. -/
theorem State.nextCode_spec (s : State) : (s.nextCode = 0 ∧ ∀ c, s.asks c = false) ∨
    ∃ c, s.nextCode = c.code ∧ s.asks c = true ∧ ∀ d : Cause, d.code < c.code → s.asks d = false := by
  rcases firstCodeFrom_spec (s.report.causes &&& s.report.enables) 14 1 le_rfl with ⟨h0, none⟩ | ⟨hge, hset, low⟩
  · exact .inl ⟨h0, fun c => by rw [s.asks_eq]; exact none _ c.code_bounds.1 (by have := c.code_bounds.2; omega)⟩
  · obtain ⟨c, hc⟩ := exists_cause (BitVec.lt_of_getLsbD hset)
    have code : s.nextCode = c.code := by
      have := c.code_bounds.1
      unfold State.nextCode
      omega
    refine .inr ⟨c, code, by rw [s.asks_eq, hc]; exact hset, fun d hd => ?_⟩
    rw [s.asks_eq]
    exact low _ d.code_bounds.1 (by rw [← State.nextCode, code]; exact hd)

theorem Cause.code_injective {c d : Cause} (h : c.code = d.code) : c = d := by
  revert h
  cases c <;> cases d <;> first | exact fun _ => rfl | exact fun h => absurd h (by decide)

theorem State.nextCode_eq_code (s : State) (c : Cause) : s.nextCode = c.code ↔
    s.asks c = true ∧ ∀ d : Cause, d.code < c.code → s.asks d = false := by
  constructor
  · intro h
    rcases s.nextCode_spec with ⟨h0, -⟩ | ⟨e, he, asks, low⟩
    · have := c.code_bounds.1
      omega
    · obtain rfl := Cause.code_injective (h.symm.trans he)
      exact ⟨asks, low⟩
  · rintro ⟨asks, low⟩
    rcases s.nextCode_spec with ⟨-, none⟩ | ⟨e, he, asks', low'⟩
    · rw [none c] at asks
      cases asks
    · rcases lt_trichotomy e.code c.code with h | h | h
      · rw [low e h] at asks'; cases asks'
      · exact he.trans h
      · rw [low' c h] at asks; cases asks

/-- One flag is popped, that of the code shown. -/
theorem State.popCause_causeSet (s : State) (c : Cause) :
    s.popCause.causeSet c = (s.causeSet c && decide (c.code ≠ s.nextCode)) := by
  have := c.code_bounds
  unfold State.popCause
  split
  · next h => rw [h, decide_eq_true (by omega), Bool.and_true]
  · next h =>
    rw [State.causeSet_eq, State.causeSet_eq, State.setCauses_causes, BitVec.getLsbD_and, BitVec.getLsbD_not,
      BitVec.getLsbD_shiftLeft, BitVec.getLsbD_one]
    have : c.code - 1 < 14 := c.code_lt
    congr 1
    by_cases h1 : c.code = s.nextCode
    · simp [h1]
    · simp [this, h1]; omega

theorem State.bar2Bytes_eq (s : State) (offset length : Nat) : s.bar2Bytes offset length = (List.range length).map (fun k =>
    (s.registerValue (4 * ((offset + k) / 4))).extractLsb' (8 * ((offset + k) % 4)) 8) := by
  unfold State.bar2Bytes
  refine List.map_congr_left (fun k _ => ?_)
  have : offset + k - (offset + k) % 4 = 4 * ((offset + k) / 4) := by omega
  dsimp only
  rw [this]

/-- Settles O32. -/
theorem nextcauseReadPopsOneFlag : Obligations.NextcauseReadPopsOneFlag := by
  intro s offset length h h1 h2
  have touches : touchesNextcause offset length = true := decide_eq_true ⟨h1, h2⟩
  have taken : s.takeRegisterRead offset length = (s.complete (s.bar2Bytes offset length)).popCause := if_pos touches
  have completed := s.complete_only (s.bar2Bytes offset length)
  have code : (s.complete (s.bar2Bytes offset length)).nextCode = s.nextCode := rfl
  have popped := State.popCause_only (s.complete (s.bar2Bytes offset length))
  refine ⟨_, (exec_access h rfl rfl).trans (congrArg Host.Outcome.next taken), ?_, rfl, s.nextCode_eq_code, fun none => ?_,
    Cause.code_bounds, fun c => ?_, ?_, fun hn => ?_, (completed.mono (by decide)).next popped (by decide)⟩
  · rw [popped.completion_eq]
    exact s.bar2Bytes_eq offset length
  · have zero : s.nextCode = 0 := by
      rcases s.nextCode_spec with ⟨h0, -⟩ | ⟨c, -, asks, -⟩
      · exact h0
      · exact absurd asks (by rw [show s.asks c = false from none c]; decide)
    have idle : (s.complete (s.bar2Bytes offset length)).popCause = s.complete (s.bar2Bytes offset length) :=
      if_pos (code.trans zero)
    exact ⟨zero, by rw [idle]; rfl, by rw [idle]; exact completed⟩
  · rw [State.popCause_causeSet, code]
    rfl
  · unfold State.popCause
    split <;> rfl
  · have popped : (s.complete (s.bar2Bytes offset length)).popCause = State.setCauses _ _ := if_neg hn
    rw [popped]
    have delivers := State.setCauses_delivers (s.complete (s.bar2Bytes offset length)) ((s.complete (s.bar2Bytes offset
      length)).report.causes &&& ~~~(1#14 <<< ((s.complete (s.bar2Bytes offset length)).nextCode - 1)))
    exact ⟨delivers.condition, delivers.line, delivers.message⟩

/-! A soft reset (R146, R164, R189). -/

theorem State.map_isSome (s : State) : s.map.isSome = s.modes.captured.isSome := by
  unfold State.map
  cases s.modes.captured <;> rfl

theorem State.softReset_report (s : State) : s.softReset.report = s.report.softReset s.map.isSome :=
  State.rewriteSections_report _

theorem State.softReset_status (s : State) : s.softReset.status =
    if s.modes.captured = none then s.status else { StatusWriter.reset with toRewrite := [3, 4, 5, 6, 7] } := by
  have mapped (v : State) (hv : v.modes.captured = s.modes.captured) : v.rewriteSections.status =
      if s.modes.captured = none then v.status else { StatusWriter.reset with toRewrite := [3, 4, 5, 6, 7] } := by
    unfold State.rewriteSections
    rw [State.map_isSome, hv]
    cases s.modes.captured <;> rfl
  exact mapped _ rfl

theorem State.rewriteSections_port (s : State) : s.rewriteSections.port = s.port := by
  unfold State.rewriteSections
  split <;> rfl

theorem State.softReset_ports_port (s : State) : s.softReset.port = { s.port with holdArea := none, line := false } :=
  State.rewriteSections_port _

/-- Every ring is emptied at its capacity. -/
theorem Report.softReset_ring (r : Report) (b : Bool) (i : RingId) : (r.softReset b).ring i = (r.ring i).emptied b := by
  cases i <;> rfl

/-- Settles O13. -/
theorem softResetReturnsToConfig : Obligations.SoftResetReturnsToConfig := by
  refine ⟨fun s w h hm => ?_, fun s w h hm => ?_⟩
  · have taken : s.takeSoftReset w = s.softReset := if_neg hm
    have report := s.softReset_report
    refine ⟨_, (exec_access h rfl rfl).trans (congrArg Host.Outcome.next taken), s.softReset_modes, s.softReset_takes,
      s.softReset_composer, fun r => ?_, ?_, ?_, ?_, ?_, ?_, ?_, ?_, ?_, s.softReset_ports, s.softReset_status,
      s.softReset_only.mono (by decide)⟩
    · rw [report, Report.softReset_ring, State.map_isSome]
      exact ⟨rfl, rfl, rfl, rfl, rfl, rfl, rfl, rfl, by cases r <;> rfl⟩
    all_goals first | rw [report]; rfl | rw [State.softReset_ports_port]
  · have taken : s.takeSoftReset w = s.modectl false w.permit w.intEnable := if_pos hm
    obtain ⟨modes, causes, enables, delivers, changes⟩ := s.modectl_stays false w.permit w.intEnable
    exact ⟨_, (exec_access h rfl rfl).trans (congrArg Host.Outcome.next taken), modes, causes, enables, delivers, changes⟩

/-! Power-on reset, and the end of the clear (R127, R183, R189). -/

theorem sourcesReset_external {i : Nat} (h : i < 40) : sourcesReset.getD i SourceRec.external = SourceRec.external := by
  revert i
  decide

theorem sourcesReset_internal {i : Nat} (h : 40 ≤ i) (h' : i < 44) :
    sourcesReset.getD i SourceRec.external = SourceRec.internal 60000 := by
  revert i
  decide

theorem State.reset_slot (i : Nat) : State.reset.slot i = SlotRec.empty := by
  simp only [State.slot, State.reset, TakeEngine.reset, List.getD_eq_getElem?_getD, List.getElem?_replicate]
  split <;> rfl

/-- Settles O11. -/
theorem powerOnResetThenClear : Obligations.PowerOnResetThenClear := by
  refine ⟨fun s => ⟨_, rfl, rfl⟩, rfl, ⟨rfl, fun i hi => sourcesReset_external hi, fun i h h' => sourcesReset_internal h h'⟩,
    ⟨rfl, rfl, rfl⟩, ⟨rfl, fun i => ?_, rfl, rfl, rfl⟩, ⟨rfl, rfl, rfl, rfl, rfl, rfl, rfl, rfl⟩,
    ⟨fun k => ?_, rfl, rfl, rfl, rfl, rfl, rfl, rfl, rfl⟩, ⟨rfl, fun a => rfl, fun s h => ?_⟩,
    ⟨rfl, rfl, rfl, rfl, rfl, rfl, rfl, rfl⟩, ⟨rfl, rfl, rfl, rfl, rfl, rfl⟩, fun s hm => ?_, fun s hm => if_neg hm⟩
  · rw [State.reset_slot]
    exact ⟨rfl, rfl, rfl, rfl, rfl⟩
  · cases k <;> rfl
  · rw [State.grant_port, h]
    exact .inr (by decide)
  · refine ⟨_, if_pos hm, fun a => rfl, rfl, ?_, ?_⟩
    · change (State.identValue _).getLsbD 7 = true
      rw [State.identValue_eq, if_neg (fun h => by cases h)]
      decide
    · exact (((s.setRam_only []).mono (by decide)).next (State.setLastServed_only _ _) (by decide)).next (State.setMode_only _ _)
        (by decide)

end Sys2Proof.Machine
end

section
-- Many short proofs follow one another: taken one at a time they need one thread's memory, not one's for each.
set_option Elab.async false
/-! PROOF. Driver reads and writes of BAR0 (R176, R177, R182, R184), and who may write which byte (R179, R180). -/

namespace Sys2Proof.Machine

variable {s t u : State}

/-! What a part of a write stores (R182). -/

theorem State.storedBytes_length (s : State) (offset : Nat) (data : List Byte) :
    (s.storedBytes offset data).length = data.length := by
  simp [State.storedBytes]

theorem State.storePart_read (s : State) (offset : Nat) (data : List Byte) (k : Nat) (h : k < data.length) :
    Memory.read (s.storePart offset data).ram (offset + k) =
      if s.driverMayWrite (offset + k) then data.getD k 0 else Memory.read s.ram (offset + k) := by
  have hk : k < (s.storedBytes offset data).length := by rwa [s.storedBytes_length]
  refine (Memory.read_write_inside _ _ _ _ hk).trans ?_
  simp [State.storedBytes, List.getD_eq_getElem?_getD, h]

theorem State.storePart_sameOutside (s : State) (offset : Nat) (data : List Byte) :
    SameOutside s (s.storePart offset data) offset data.length := fun x hx =>
  Memory.read_write_outside _ _ _ _ (by rwa [s.storedBytes_length])

theorem State.storePart_lost (s : State) (offset : Nat) (data : List Byte) :
    (s.storePart offset data).port.partLost = (s.port.partLost || s.losesBytes offset data.length) := rfl

theorem State.storePart_reads (s : State) (offset : Nat) (data : List Byte) :
    (s.storePart offset data).port.partRead = s.port.partRead ∧ (s.storePart offset data).report = s.report ∧
    (s.storePart offset data).lastServed = (if s.grantless offset data.length then s.lastServed else .exchangePort) :=
  ⟨rfl, rfl, rfl⟩

/-- The last bytes of a write outside STARTING are stored as the others, and a lost byte is flagged. -/
theorem State.takeBar0Write_eq (hm : s.modes.mode ≠ .starting) (offset : Nat) (data : List Byte) :
    s.takeBar0Write offset data = ((s.storePart offset data).modPort (fun pt => { pt with partLost := false })).raiseIf
      (s.port.partLost || s.losesBytes offset data.length) .writeViolation :=
  if_neg hm

theorem State.takeBar0Write_reads (hm : s.modes.mode ≠ .starting) (offset : Nat) (data : List Byte) :
    (s.takeBar0Write offset data).ram = (s.storePart offset data).ram ∧
    (s.takeBar0Write offset data).lastServed = (s.storePart offset data).lastServed ∧
    (s.takeBar0Write offset data).port.partRead = s.port.partRead ∧
    (s.takeBar0Write offset data).port.partLost = false ∧
    (s.takeBar0Write offset data).report.enables = s.report.enables ∧
    ∀ c, (s.takeBar0Write offset data).causeSet c =
      (s.causeSet c || (decide (c = .writeViolation) && (s.port.partLost || s.losesBytes offset data.length))) := by
  rw [State.takeBar0Write_eq hm]
  have only := State.raiseIf_only ((s.storePart offset data).modPort (fun pt => { pt with partLost := false }))
    (s.port.partLost || s.losesBytes offset data.length) .writeViolation
  exact ⟨only.ram_eq, only.lastServed_eq, only.blocks_eq.1, only.blocks_eq.2, State.raiseIf_enables _ _ _,
    State.causeSet_raiseIf _ _ _⟩

theorem OnlyChanges.without_blocks {l k : List Part} (h : OnlyChanges l s t) (hk : l ⊆ .blocks :: k)
    (hb : t.port.partRead = s.port.partRead ∧ t.port.partLost = s.port.partLost) : OnlyChanges k s t := by
  have other : ∀ {p : Part}, p ≠ .blocks → p ∈ l → p ∈ k := fun ne m => (List.mem_cons.1 (hk m)).resolve_left ne
  exact
    { pending := h.pending.imp_left (other (by decide))
      now := h.now.imp_left (other (by decide))
      freeIdx := h.freeIdx.imp_left (other (by decide))
      ram := h.ram.imp_left (other (by decide))
      lastServed := h.lastServed.imp_left (other (by decide))
      link := h.link.imp_left (other (by decide))
      holdArea := h.holdArea.imp_left (other (by decide))
      waiting := h.waiting.imp_left (other (by decide))
      blocks := .inr hb
      completion := h.completion.imp_left (other (by decide))
      interrupt := h.interrupt.imp_left (other (by decide))
      takes := h.takes.imp_left (other (by decide))
      composer := h.composer.imp_left (other (by decide))
      ports := h.ports.imp_left (other (by decide))
      sources := h.sources.imp_left (other (by decide))
      timing := h.timing.imp_left (other (by decide))
      modes := h.modes.imp_left (other (by decide))
      rings := h.rings.imp_left (other (by decide))
      causes := h.causes.imp_left (other (by decide))
      status := h.status.imp_left (other (by decide)) }

/-! How the commands hand an access to the port. -/

theorem exec_bar0Write {offset : Nat} {data : List Byte} (h0 : 0 < data.length) (h : offset + data.length ≤ Config.ramSize) :
    exec (.bar0Write offset data) s = .next (s.arrive (.bar0Write offset data)) := by
  have range : bar0Range offset data.length = true := by simp [bar0Range, h0, h]
  exact (if_pos range : execBar0Write offset data s = _)

theorem exec_bar0Read {offset length : Nat} (h0 : 0 < length) (h : offset + length ≤ Config.ramSize) :
    exec (.bar0Read offset length) s = .next (s.arrive (.bar0Read offset length)) := by
  have range : bar0Range offset length = true := by simp [bar0Range, h0, h]
  exact (if_pos range : execBar0Read offset length s = _)

theorem bar0Range_false {offset length : Nat} (h : length = 0 ∨ Config.ramSize < offset + length) :
    bar0Range offset length = false := by
  simp only [bar0Range, Bool.and_eq_false_iff, decide_eq_false_iff_not]
  omega

/-- While both sides ask and a controller master was served last, an access of more than one grant is served in part. -/
theorem State.serving_part {i first rest : Instr} (hi : s.asksGrant i = true) (hm : s.modes.mode ≠ .starting)
    (hc : s.controllerMaster ≠ none) (hl : s.lastServed ≠ .exchangePort) (hf : s.firstGrant i = some (first, rest)) :
    s.serving i = .part first rest := by
  have granted := State.grant_port.2 (.inr hl)
  simp [State.serving, hi, hm, hc, granted, hf]

theorem State.asksGrant_write {offset : Nat} {data : List Byte}
    (h : ∃ a, offset ≤ a ∧ a < offset + data.length ∧ s.controllerOwns a = false) :
    s.asksGrant (.bar0Write offset data) = true := by
  show (!s.grantless offset data.length) = true
  rw [(s.not_grantless_iff offset data.length).2 h]
  rfl

theorem State.firstGrant_write {offset : Nat} {data : List Byte} (h : s.grantSpan offset data.length < data.length) :
    s.firstGrant (.bar0Write offset data) = some (.bar0Write offset (data.take (s.grantSpan offset data.length)),
      .bar0Write (offset + s.grantSpan offset data.length) (data.drop (s.grantSpan offset data.length))) :=
  if_pos h

/-- A write that goes on behind its next grant has a byte outside the controller-owned sections. -/
theorem State.asksGrant_of_span {offset : Nat} {data : List Byte} (h : s.grantSpan offset data.length < data.length) :
    s.asksGrant (.bar0Write offset data) = true := by
  obtain ⟨a, low, high, -, owned⟩ := (s.grantSpan_spec offset data.length).next h
  exact State.asksGrant_write ⟨a, by omega, high, owned⟩

/-- A write of which only a part is served with the next grant. -/
theorem exec_bar0Write_part {offset : Nat} {data : List Byte} (ok : s.portOk) (h : s.accepts (.bar0Write offset data))
    (hm : s.modes.mode ≠ .starting) (hsize : offset + data.length ≤ Config.ramSize) (hc : s.controllerMaster ≠ none)
    (hl : s.lastServed ≠ .exchangePort) (hn : s.grantSpan offset data.length < data.length) :
    ∃ t, exec (.bar0Write offset data) s = .next t ∧
    let n := s.grantSpan offset data.length
    (∀ k, k < n → Memory.read t.ram (offset + k) =
      if s.driverMayWrite (offset + k) then data.getD k 0 else Memory.read s.ram (offset + k)) ∧
    SameOutside s t offset n ∧ t.port.waiting = [.bar0Write (offset + n) (data.drop n)] ∧
    t.port.partRead = [] ∧ t.port.partLost = (List.range n).any (fun k => !s.driverMayWrite (offset + k)) ∧
    t.lastServed = .exchangePort ∧ OnlyChanges [.ram, .lastServed, .waiting, .blocks] s t := by
  have asks := State.asksGrant_of_span hn
  have first := State.firstGrant_write hn
  have arrives := State.arrive_part h (State.serving_part asks hm hc hl first)
  obtain ⟨partRead, partLost⟩ := ok.noPart_of_empty h.2.1
  refine ⟨_, (exec_bar0Write (by omega) hsize).trans (congrArg Host.Outcome.next arrives), ?_⟩
  generalize hk : s.grantSpan offset data.length = n at first hn ⊢
  have len : (data.take n).length = n := List.length_take_of_le hn.le
  have lost : (s.storePart offset (data.take n)).port.partLost = s.losesBytes offset n := by
    rw [State.storePart_lost, partLost, len, Bool.false_or]
  refine ⟨fun k hkn => ?_, ?_, rfl, partRead, lost, ?_, ((s.storePart_only _ _).mono (by decide)).next (State.setWaiting_only _ _)
    (by decide)⟩
  · refine (s.storePart_read offset (data.take n) k (by rwa [len])).trans ?_
    simp [List.getD_eq_getElem?_getD, hkn]
  · have same := s.storePart_sameOutside offset (data.take n)
    rwa [len] at same
  · exact servePart_lastServed (State.firstGrant_asks asks first).1

/-- Settles O16. -/
theorem bar0WriteStoresDriverBytes : Obligations.Bar0WriteStoresDriverBytes := by
  refine ⟨fun s offset data hm whole => ?_, fun s offset data ok h hm h0 hsize => ?_,
    fun s offset data ok h hm hsize hc hl hn => exec_bar0Write_part ok h hm hsize hc hl hn, fun s offset data h hm hsize hc hl own => ?_,
    fun s offset data h hm h0 hsize => ?_, fun s offset data h => ?_⟩
  · cases whole
    · have only := s.storePart_only offset data
      refine ⟨s.storePart_read offset data, s.storePart_sameOutside offset data, rfl, rfl, by simp [servePart, State.storePart_lost, State.losesBytes],
        fun c => ?_, rfl, (SetsFlags.of_frame only).delivery, only.mono (by decide)⟩
      rw [Bool.and_false, Bool.false_and, Bool.or_false]
      exact State.causeSet_congr rfl c
    · obtain ⟨ram, last, partRead, partLost, enables, causes⟩ := State.takeBar0Write_reads hm offset data
      refine ⟨fun k hk => (congrArg (Memory.read · _) ram).trans (s.storePart_read offset data k hk),
        fun x hx => (congrArg (Memory.read · x) ram).trans (s.storePart_sameOutside offset data x hx), last, partRead, partLost,
        fun c => (causes c).trans (by rw [Bool.and_true]; rfl), enables, (takeRamAccess_sets (.bar0Write offset data) s).delivery,
        s.takeBar0Write_only offset data⟩
  · intro owned cases
    have whole : s.serving (.bar0Write offset data) = .whole := by
      rcases cases with none | own | ⟨last, span⟩
      · exact State.serving_whole (.inr (.inr none))
      · exact State.serving_whole (.inl (by show (!owned) = false; rw [own]; rfl))
      · exact State.serving_oneGrant last (if_neg (by omega))
    obtain ⟨partRead, partLost⟩ := ok.noPart_of_empty h.2.1
    obtain ⟨ram, last, partRead', partLost', enables, causes⟩ := State.takeBar0Write_reads hm offset data
    refine ⟨s.takeBar0Write offset data, (exec_bar0Write h0 hsize).trans (congrArg _ (State.arrive_eq h whole)),
      fun k hk => (congrArg (Memory.read · _) ram).trans (s.storePart_read offset data k hk),
      fun x hx => (congrArg (Memory.read · x) ram).trans (s.storePart_sameOutside offset data x hx), fun c => ?_, enables, last,
      (takeRamAccess_sets (.bar0Write offset data) s).delivery,
      (s.takeBar0Write_only offset data).without_blocks (by decide) ⟨partRead', partLost'.trans partLost.symm⟩⟩
    rw [causes, partLost, Bool.false_or]
    rfl
  · obtain ⟨k, hk, owned⟩ := own
    have asks : s.asksGrant (.bar0Write offset data) = true := State.asksGrant_write ⟨offset + k, by omega, by omega, owned⟩
    exact ⟨s.setWaiting [.bar0Write offset data], (exec_bar0Write (by omega) hsize).trans
      (congrArg _ (State.arrive_waits h (State.serving_waits asks hm hc hl))), rfl, s.setWaiting_only _⟩
  · have taken : s.takeBar0Write offset data = s.raise .writeViolation := if_pos hm
    refine ⟨s.raise .writeViolation, (exec_bar0Write h0 hsize).trans (congrArg _
      ((State.arrive_eq h (State.serving_whole (.inr (.inl hm)))).trans taken)), s.causeSet_raise _, rfl,
      s.setCauses_delivers _, s.raise_only _⟩
  · have range : bar0Range offset data.length = false := bar0Range_false (h.imp_left (fun e => by rw [e]; rfl))
    exact (if_neg (by rw [range]; decide) : execBar0Write offset data s = _)

/-! Reads (R176, R184). -/

/-- The last bytes of a read outside STARTING: the access completes with those of all its blocks. -/
theorem State.takeBar0Read_eq (hm : s.modes.mode ≠ .starting) (offset length : Nat) :
    s.takeBar0Read offset length = ((s.readPart offset length).modPort (fun pt => { pt with partRead := [] })).complete
      (s.port.partRead ++ Memory.bytes s.ram offset length) :=
  if_neg hm

/-- Settles O17. -/
theorem bar0ReadReturnsBytes : Obligations.Bar0ReadReturnsBytes := by
  refine ⟨fun s offset length hm whole => ?_, fun s offset length ok h h0 hsize alone => ?_,
    fun s offset length ok h hsize hm hc hl hn => ?_, fun s offset length h hm h0 hsize hc hl => ?_, fun s offset length h => ?_⟩
  · cases whole
    · exact ⟨rfl, rfl, rfl, rfl, (s.readPart_only offset length).mono (by decide)⟩
    · have taken := State.takeBar0Read_eq hm offset length
      have only := s.takeBar0Read_only offset length
      exact ⟨congrArg (·.port.completion) taken, congrArg (·.port.partRead) taken, congrArg (·.port.partLost) taken,
        congrArg (·.lastServed) taken, only.mono (by decide)⟩
  · have whole : s.serving (.bar0Read offset length) = .whole := by
      rcases alone with starting | none | ⟨last, span⟩
      · exact State.serving_whole (.inr (.inl starting))
      · exact State.serving_whole (.inr (.inr none))
      · exact State.serving_oneGrant last (if_neg (by omega))
    obtain ⟨partRead, partLost⟩ := ok.noPart_of_empty h.2.1
    refine ⟨s.takeBar0Read offset length, (exec_bar0Read h0 hsize).trans (congrArg _ (State.arrive_eq h whole)), ?_⟩
    by_cases hm : s.modes.mode = .starting
    · have taken : s.takeBar0Read offset length = s.complete (List.replicate length 0) := if_pos hm
      rw [if_pos hm, if_pos hm, taken]
      exact ⟨rfl, rfl, (s.complete_only _).mono (by decide)⟩
    · have taken := State.takeBar0Read_eq hm offset length
      have read : (s.takeBar0Read offset length).port.partRead = [] := congrArg (·.port.partRead) taken
      have lost : (s.takeBar0Read offset length).port.partLost = s.port.partLost := congrArg (·.port.partLost) taken
      rw [if_neg hm, if_neg hm]
      refine ⟨?_, congrArg (·.lastServed) taken,
        (s.takeBar0Read_only offset length).without_blocks (by decide) ⟨read.trans partRead.symm, lost⟩⟩
      rw [taken, partRead]
      rfl
  · have first : s.firstGrant (.bar0Read offset length) = some (.bar0Read offset (64 - offset % 64),
        .bar0Read (offset + (64 - offset % 64)) (length - (64 - offset % 64))) := if_pos hn
    have arrives := State.arrive_part h (State.serving_part rfl hm hc hl first)
    obtain ⟨partRead, partLost⟩ := ok.noPart_of_empty h.2.1
    refine ⟨_, (exec_bar0Read (by omega) hsize).trans (congrArg Host.Outcome.next arrives), ?_, partLost, rfl, rfl,
      ((s.readPart_only _ _).mono (by decide)).next (State.setWaiting_only _ _) (by decide)⟩
    show s.port.partRead ++ _ = _
    rw [partRead]
    rfl
  · exact ⟨s.setWaiting [.bar0Read offset length], (exec_bar0Read h0 hsize).trans
      (congrArg _ (State.arrive_waits h (State.serving_waits rfl hm hc hl))), rfl, s.setWaiting_only _⟩
  · exact (if_neg (by rw [bar0Range_false h]; decide) : execBar0Read offset length s = _)

/-! Write ownership (R179, R180). -/

theorem Section.holds_iff (c : Section) (a : Nat) : c.holds a = true ↔ c.start ≤ a ∧ a < c.start + c.size := by
  simp [Section.holds]

theorem sectionOf_eq {m : SectionMap} {n : Nat} {c : Section} (h : m[n - 1]? = some c) : sectionOf m n = c := by
  simp [sectionOf, List.getD_eq_getElem?_getD, h]

theorem getElem_drop_eq_sectionOf {m : SectionMap} {i : Nat} (h : i < (m.drop 2).length) :
    (m.drop 2)[i] = sectionOf m (i + 3) := by
  rw [List.length_drop] at h
  refine (sectionOf_eq ?_).symm
  rw [List.getElem_drop, List.getElem?_eq_some_iff]
  exact ⟨by omega, by congr 1; omega⟩

theorem Captured.placed.controllerHolds_iff {c : Captured} (h : c.placed) (a : Nat) :
    controllerHolds c.map a = true ↔ ∃ n, 3 ≤ n ∧ n ≤ 10 ∧ (sectionOf c.map n).holds a = true := by
  have ten := h.ten
  rw [controllerHolds, List.any_eq_true]
  constructor
  · rintro ⟨d, hd, holds⟩
    obtain ⟨i, hi, rfl⟩ := List.getElem_of_mem hd
    have : i < 8 := by rwa [List.length_drop, ten] at hi
    exact ⟨i + 3, by omega, by omega, by rwa [← getElem_drop_eq_sectionOf hi]⟩
  · rintro ⟨n, low, high, holds⟩
    have bound : n - 3 < (c.map.drop 2).length := by rw [List.length_drop]; omega
    refine ⟨(c.map.drop 2)[n - 3], List.getElem_mem bound, ?_⟩
    rwa [getElem_drop_eq_sectionOf bound, Nat.sub_add_cancel low]

/-- No byte lies in two sections of a placed map. -/
theorem Captured.placed.holds_unique {c : Captured} (h : c.placed) {a k n : Nat} (hk : 1 ≤ k) (hk' : k ≤ 10) (hn : 1 ≤ n)
    (hn' : n ≤ 10) (hka : (sectionOf c.map k).holds a = true) (hna : (sectionOf c.map n).holds a = true) : k = n := by
  rw [Section.holds_iff] at hka hna
  rcases lt_trichotomy k n with lt | eq | gt
  · have := h.apart k n hk lt hn'
    omega
  · exact eq
  · have := h.apart n k hn gt hk'
    omega

/-- The take slot area lies in section 2 (R133, R179). -/
theorem Captured.placed.slotArea_holds {c : Captured} (h : c.placed) {a : Nat} (ha : (slotArea c.map).holds a = true) :
    (sectionOf c.map 2).holds a = true := by
  have := h.minimum 2 (by decide) (by decide)
  simp only [Captured.minimum] at this
  rw [Section.holds_iff] at ha ⊢
  simp only [slotArea, slotSize, Config.slotCount] at ha
  omega

theorem slotArea_holds_iff (m : SectionMap) (a : Nat) : (slotArea m).holds a = true ↔
    ∃ i, i < Config.slotCount ∧ (sectionOf m 2).start + 800 * i ≤ a ∧ a < (sectionOf m 2).start + 800 * (i + 1) := by
  rw [Section.holds_iff]
  simp only [slotArea, slotSize, Config.slotCount]
  generalize (sectionOf m 2).start = base
  constructor
  · rintro ⟨low, high⟩
    have before := Nat.mul_div_le (a - base) 800
    have behind := Nat.lt_mul_div_succ (a - base) (show 0 < 800 by decide)
    have index : (a - base) / 800 < 16 := Nat.div_lt_of_lt_mul (by omega)
    exact ⟨(a - base) / 800, index, by omega, Nat.sub_lt_iff_lt_add' low |>.1 behind⟩
  · rintro ⟨i, hi, low, high⟩
    omega

theorem Mode.slotsOpen_iff (m : Mode) : m.slotsOpen = true ↔ m = .config ∨ m = .activating := by
  cases m <;> simp [Mode.slotsOpen]

theorem State.checkedFallbackHolds_iff (s : State) (a : Nat) : s.checkedFallbackHolds a = true ↔
    (∃ image, s.modes.progress = .checking image ∧ (sectionOf image.map 1).holds a = true) ∨
      ∃ d p, s.modes.progress = .passed d p ∧ (sectionOf d.map 1).holds a = true := by
  unfold State.checkedFallbackHolds
  cases s.modes.progress <;> simp

/-- A fallback record is checked in ACTIVATING alone (R131). -/
theorem State.modeOk.checked_mode (h : s.modeOk) {a : Nat} (hc : s.checkedFallbackHolds a = true) :
    s.modes.mode = .activating :=
  h.progress.1 (fun none => by simp [State.checkedFallbackHolds, none] at hc)

section mapped

variable {c : Captured} {a : Nat}

theorem State.driverMayWrite_mapped (hm : s.modes.mode ≠ .starting) (ha : 4096 ≤ a) (hc : s.modes.captured = some c) :
    s.driverMayWrite a = s.mappedWriter c.map a := by
  have : configSection.holds a = false := by simp [configSection, Section.holds]; omega
  simp [State.driverMayWrite, hm, this, State.map, hc]

theorem State.mappedWriter_fallback (h : (sectionOf c.map 1).holds a = true) :
    s.mappedWriter c.map a = decide (s.modes.mode = .config) := if_pos h

theorem State.modeOk.mappedWriter_checked (ok : s.modeOk) (h : s.checkedFallbackHolds a = true) :
    s.mappedWriter c.map a = false := by
  unfold State.mappedWriter
  split
  · rw [ok.checked_mode h]; rfl
  · rfl

theorem State.mappedWriter_controller (placed : c.placed) (h : controllerHolds c.map a = true) :
    s.mappedWriter c.map a = false := by
  obtain ⟨n, low, high, holds⟩ := (placed.controllerHolds_iff a).1 h
  have first : (sectionOf c.map 1).holds a = false := by
    by_contra h1
    have := placed.holds_unique (by decide) (by decide) (by omega) high (Bool.eq_true_of_not_eq_false h1) holds
    omega
  simp [State.mappedWriter, first, h]

theorem State.mappedWriter_slot (placed : c.placed) {i : Nat} (hi : i < Config.slotCount)
    (low : (sectionOf c.map 2).start + 800 * i ≤ a) (high : a < (sectionOf c.map 2).start + 800 * (i + 1))
    (unchecked : s.checkedFallbackHolds a = false) :
    s.mappedWriter c.map a = (s.modes.mode.slotsOpen || s.slotUnlocked i) := by
  have area : (slotArea c.map).holds a = true := (slotArea_holds_iff c.map a).2 ⟨i, hi, low, high⟩
  have second := placed.slotArea_holds area
  have first : (sectionOf c.map 1).holds a = false := by
    by_contra h1
    exact absurd (placed.holds_unique (by decide) (by decide) (by decide) (by decide) (Bool.eq_true_of_not_eq_false h1) second)
      (by decide)
  have controller : controllerHolds c.map a = false := by
    by_contra hcon
    obtain ⟨n, h3, h10, holds⟩ := (placed.controllerHolds_iff a).1 (Bool.eq_true_of_not_eq_false hcon)
    have := placed.holds_unique (by decide) (by decide) (by omega) h10 second holds
    omega
  have index : (a - (slotArea c.map).start) / slotSize = i := by
    show (a - (sectionOf c.map 2).start) / 800 = i
    omega
  simp [State.mappedWriter, first, unchecked, controller, area, index]

theorem State.mappedWriter_scratch (first : (sectionOf c.map 1).holds a = false) (unchecked : s.checkedFallbackHolds a = false)
    (controller : controllerHolds c.map a = false) (slots : (slotArea c.map).holds a = false) :
    s.mappedWriter c.map a = true := by
  simp [State.mappedWriter, first, unchecked, controller, slots]

end mapped

theorem State.modeOk.controllerOwns_iff (ok : s.modeOk) (a : Nat) : s.controllerOwns a = true ↔ s.driverMayWrite a = false ∧
    ∃ c n, s.modes.captured = some c ∧ 3 ≤ n ∧ n ≤ 10 ∧ (sectionOf c.map n).holds a = true := by
  unfold State.controllerOwns State.map
  cases hc : s.modes.captured with
  | none => simp
  | some c => simp [(ok.placed c hc).controllerHolds_iff a, and_comm]

/-- Settles O18. -/
theorem writeOwnershipTable : Obligations.WriteOwnershipTable := by
  refine ⟨fun m n c _ h => sectionOf_eq h, Section.holds_iff, fun _ => rfl, fun s a ok => ⟨ok.controllerOwns_iff a,
    fun hm => if_pos hm, fun hm ha => ?_, fun hm ha hc => ?_, fun c hm ha hc => ?_⟩⟩
  · have : configSection.holds a = true := by simp [configSection, Section.holds, ha]
    simp [State.driverMayWrite, hm, this]
  · have : configSection.holds a = false := by simp [configSection, Section.holds]; omega
    simp [State.driverMayWrite, hm, this, State.map, hc]
  · have placed := ok.placed c hc
    dsimp only
    rw [State.driverMayWrite_mapped hm ha hc, ← s.checkedFallbackHolds_iff a, ← placed.controllerHolds_iff a]
    refine ⟨State.mappedWriter_fallback, ok.mappedWriter_checked, State.mappedWriter_controller placed, fun i hi area checked => ?_,
      fun first checked controller slots => ?_⟩
    · rw [State.mappedWriter_slot placed hi area.1 area.2 (Bool.eq_false_of_not_eq_true checked), Bool.or_eq_true,
        Mode.slotsOpen_iff, or_assoc]
      simp [State.slotUnlocked]
    · refine State.mappedWriter_scratch (Bool.eq_false_of_not_eq_true first) (Bool.eq_false_of_not_eq_true checked)
        (Bool.eq_false_of_not_eq_true controller) (Bool.eq_false_of_not_eq_true (fun area => ?_))
      obtain ⟨i, hi, low, high⟩ := (slotArea_holds_iff c.map a).1 area
      exact slots i hi ⟨low, high⟩

end Sys2Proof.Machine
end

section
-- Many short proofs follow one another: taken one at a time they need one thread's memory, not one's for each.
set_option Elab.async false
/-! PROOF. The order in which the port takes driver accesses, the arbiter's grants, and the end of the hold (R37, R132, R176,
R177, R181, R182, R184). -/

namespace Sys2Proof.Machine

variable {s t u : State}

/-! The port's queue (R177). -/

/-- Every driver access arrives at the port; one of BAR0 must name bytes of it. -/
theorem exec_eq_arrive {i : Instr} (hi : isAccess i = true)
    (hw : ∀ offset data, i = .bar0Write offset data → 0 < data.length ∧ offset + data.length ≤ Config.ramSize)
    (hr : ∀ offset length, i = .bar0Read offset length → 0 < length ∧ offset + length ≤ Config.ramSize) :
    exec i s = .next (s.arrive i) := by
  cases i with
  | bar0Write offset data =>
    obtain ⟨h0, hsize⟩ := hw offset data rfl
    exact exec_bar0Write h0 hsize
  | bar0Read offset length =>
    obtain ⟨h0, hsize⟩ := hr offset length rfl
    exact exec_bar0Read h0 hsize
  | powerOnReset | ramClearComplete | linkReset _ | pcieConfigChange _ | fallbackRecordReadDone | postChecksComplete
  | activationChecksComplete _ | planPoint | buildTakeCheck | buildComplete _ _ | boundary | mirrorRewriteDone _
  | sourceRecordPublished _ | ringEntryWrite _ | activityArrival _ | activityLoss _ | frameArrival _ _ | frameTimeout _
  | lossHoldExpiry _ | referenceArrival _ | missingPulse | holdoverExpiry | supervisionExpiry | linkReturn
  | slotTableWritten _ | ringHeaderRewrite _ => cases hi
  | _ => rfl

theorem State.arrive_claimed {i : Instr} (h : s.claims = true) : s.arrive i = drain (s.port.waiting ++ [i]) s := if_pos h

theorem drain_blocked {i : Instr} (r : List Instr) (h : s.blocked i = true) : drain (i :: r) s = s.setWaiting (i :: r) := by
  rw [drain, if_pos h]

section unblocked

variable {i : Instr} (r : List Instr)

theorem drain_waits (hb : s.blocked i = false) (h : s.serving i = .waits) : drain (i :: r) s = s.setWaiting (i :: r) := by
  simp [drain, hb, h]

theorem drain_whole (hb : s.blocked i = false) (h : s.serving i = .whole) :
    drain (i :: r) s = drain r (takeAccess i (s.setWaiting [])) := by
  rw [drain, hb, h]; rfl

theorem drain_part {first rest : Instr} (hb : s.blocked i = false) (h : s.serving i = .part first rest) :
    drain (i :: r) s = (servePart first s).setWaiting (rest :: r) := by
  simp [drain, hb, h]

end unblocked

/-- Where the head has to wait, the whole queue waits. -/
theorem drain_stays {q : List Instr} (h : ∀ j ∈ q.head?, s.blocked j = true ∨ s.serving j = .waits) :
    drain q s = s.setWaiting q := by
  cases q with
  | nil => rfl
  | cons j r =>
    cases hb : s.blocked j with
    | true => exact drain_blocked r hb
    | false => exact drain_waits r hb ((h j rfl).resolve_left (by rw [hb]; decide))

theorem State.claims_iff (s : State) : s.claims = true ↔ s.port.linkUp = true ∧ s.port.pcie.memoryDecode = true := by
  simp [State.claims]

theorem isSlotreq_iff (i : Instr) : isSlotreq i = true ↔
    (∃ m, i = .post m) ∨ (∃ m, i = .cancel m) ∨ ∃ a m, i = .slotreqNoAction a m := by
  cases i <;> simp [isSlotreq]

/-- A write is held where one of its bytes lies in the held area (R181). -/
theorem State.isHeld_iff (s : State) (i : Instr) : s.isHeld i = true ↔ ∃ offset data c a, i = .bar0Write offset data ∧
    s.port.holdArea = some c ∧ c.start ≤ a ∧ a < c.start + c.size ∧ offset ≤ a ∧ a < offset + data.length := by
  constructor
  · intro h
    unfold State.isHeld at h
    split at h
    · next offset data c hc =>
      have meets := of_decide_eq_true h
      exact ⟨offset, data, c, max c.start offset, rfl, hc, by simp only at meets; omega, by simp only at meets; omega,
        by omega, by simp only at meets; omega⟩
    · cases h
  · rintro ⟨offset, data, c, a, rfl, hc, h1, h2, h3, h4⟩
    simp only [State.isHeld, hc, Section.meets, decide_eq_true_eq]
    omega

theorem State.blocked_iff (s : State) (i : Instr) : s.blocked i = true ↔ s.takes.toHandle ≠ [] ∨
    (isSlotreq i = true ∧ s.takes.checking ≠ none) ∨ s.isHeld i = true := by
  simp [State.blocked, or_assoc, Option.isSome_iff_ne_none]

/-! How the head is served (R182, R184). -/

theorem State.serving_eq (s : State) (i : Instr) : s.serving i =
    if s.modes.mode = .starting ∨ s.controllerMaster = none ∨ s.asksGrant i = false then .whole
    else if s.lastServed = .exchangePort then .waits
    else match s.firstGrant i with
      | some (first, rest) => .part first rest
      | none => .whole := by
  by_cases hi : s.asksGrant i = true
  · by_cases hm : s.modes.mode = .starting
    · rw [if_pos (.inl hm), State.serving_whole (.inr (.inl hm))]
    · by_cases hc : s.controllerMaster = none
      · rw [if_pos (.inr (.inl hc)), State.serving_whole (.inr (.inr hc))]
      · rw [if_neg (by simp [hi, hm, hc])]
        split
        · next last => exact State.serving_waits hi hm hc last
        · next last =>
          cases hf : s.firstGrant i with
          | none => exact State.serving_oneGrant last hf
          | some p => exact State.serving_part hi hm hc last hf
  · have none := Bool.eq_false_of_not_eq_true hi
    rw [if_pos (.inr (.inr none)), State.serving_whole (.inl none)]

theorem State.serving_write (s : State) (offset : Nat) (data : List Byte) :
    s.serving (.bar0Write offset data) =
      if (s.modes.mode = .starting ∨ s.controllerMaster = none) ∨ s.grantless offset data.length = true then .whole
      else if s.lastServed = .exchangePort then .waits
      else if s.grantSpan offset data.length < data.length
        then .part (.bar0Write offset (data.take (s.grantSpan offset data.length)))
          (.bar0Write (offset + s.grantSpan offset data.length) (data.drop (s.grantSpan offset data.length)))
        else .whole := by
  have asks : s.asksGrant (.bar0Write offset data) = !s.grantless offset data.length := rfl
  rw [s.serving_eq, asks]
  simp only [Bool.not_eq_false', or_assoc, State.firstGrant]
  split_ifs <;> rfl

theorem State.serving_read (s : State) (offset length : Nat) :
    s.serving (.bar0Read offset length) =
      if s.modes.mode = .starting ∨ s.controllerMaster = none then .whole
      else if s.lastServed = .exchangePort then .waits
      else if 64 - offset % 64 < length
        then .part (.bar0Read offset (64 - offset % 64))
          (.bar0Read (offset + (64 - offset % 64)) (length - (64 - offset % 64)))
        else .whole := by
  have asks : s.asksGrant (.bar0Read offset length) = true := rfl
  rw [s.serving_eq, asks]
  simp only [State.firstGrant, reduceCtorEq, or_false]
  split_ifs <;> rfl

theorem State.asksGrant_iff (s : State) (i : Instr) : s.asksGrant i = true ↔
    (∃ offset data k, i = .bar0Write offset data ∧ k < data.length ∧ s.controllerOwns (offset + k) = false) ∨
      ∃ offset length, i = .bar0Read offset length := by
  cases i with
  | bar0Write offset data =>
    constructor
    · intro h
      have some : s.grantless offset data.length = false := by simpa [State.asksGrant] using h
      obtain ⟨a, low, high, owned⟩ := (s.not_grantless_iff _ _).1 some
      exact .inl ⟨offset, data, a - offset, rfl, by omega, by rwa [Nat.add_sub_cancel' low]⟩
    · rintro (⟨o, d, k, eq, hk, owned⟩ | ⟨o, n, eq⟩)
      · cases eq
        exact State.asksGrant_write ⟨offset + k, by omega, by omega, owned⟩
      · cases eq
  | _ => simp [State.asksGrant]

theorem State.portAsks_iff (s : State) : s.portAsks = true ↔ s.modes.mode ≠ .starting ∧
    ∃ i, s.port.waiting.head? = some i ∧ s.blocked i = false ∧ s.asksGrant i = true := by
  simp [State.portAsks, Option.any_eq_true, and_comm]

/-! The masters (R184). -/

theorem StatusWriter.hasWork_iff (w : StatusWriter) : w.hasWork = true ↔
    w.toRewrite ≠ [] ∨ (∃ k, w.rewriting k = true) ∨ w.slotHeaderDirty = true ∨ w.slotDirty ≠ 0 ∨ w.sourceDirty ≠ 0 := by
  have mirrors : (∃ k, w.rewriting k = true) ↔ w.windowsPending = true ∨ w.plansPending = true ∨ w.filtersPending = true := by
    constructor
    · rintro ⟨k, h⟩
      cases k
      · exact .inl h
      · exact .inr (.inl h)
      · exact .inr (.inr h)
    · rintro (h | h | h)
      · exact ⟨.windowTable, h⟩
      · exact ⟨.tilePlans, h⟩
      · exact ⟨.filterList, h⟩
  rw [mirrors]
  simp [StatusWriter.hasWork, or_assoc]

theorem Report.ringWork_iff (r : Report) (k : RingId) : r.ringWork k = true ↔
    (r.ring k).initPending = true ∨ (r.ring k).headerPending = true ∨ r.waitingFor k ≠ 0 := by
  simp [Report.ringWork, or_assoc]

theorem State.ringWriter_waits (s : State) : s.masterWaits .ringWriter = true ↔ s.map ≠ none ∧
    ∃ k, (s.report.ring k).initPending = true ∨ (s.report.ring k).headerPending = true ∨ s.report.waitingFor k ≠ 0 := by
  have rings : (s.report.ringWork .journal || s.report.ringWork .urgent || s.report.ringWork .routine) = true ↔
      ∃ k, s.report.ringWork k = true := by
    constructor
    · intro h
      rcases Bool.or_eq_true_iff.1 h with h | h
      · rcases Bool.or_eq_true_iff.1 h with h | h
        · exact ⟨_, h⟩
        · exact ⟨_, h⟩
      · exact ⟨_, h⟩
    · rintro ⟨k, h⟩
      cases k <;> simp [h]
  simp only [← Report.ringWork_iff]
  rw [← rings]
  simp [State.masterWaits, Option.isSome_iff_ne_none]

theorem State.commitWriter_waits (s : State) : s.masterWaits .commitWriter = true ↔
    s.modes.mode = .starting ∨ s.status.headerWrites ≠ [] := by
  simp [State.masterWaits]

theorem State.buildReading_iff (s : State) : s.buildReading = true ↔
    ∃ b, s.composer.build = some b ∧ b.status = .running ∧ ∃ k ∈ b.takes, k.result = none := by
  unfold State.buildReading
  cases s.composer.build <;> simp

theorem State.takeReader_waits (s : State) : s.masterWaits .takeReader = true ↔
    (∃ i, s.takes.checking = some i ∧ s.finished i = false) ∨
      (∃ b, s.composer.build = some b ∧ b.status = .running ∧ ∃ k ∈ b.takes, k.result = none) ∨ s.modes.reading = true := by
  rw [← State.buildReading_iff]
  simp [State.masterWaits, State.checksInHand, Option.any_eq_true, or_assoc]

theorem State.statusWriter_waits (s : State) : s.masterWaits .statusWriter = true ↔ s.map ≠ none ∧
    (s.status.toRewrite ≠ [] ∨ (∃ k, s.status.rewriting k = true) ∨ s.status.slotHeaderDirty = true ∨
      s.status.slotDirty ≠ 0 ∨ s.status.sourceDirty ≠ 0) := by
  rw [← StatusWriter.hasWork_iff]
  simp [State.masterWaits, Option.isSome_iff_ne_none]

/-- The first of the controller masters that ask. -/
theorem State.controllerMaster_eq (s : State) : s.controllerMaster =
    if s.masterWaits .ringWriter = true then some .ringWriter
    else if s.masterWaits .commitWriter = true then some .commitWriter
    else if s.masterWaits .takeReader = true then some .takeReader
    else if s.masterWaits .statusWriter = true then some .statusWriter else none := by
  unfold State.controllerMaster
  simp only [List.find?_cons, List.find?_nil]
  cases s.masterWaits .ringWriter <;> cases s.masterWaits .commitWriter <;> cases s.masterWaits .takeReader <;>
    cases s.masterWaits .statusWriter <;> rfl

theorem State.grant_true (s : State) : s.grant true = if s.controllerMaster = none ∨ s.lastServed ≠ .exchangePort
    then some .exchangePort else s.controllerMaster := by
  unfold State.grant
  cases s.controllerMaster with
  | none => rfl
  | some m => cases s.lastServed <;> rfl

/-! The port's turn (R184). -/

theorem State.portTurn_write {offset : Nat} {data : List Byte} {r : List Instr} (ha : s.portAsks = true)
    (hl : s.lastServed = .controller) (hw : s.port.waiting = .bar0Write offset data :: r) :
    s.portTurn = if s.grantSpan offset data.length < data.length
      then (servePart (.bar0Write offset (data.take (s.grantSpan offset data.length))) s).setWaiting
        (.bar0Write (offset + s.grantSpan offset data.length) (data.drop (s.grantSpan offset data.length)) :: r)
      else takeAccess (.bar0Write offset data) (s.setWaiting r) := by
  rw [State.portTurn, if_pos (by simp [ha, hl]), hw]
  simp only [State.serveBlock, State.firstGrant]
  split_ifs <;> rfl

theorem State.portTurn_read {offset length : Nat} {r : List Instr} (ha : s.portAsks = true)
    (hl : s.lastServed = .controller) (hw : s.port.waiting = .bar0Read offset length :: r) :
    s.portTurn = if 64 - offset % 64 < length
      then (servePart (.bar0Read offset (64 - offset % 64)) s).setWaiting
        (.bar0Read (offset + (64 - offset % 64)) (length - (64 - offset % 64)) :: r)
      else takeAccess (.bar0Read offset length) (s.setWaiting r) := by
  rw [State.portTurn, if_pos (by simp [ha, hl]), hw]
  simp only [State.serveBlock, State.firstGrant]
  split_ifs <;> rfl

theorem State.portTurn_none (h : s.portAsks = false ∨ s.lastServed ≠ .controller) : s.portTurn = s := by
  refine if_neg (fun both => ?_)
  obtain ⟨asks, last⟩ := Bool.and_eq_true_iff.1 both
  rcases h with h | h
  · rw [h] at asks; cases asks
  · exact h (of_decide_eq_true last)

/-- Settles O15. -/
theorem accessesTakenInOrder : Obligations.AccessesTakenInOrder := by
  refine ⟨fun s i hi hw hr => ?_, fun s q => ⟨s.claims_iff, rfl, rfl⟩,
    fun s i r => ⟨rfl, drain_blocked r, drain_waits r, drain_whole r, fun _ _ => drain_part r, rfl⟩, fun s i => ?_, fun s => ?_,
    State.grantSpan_spec, fun s => ?_, fun s => ⟨State.portTurn_none, fun ha hl =>
      ⟨fun _ _ _ hw => State.portTurn_write ha hl hw, fun _ _ _ hw => State.portTurn_read ha hl hw⟩⟩,
    fun s a bs l => ⟨rfl, rfl, rfl, fun h => State.ctlWrites_quiet h l⟩, step_keeps (fun _ _ => Move.portOk)⟩
  · have arrives := exec_eq_arrive (s := s) hi hw hr
    refine ⟨fun h => arrives.trans (congrArg _ (State.arrive_unclaimed h)),
      fun h => arrives.trans (congrArg _ (State.arrive_claimed h)), fun h stays => ?_⟩
    exact ⟨_, arrives.trans (congrArg _ ((State.arrive_claimed h).trans (drain_stays stays))), rfl, s.setWaiting_only _⟩
  · rw [s.blocked_iff, isSlotreq_iff, s.isHeld_iff]
  · refine ⟨fun offset data => s.serving_write offset data, fun offset length => s.serving_read offset length,
      fun i hw hr => State.serving_whole (.inl ?_), ?_⟩
    · cases i with
      | bar0Write offset data => exact absurd rfl (hw offset data)
      | bar0Read offset length => exact absurd rfl (hr offset length)
      | _ => rfl
    · simp only [s.portAsks_iff, s.asksGrant_iff]
  · dsimp only
    rw [← State.ringWriter_waits, ← State.commitWriter_waits, ← State.takeReader_waits, ← State.statusWriter_waits,
      s.grant_true, s.controllerMaster_eq]
    refine ⟨fun h => if_pos h, fun h k => ?_, fun h k l => ?_, fun h k l m => ?_, fun h k l m => ?_, ?_, ?_, ?_, fun h => ?_,
      fun h => ?_⟩
    · rw [if_neg h, if_pos k]
    · rw [if_neg h, if_neg k, if_pos l]
    · rw [if_neg h, if_neg k, if_neg l, if_pos m]
    · rw [if_neg h, if_neg k, if_neg l, if_neg m]
    · simp [State.readerGranted]
    · simp [State.writerGranted, State.readerGranted]
    · exact s.controllerMaster_eq
    · exact if_pos (.inl h)
    · by_cases last : s.lastServed = .exchangePort
      · rw [if_neg (by simp [h, last]), if_pos last]
      · rw [if_pos (.inr last), if_neg last]

/-! The end of the hold (R132, R181). -/

/-- Settles O19. -/
theorem fallbackReadReleasesHeldWrite : Obligations.FallbackReadReleasesHeldWrite := by
  refine ⟨fun s reading none granted => ?_, fun s h => ?_⟩
  · have runs : (s.modes.reading && s.takes.checking.isNone && s.readerGranted) = true := by simp [reading, none, granted]
    have modes : s.commitDone.ctlRead.modes = s.modes := (State.ctlRead_only _).modes_eq.trans (State.commitDone_only _).modes_eq
    have takes : s.commitDone.ctlRead.takes = s.takes := (State.ctlRead_only _).takes_eq.trans (State.commitDone_only _).takes_eq
    refine ⟨_, (if_pos runs : execFallbackRecordReadDone s = _), rfl, ?_, fun idle => ?_, fun offset data r head handled hm one => ?_⟩
    · rw [← modes]
      rfl
    · exact (if_pos runs : execFallbackRecordReadDone s = _).trans (congrArg Host.Outcome.next (State.resume_idle idle))
    · refine (congrArg (drain · _) head).trans (drain_whole r ?_ ?_)
      · have free : ∀ v : State, v.takes = s.takes → v.port.holdArea = Option.none → v.blocked (.bar0Write offset data) = false := by
          intro v hv hh
          simp [State.blocked, hv, handled, isSlotreq, State.isHeld, hh]
        exact free _ takes rfl
      · rcases one with alone | span
        · exact State.serving_whole (.inr (.inr alone))
        · exact State.serving_oneGrant (fun h => by cases h) (if_neg (by rw [span]; exact lt_irrefl _))
  · have stays : ¬ (s.modes.reading && s.takes.checking.isNone && s.readerGranted) = true := by
      rcases h with h | h | h <;> simp [h, Option.isNone_iff_eq_none]
    exact (if_neg stays : execFallbackRecordReadDone s = _)

end Sys2Proof.Machine
end

section
-- Many short proofs follow one another: taken one at a time they need one thread's memory, not one's for each.
set_option Elab.async false
/-! PROOF. Posts, their checks, and cancels (R27, R37 to R44, R144). -/

namespace Sys2Proof.Machine

variable {s t u : State}

/-! Copies of the slot table asked for (R27). -/

theorem AsksCopies.of_slots (slots : ∀ i, t.slot i = s.slot i) (next : t.takes.nextSeq = s.takes.nextSeq)
    (hs : t.status = s.status) : AsksCopies s.status s t where
  unmapped _ := hs
  records _ i _ := by rw [hs, slots]; simp
  rest _ := by
    have none : s.slotsDiffer t = false := State.slotsDiffer_eq_false.2 (fun i _ => slots i)
    unfold State.slotsDiffer at none
    rw [none, next, hs]
    simp only [Bool.and_false, Bool.not_false, Option.filter_always, ne_eq, not_true_eq_false, decide_false, Bool.or_false]

/-- Changes that touch no slot and not the next post sequence, on either side. -/
theorem AsksCopies.around {s' t' : State} (h : AsksCopies s.status s t) (slots : ∀ i, s'.slot i = s.slot i)
    (next : s'.takes.nextSeq = s.takes.nextSeq) (status : s'.status = s.status) (map : s'.map = s.map)
    (slots' : ∀ i, t'.slot i = t.slot i) (next' : t'.takes.nextSeq = t.takes.nextSeq) (status' : t'.status = t.status) :
    AsksCopies s'.status s' t' where
  unmapped hm := by rw [status, status']; exact h.unmapped (map.symm.trans hm)
  records hm i hi := by rw [status, status', slots, slots']; exact h.records (by rwa [← map]) i hi
  rest hm := by
    have rest := h.rest (by rwa [← map])
    simp only [status, status', slots, slots', next, next']
    exact rest

/-- The next post sequence advances: the header is to be copied. -/
theorem State.nextSeq_asks (s : State) :
    AsksCopies s.status s (s.modTakes (fun te => { te with nextSeq := te.nextSeq + 1 })).markSlotHeader := by
  have status : (s.modTakes (fun te => { te with nextSeq := te.nextSeq + 1 })).markSlotHeader.status =
      if s.map.isSome then { s.status with slotHeaderDirty := true } else s.status := by
    unfold State.markSlotHeader
    change (if s.map.isSome then _ else _ : State).status = _
    split <;> rfl
  have takes := ((s.modTakes (fun te => { te with nextSeq := te.nextSeq + 1 })).markSlotHeader_only).takes_eq
  have slots (i : Nat) : (s.modTakes (fun te => { te with nextSeq := te.nextSeq + 1 })).markSlotHeader.slot i = s.slot i :=
    State.slot_congr takes i
  have next : (s.modTakes (fun te => { te with nextSeq := te.nextSeq + 1 })).markSlotHeader.takes.nextSeq =
      s.takes.nextSeq + 1 := congrArg TakeEngine.nextSeq takes
  have advances : s.takes.nextSeq + 1 ≠ s.takes.nextSeq := fun h => by
    have := congrArg BitVec.toNat h
    rw [BitVec.toNat_add] at this
    have one : (1 : Half).toNat = 1 := rfl
    have := s.takes.nextSeq.isLt
    omega
  refine ⟨fun hm => by rw [status, hm]; rfl, fun hm i hi => ?_, fun hm => ?_⟩
  · rw [status, Option.isSome_iff_ne_none.2 hm, slots]
    simp
  · have none : s.slotsDiffer (s.modTakes (fun te => { te with nextSeq := te.nextSeq + 1 })).markSlotHeader = false :=
      State.slotsDiffer_eq_false.2 (fun i _ => slots i)
    unfold State.slotsDiffer at none
    rw [none, next, status, Option.isSome_iff_ne_none.2 hm]
    simp only [Bool.and_false, Bool.not_false, Option.filter_always, ne_eq, advances, not_false_eq_true, decide_true,
      Bool.or_true, if_true]

/-! What a POST is answered with (R38). -/

theorem State.postRefusal_eq (s : State) (i : Nat) :
    s.postRefusal i = if s.postAnswer i = .none then none else some (s.postAnswer i) := by
  have mode : (!s.modes.mode.takesPosts) = true ↔ s.modes.mode ≠ .run ∧ s.modes.mode ≠ .hold := by
    rw [Bool.not_eq_true', Bool.eq_false_iff, ne_eq, Mode.takesPosts_iff, not_or]
  have full : s.report.journalFull = true ↔
      s.report.journal.capacity ≤ s.report.journal.fill + s.report.journal.reserved := by simp [Report.journalFull]
  unfold State.postRefusal State.postAnswer
  simp only [mode, full, decide_eq_true_eq]
  split_ifs <;> simp_all

theorem State.postAnswer_congr (hm : t.modes.mode = s.modes.mode) (hs : ∀ i, (t.slot i).state = (s.slot i).state)
    (hj : t.report.journal = s.report.journal) (i : Nat) : t.postAnswer i = s.postAnswer i := by
  simp only [State.postAnswer, hm, hs, hj]

section congr

variable (h : ∀ i, t.postAnswer i = s.postAnswer i) (l : List Nat)
include h

theorem State.refusedFirst_congr : t.refusedFirst l = s.refusedFirst l := by simp only [State.refusedFirst, h]

theorem State.fromAccepted_congr : t.fromAccepted l = s.fromAccepted l := by simp only [State.fromAccepted, h]

end congr

section cons

variable {i : Nat} (l : List Nat)

theorem State.refusedFirst_refused (h : s.postAnswer i ≠ .none) : s.refusedFirst (i :: l) = i :: s.refusedFirst l :=
  List.takeWhile_cons_of_pos (by simpa using h)

theorem State.fromAccepted_refused (h : s.postAnswer i ≠ .none) : s.fromAccepted (i :: l) = s.fromAccepted l :=
  List.dropWhile_cons_of_pos (by simpa using h)

theorem State.refusedFirst_accepted (h : s.postAnswer i = .none) : s.refusedFirst (i :: l) = [] :=
  List.takeWhile_cons_of_neg (by simpa using h)

theorem State.fromAccepted_accepted (h : s.postAnswer i = .none) : s.fromAccepted (i :: l) = i :: l :=
  List.dropWhile_cons_of_neg (by simpa using h)

end cons

theorem State.postAnswer_of_refused {l : List Nat} {i : Nat} (h : i ∈ s.refusedFirst l) : s.postAnswer i ≠ .none := by
  simpa using List.mem_takeWhile_imp h

theorem State.postAnswer_of_accepted {l : List Nat} {i : Nat} (h : (s.fromAccepted l).head? = some i) :
    s.postAnswer i = .none := by
  unfold State.fromAccepted at h
  have := List.head?_dropWhile_not (fun i => decide (s.postAnswer i ≠ .none)) l
  rw [h] at this
  simpa using this

/-! One slot of a POST (R27, R38, R39). -/

theorem State.recordRefusal_slot {i : Nat} (r : RefusalReason) (hi : i < s.takes.slots.length) (j : Nat) :
    (s.recordRefusal i r).slot j = if j = i then { s.slot i with lastRefusal := r } else s.slot j :=
  State.setSlot_slot _ hi j

theorem State.recordRefusal_report (s : State) (i : Nat) (r : RefusalReason) : (s.recordRefusal i r).report = s.report :=
  s.setSlot_report i _

theorem State.recordRefusal_takes (s : State) (i : Nat) (r : RefusalReason) :
    (s.recordRefusal i r).takes = { s.takes with slots := (s.recordRefusal i r).takes.slots } := by
  unfold State.recordRefusal
  rw [State.setSlot_takes]

theorem State.recordRefusal_asks {i : Nat} (r : RefusalReason) (hl : s.takes.slots.length = Config.slotCount)
    (hi : i < Config.slotCount) : AsksCopies s.status s (s.recordRefusal i r) :=
  State.setSlot_asks _ hl hi

theorem State.recordRefusal_map (s : State) (i : Nat) (r : RefusalReason) : (s.recordRefusal i r).map = s.map :=
  s.setSlot_map i _

theorem State.refuse_asks {i : Nat} (r : RefusalReason) (hl : s.takes.slots.length = Config.slotCount)
    (hi : i < Config.slotCount) : AsksCopies s.status s (s.refuse i r) :=
  (State.recordRefusal_asks r hl hi).around (fun _ => rfl) rfl rfl rfl (fun _ => rfl) rfl rfl

theorem State.refuse_slot {i : Nat} (r : RefusalReason) (hi : i < s.takes.slots.length) (j : Nat) :
    (s.refuse i r).slot j = if j = i then { s.slot i with lastRefusal := r } else s.slot j :=
  State.recordRefusal_slot r hi j

theorem State.refuse_takes (s : State) (i : Nat) (r : RefusalReason) :
    (s.refuse i r).takes = { s.takes with slots := (s.refuse i r).takes.slots } := s.recordRefusal_takes i r

theorem State.refuse_ringPart (s : State) (i : Nat) (r : RefusalReason) : (s.refuse i r).report.ringPart = s.report.ringPart := by
  unfold State.refuse
  rw [State.raise_ringPart, s.recordRefusal_report]

theorem State.refuse_causeSet (s : State) (i : Nat) (r : RefusalReason) (c : Cause) :
    (s.refuse i r).causeSet c = (s.causeSet c || decide (c = .slotRefused)) := by
  unfold State.refuse
  rw [State.causeSet_raise, State.causeSet_congr (congrArg Report.causes (s.recordRefusal_report i r))]

/-- What comes before, and touches neither the interrupt nor the flags, makes no difference to the delivery. -/
theorem Delivers.after (h : Delivers t u) (hl : t.port.linkUp = s.port.linkUp ∧ t.port.pcie = s.port.pcie)
    (hm : t.port.msiSent = s.port.msiSent) (hc : t.report.condition = s.report.condition) : Delivers s u :=
  ⟨h.condition, h.line, by rw [← hl.1, ← hl.2, ← hm, ← hc]; exact h.message⟩

theorem State.refuse_delivers (s : State) (i : Nat) (r : RefusalReason) : Delivers s (s.refuse i r) :=
  have before := s.recordRefusal_only i r
  (State.setCauses_delivers (s.recordRefusal i r) _).after before.link_eq before.interrupt_eq.2
    (congrArg Report.condition (s.recordRefusal_report i r))

theorem State.buildReading_eq (s : State) : s.buildReading =
    s.composer.build.any (fun b => decide (b.status = .running) && b.takes.any (fun k => decide (k.result = none))) := by
  unfold State.buildReading
  cases s.composer.build with
  | none => rfl
  | some b =>
    refine congrArg (fun p => decide (b.status = .running) && b.takes.any p) (funext (fun k => ?_))
    cases k.result <;> rfl

theorem State.acceptPost_report (s : State) (i : Nat) : (s.acceptPost i).report = { s.report with journal := { s.report.journal with
    reserved := s.report.journal.reserved + 1, headerPending := true } } := by
  change { (s.recordRefusal i .none).report with journal := { (s.recordRefusal i .none).report.journal with
    reserved := (s.recordRefusal i .none).report.journal.reserved + 1, headerPending := true } } = _
  rw [s.recordRefusal_report]

theorem State.acceptPost_takes (s : State) (i : Nat) : (s.acceptPost i).takes = { s.takes with
    slots := (s.recordRefusal i .none).takes.slots, checking := some i, behindBuild := s.buildReading } := by
  have reading : (s.recordRefusal i .none).reserve.buildReading = s.buildReading := by
    unfold State.buildReading
    rw [(State.reserve_only _).composer_eq, (s.recordRefusal_only i .none).composer_eq]
  change { (s.recordRefusal i .none).takes with checking := some i, behindBuild := (s.recordRefusal i .none).reserve.buildReading } = _
  rw [reading, s.recordRefusal_takes]

/-! The slots a POST names (R37 to R39). -/

/-- Whatever touches nothing that a POST looks at may come before it. -/
theorem HandlesPosts.before {l : List Nat} (h : HandlesPosts l u t) (hm : u.modes.mode = s.modes.mode)
    (hmap : u.map = s.map) (slots : ∀ i, u.slot i = s.slot i) (next : u.takes.nextSeq = s.takes.nextSeq)
    (behind : u.takes.behindBuild = s.takes.behindBuild) (report : u.report = s.report) (composer : u.composer = s.composer)
    (status : u.status = s.status) (delivery : KeepsDelivery s t) : HandlesPosts l s t := by
  have answer := State.postAnswer_congr hm (fun i => congrArg SlotRec.state (slots i)) (congrArg Report.journal report)
  have refused := State.refusedFirst_congr answer l
  have accepted := State.fromAccepted_congr answer l
  refine ⟨fun i => ?_, h.checking.trans (by rw [accepted]), h.toHandle.trans (by rw [accepted]), h.nextSeq.trans next,
    h.behind.trans (by rw [accepted, behind, composer]), h.journal.trans (by rw [accepted, report]),
    fun c => (h.causes c).trans (by rw [refused, State.causeSet_congr (congrArg Report.causes report)]),
    h.enables.trans (by rw [report]), delivery,
    h.copies.around (fun i => (slots i).symm) next.symm status.symm hmap.symm (fun _ => rfl) rfl rfl⟩
  rw [h.slots, refused, accepted, answer, slots]

theorem State.handlePosts_nil_handles (hc : s.takes.checking = none) : HandlesPosts [] s (s.handlePosts []) where
  slots _ := rfl
  checking := hc
  toHandle := rfl
  nextSeq := rfl
  behind := rfl
  journal := rfl
  causes c := by
    change s.causeSet c = _
    simp [State.refusedFirst]
  enables := rfl
  interrupt := (s.handlePosts_sets []).delivery
  copies := .of_slots (fun _ => rfl) rfl rfl

theorem State.handlePosts_accepted {i : Nat} {l : List Nat} (hl : s.takes.slots.length = Config.slotCount)
    (hi : i < Config.slotCount) (ha : s.postAnswer i = .none) : HandlesPosts (i :: l) s (s.handlePosts (i :: l)) := by
  have handled : s.handlePosts (i :: l) = (s.acceptPost i).modTakes (fun te => { te with toHandle := l }) := by
    rw [State.handlePosts, s.postRefusal_eq, if_pos ha]
  have takes : (s.handlePosts (i :: l)).takes = { s.takes with
      slots := (s.recordRefusal i .none).takes.slots, checking := some i, behindBuild := s.buildReading, toHandle := l } := by
    rw [handled, modTakes_takes, s.acceptPost_takes]
  have report : (s.handlePosts (i :: l)).report = _ := (congrArg State.report handled).trans (s.acceptPost_report i)
  have status : (s.handlePosts (i :: l)).status = (s.recordRefusal i .none).status := by
    rw [handled]
    rfl
  have sets := s.handlePosts_sets (i :: l)
  have slot (j : Nat) : (s.handlePosts (i :: l)).slot j = (s.recordRefusal i .none).slot j := by
    unfold State.slot
    rw [takes]
  have refused := State.refusedFirst_accepted l ha
  have accepted := State.fromAccepted_accepted l ha
  refine ⟨fun j => ?_, ?_, ?_, ?_, ?_, ?_, fun c => ?_, sets.enables, sets.delivery, ?_⟩
  · rw [slot, State.recordRefusal_slot _ (by rw [hl]; exact hi), refused, accepted]
    by_cases hj : j = i
    · simp [hj]
    · simp [hj, Ne.symm hj]
  · rw [takes, accepted]; rfl
  · rw [takes, accepted]; rfl
  · rw [takes]
  · rw [takes, accepted, if_neg (List.cons_ne_nil _ _)]
    exact s.buildReading_eq
  · rw [report, accepted, if_neg (List.cons_ne_nil _ _)]
  · rw [State.causeSet_congr (t := s.handlePosts (i :: l)) (s := s) (by rw [report]), refused]
    simp
  · exact (State.recordRefusal_asks .none hl hi).around (fun _ => rfl) rfl rfl rfl slot
      (by rw [takes, s.recordRefusal_takes]) status

theorem State.handlePosts_handles {l : List Nat} (hl : s.takes.slots.length = Config.slotCount)
    (hi : ∀ i ∈ l, i < Config.slotCount) (hc : s.takes.checking = none) : HandlesPosts l s (s.handlePosts l) := by
  induction l generalizing s with
  | nil => exact State.handlePosts_nil_handles hc
  | cons i l ih =>
    have hii := hi i List.mem_cons_self
    by_cases ha : s.postAnswer i = .none
    · exact State.handlePosts_accepted hl hii ha
    · have handled : s.handlePosts (i :: l) = (s.refuse i (s.postAnswer i)).handlePosts l := by
        rw [State.handlePosts, s.postRefusal_eq, if_neg ha]
      have slot := State.refuse_slot (s := s) (s.postAnswer i) (by rw [hl]; exact hii)
      have takes := s.refuse_takes i (s.postAnswer i)
      have rings := s.refuse_ringPart i (s.postAnswer i)
      have frame := s.refuse_only i (s.postAnswer i)
      have sets := s.handlePosts_sets (i :: l)
      have answer := State.postAnswer_congr (congrArg ModeCtl.mode frame.modes_eq) (s.refuse_state i (s.postAnswer i))
        (Report.ringPart_parts rings .journal).1
      have refused := State.refusedFirst_refused l ha
      have accepted := State.fromAccepted_refused l ha
      have rest := ih (s := s.refuse i (s.postAnswer i)) ((s.refuse_length i _).trans hl)
        (fun j hj => hi j (List.mem_cons_of_mem i hj)) ((s.refuse_checking i _).trans hc)
      have slots (j : Nat) : ((s.refuse i (s.postAnswer i)).handlePosts l).slot j =
          if j ∈ s.refusedFirst (i :: l) then { s.slot j with lastRefusal := s.postAnswer j }
          else if (s.fromAccepted (i :: l)).head? = some j then { s.slot j with lastRefusal := .none } else s.slot j := by
        rw [rest.slots, State.refusedFirst_congr answer, State.fromAccepted_congr answer, refused, accepted, answer, slot]
        by_cases hj : j = i
        · subst hj
          have unaccepted : (s.fromAccepted l).head? ≠ some j := fun h => ha (State.postAnswer_of_accepted h)
          simp [unaccepted]
        · simp [hj]
      rw [handled] at sets ⊢
      refine ⟨slots, ?_, ?_, ?_, ?_, ?_, fun c => ?_, sets.enables, sets.delivery, ?_⟩
      · rw [rest.checking, State.fromAccepted_congr answer, accepted]
      · rw [rest.toHandle, State.fromAccepted_congr answer, accepted]
      · rw [rest.nextSeq, takes]
      · rw [rest.behind, State.fromAccepted_congr answer, accepted, frame.composer_eq, takes]
      · rw [rest.journal, State.fromAccepted_congr answer, accepted]
        split_ifs
        · exact rings
        · simp only [Report.ringPart, Prod.mk.injEq] at rings ⊢
          obtain ⟨⟨journal, urgent, routine⟩, journalQueue, urgentQueue, routineQueue, job⟩ := rings
          simp only [journal, urgent, routine, journalQueue, urgentQueue, routineQueue, job, and_self]
      · rw [rest.causes, State.refusedFirst_congr answer, s.refuse_causeSet, refused]
        simp only [ne_eq, reduceCtorEq, not_false_eq_true, decide_true, Bool.and_true]
        cases decide (c = Cause.slotRefused) <;> simp
      · refine (State.refuse_asks _ hl hii).trans rest.copies (State.map_congr (by rw [frame.modes_eq])) (fun j _ same => ?_)
          (fun _ => by rw [takes])
        rw [slot]
        split
        · next hj =>
          subst hj
          rw [slots, if_pos (by rw [refused]; exact List.mem_cons_self)] at same
          exact same
        · rfl

end Sys2Proof.Machine
end

section
-- Many short proofs follow one another: taken one at a time they need one thread's memory, not one's for each.
set_option Elab.async false
/-! PROOF. POST, the end of the post checks, and CANCEL (R37 to R44, R60, R144). -/

namespace Sys2Proof.Machine

variable {s t u : State}

/-! POST (R37, R38, R144). -/

theorem maskSlots_bound {mask : BitVec 16} {i : Nat} (h : i ∈ maskSlots mask) : i < Config.slotCount :=
  List.mem_range.1 (List.mem_filter.1 h).1

theorem State.serve_eq (s : State) : s.serve = { s with modes := { s.modes with supervision := s.servedTimer } } := by
  unfold State.serve State.servedTimer State.startSupervision State.startedTimer
  cases h : s.modes.supervision with
  | none =>
    rw [if_neg (by simp), if_pos rfl, ← h]
  | some start => rfl

theorem exec_slotreq {i : Instr} (hi : isSlotreq i = true) (h : s.accepts i) : exec i s = .next (takeAccess i s) := by
  obtain ⟨m, rfl⟩ | ⟨m, rfl⟩ | ⟨a, m, rfl⟩ := (isSlotreq_iff i).1 hi <;> exact exec_access h rfl rfl

theorem State.blocked_post {m : BitVec 16} (h : s.blocked (.post m) = false) :
    s.takes.checking = none ∧ s.takes.toHandle = [] := by
  have free := mt (s.blocked_iff (.post m)).2 (by rw [h]; decide)
  push Not at free
  exact ⟨free.2.1 rfl, free.1⟩

/-- Settles O26. -/
theorem postHandlesNamedSlots : Obligations.PostHandlesNamedSlots := by
  refine ⟨fun s mask h hl => ?_, fun s h => ?_, fun s action mask h => ?_⟩
  · have free := (State.blocked_post h.2.2).1
    have served := s.serve_only
    have handles := State.handlePosts_handles (s := s.serve) (l := maskSlots mask) (by rw [s.serve_takes]; exact hl)
      (fun i => maskSlots_bound) (by rw [s.serve_takes]; exact free)
    have sets := s.serve_sets.next (s.serve.handlePosts_sets (maskSlots mask))
    have frame := s.serve.handlePosts_only (maskSlots mask)
    refine ⟨s.serve.handlePosts (maskSlots mask), exec_slotreq rfl h,
      handles.before (by rw [s.serve_modes]) (State.map_congr (by rw [s.serve_modes])) (State.slot_congr s.serve_takes)
        (by rw [s.serve_takes]) (by rw [s.serve_takes]) s.serve_report served.composer_eq served.status_eq sets.delivery,
      frame.modes_eq.trans s.serve_modes, (served.mono (by decide)).next frame (by decide)⟩
  · obtain ⟨-, handled⟩ := State.blocked_post h.2.2
    refine ⟨s.serve, (exec_slotreq rfl h).trans (congrArg Host.Outcome.next ?_), s.serve_modes, s.serve_only⟩
    change s.serve.modTakes (fun te => { te with toHandle := [] }) = s.serve
    rw [s.serve_eq, ← handled]
    rfl
  · exact ⟨s.serve, exec_slotreq rfl h, s.serve_modes, s.serve_only⟩

/-! The end of the post checks (R39 to R42). -/

theorem State.postCheck_eq (s : State) (i : Nat) (h : TakeHeader) : s.postCheck i h = s.postVerdict (s.slotStart i) h := by
  unfold State.postCheck State.postVerdict passed
  cases h.checked <;> cases h.dueAt <;> cases s.modes.captured <;> simp

theorem State.slotStart_eq (s : State) (i : Nat) : s.slotStart i = (match s.modes.captured with
    | none => 0
    | some c => (sectionOf c.map 2).start + 800 * i) := by
  unfold State.slotStart State.map
  cases s.modes.captured <;> rfl

theorem State.recordedDue_eq (s : State) (h : TakeHeader) : s.recordedDue h = s.dueOf h := by
  unfold State.recordedDue State.dueOf
  cases s.timing.planDone <;> rfl

theorem Mode.keepsPosts_iff (m : Mode) : m.keepsPosts = true ↔ m = .run ∨ m = .hold := by
  rw [m.keepsPosts_eq, m.takesPosts_iff]

theorem State.markSlotHeader_report (s : State) : s.markSlotHeader.report = s.report := by
  unfold State.markSlotHeader
  split <;> rfl

theorem State.recordPost_report (s : State) (i : Nat) (h : TakeHeader) : (s.recordPost i h).report = s.report := by
  unfold State.recordPost State.andThen
  dsimp only
  rw [State.markSlotHeader_report, modTakes_report, s.setSlot_report]

theorem State.recordPost_takes (s : State) (i : Nat) (h : TakeHeader) : (s.recordPost i h).takes =
    { s.takes with slots := (s.recordPost i h).takes.slots, nextSeq := s.takes.nextSeq + 1 } := by
  unfold State.recordPost State.andThen
  dsimp only
  rw [(State.markSlotHeader_only _).takes_eq, modTakes_takes, State.setSlot_takes]

theorem State.recordPost_asks {i : Nat} (h : TakeHeader) (hl : s.takes.slots.length = Config.slotCount)
    (hi : i < Config.slotCount) : AsksCopies s.status s (s.recordPost i h) := by
  unfold State.recordPost State.andThen
  dsimp only
  refine (State.setSlot_asks _ hl hi).trans (State.nextSeq_asks _) (State.setSlot_map _ _ _) (fun j _ same => ?_)
    (fun _ => State.setSlot_nextSeq _ _ _)
  rw [← same]
  unfold State.slot
  rw [(State.markSlotHeader_only _).takes_eq]
  rfl

/-- What is handed on to the journal leaves everything else as it was. -/
theorem State.handAll_checks {i a : Nat} {h : TakeHeader} {es : List JournalEntry}
    (slots : ∀ j, t.slot j = if j = i ∧ s.postVerdict a h = none then
      { s.slot i with
        state := if s.modes.mode = .run ∨ s.modes.mode = .hold then .posted else (s.slot i).state
        seq := s.takes.nextSeq, due := s.dueOf h, header := h }
      else s.slot j)
    (takes : t.takes = { s.takes with slots := t.takes.slots
                                      nextSeq := if s.postVerdict a h = none then s.takes.nextSeq + 1 else s.takes.nextSeq })
    (report : t.report = s.report) (copies : AsksCopies s.status s t)
    (entries : es = match s.postVerdict a h with
      | some r => [⟨i, .rejected, r, none, none, false, h.driverTag, s.takes.nextSeq, none⟩]
      | none => if s.modes.mode = .run ∨ s.modes.mode = .hold then []
        else [⟨i, if s.modes.mode = .fallback then .abandoned else .cancelled, .none, none, none, false, h.driverTag,
          s.takes.nextSeq, none⟩]) : ChecksPost i a h s (t.handAll es) where
  slots := slots
  checking := by rw [show (t.handAll es).takes = t.takes from rfl, takes]
  nextSeq := by rw [show (t.handAll es).takes = t.takes from rfl, takes]
  toHandle := by rw [show (t.handAll es).takes = t.takes from rfl, takes]
  behind := by rw [show (t.handAll es).takes = t.takes from rfl, takes]
  entries := by
    change (t.report.handed es).journalPart = _
    rw [report, entries] <;> rfl
  rings := by
    exact (Report.handed_eventPart t.report es).trans (congrArg Report.eventPart report)
  copies := copies.around (fun _ => rfl) rfl rfl rfl (fun _ => rfl) rfl rfl

section checks

variable {i : Nat}

/-- The post checks of slot `i`, by their verdict and by the mode (R39, R42, R43). -/
theorem State.finishChecks_checks (hl : s.takes.slots.length = Config.slotCount) (hi : i < Config.slotCount) :
    ChecksPost i (s.slotStart i) (Memory.takeHeader s.ctlRead.ram (s.slotStart i)) s.ctlRead (s.finishChecks i) ∧
    OnlyChanges [.takes, .rings, .status] s.ctlRead (s.finishChecks i) := by
  have frame := s.ctlRead_only
  have start : s.ctlRead.slotStart i = s.slotStart i := by
    rw [State.slotStart_eq, State.slotStart_eq, frame.modes_eq]
  have header : s.headerRead i = Memory.takeHeader s.ctlRead.ram (s.slotStart i) := by rw [State.headerRead, start]
  have verdict : s.ctlRead.postCheck i (s.headerRead i) =
      s.ctlRead.postVerdict (s.slotStart i) (Memory.takeHeader s.ctlRead.ram (s.slotStart i)) := by
    rw [State.postCheck_eq, start, header]
  have length : s.ctlRead.takes.slots.length = Config.slotCount := by rw [frame.takes_eq]; exact hl
  rw [← header] at verdict ⊢
  have mode : s.ctlRead.modes.mode.keepsPosts = true ↔ s.ctlRead.modes.mode = .run ∨ s.ctlRead.modes.mode = .hold :=
    Mode.keepsPosts_iff _
  cases hv : s.ctlRead.postVerdict (s.slotStart i) (s.headerRead i) with
  | some r =>
    rw [hv] at verdict
    rw [State.finishChecks_rejected verdict]
    refine ⟨State.handAll_checks (es := [_]) (fun j => ?_) ?_ rfl (.of_slots (fun _ => rfl) rfl rfl) ?_,
      (State.rejectPost_only _ _ _ _).mono (by decide)⟩
    · rw [hv, if_neg (by simp)]
    · rw [hv]; rfl
    · rw [hv]
  | none =>
    rw [hv] at verdict
    have slots := s.ctlRead.recordPost_slots i (s.headerRead i) (by rw [length]; exact hi)
    have takes := s.ctlRead.recordPost_takes i (s.headerRead i)
    have report := s.ctlRead.recordPost_report i (s.headerRead i)
    have asks := State.recordPost_asks (s := s.ctlRead) (s.headerRead i) length hi
    have only := s.ctlRead.recordPost_only i (s.headerRead i)
    have record (j : Nat) : (s.ctlRead.recordPost i (s.headerRead i)).slot j =
        if j = i ∧ s.ctlRead.postVerdict (s.slotStart i) (s.headerRead i) = none then
          { s.ctlRead.slot i with
            state := if s.ctlRead.modes.mode = .run ∨ s.ctlRead.modes.mode = .hold then .posted else (s.ctlRead.slot i).state
            seq := s.ctlRead.takes.nextSeq, due := s.ctlRead.dueOf (s.headerRead i), header := s.headerRead i }
        else s.ctlRead.slot j := by
      rw [slots, hv, State.recordedDue_eq]
      simp only [and_true, mode]
    have engine : (s.ctlRead.recordPost i (s.headerRead i)).takes =
        { s.ctlRead.takes with
          slots := (s.ctlRead.recordPost i (s.headerRead i)).takes.slots
          nextSeq := if s.ctlRead.postVerdict (s.slotStart i) (s.headerRead i) = none then s.ctlRead.takes.nextSeq + 1
            else s.ctlRead.takes.nextSeq } := by
      rw [if_pos hv]
      exact takes
    cases hk : s.ctlRead.modes.mode.keepsPosts with
    | true =>
      rw [State.finishChecks_kept verdict (by rwa [← frame.modes_eq])]
      have checks := State.handAll_checks (es := []) record engine report asks (by rw [hv]; exact (if_pos (mode.1 hk)).symm)
      rw [State.handAll_nil] at checks
      exact ⟨checks, only.mono (by decide)⟩
    | false =>
      rw [State.finishChecks_ended verdict (by rwa [← frame.modes_eq])]
      refine ⟨State.handAll_checks (es := [_]) record engine report asks ?_,
        (only.mono (by decide)).next (State.finishTake_only _ _ _ _ _) (by decide)⟩
      rw [hv]
      refine Eq.trans ?_ (if_neg (fun h => by rw [mode.2 h] at hk; cases hk)).symm
      rw [State.entryOf, slots, if_pos rfl, frame.modes_eq]
      rfl

/-- A take has finished with the end of its post checks unless it is POSTED. -/
theorem State.finishChecks_finished (hl : s.takes.slots.length = Config.slotCount) (hi : i < Config.slotCount)
    (hf : s.finished i = false) : (s.finishChecks i).finished i = true ↔
      ¬ (s.ctlRead.postVerdict (s.slotStart i) (Memory.takeHeader s.ctlRead.ram (s.slotStart i)) = none ∧
        (s.modes.mode = .run ∨ s.modes.mode = .hold)) := by
  have frame := s.ctlRead_only
  have entries := (State.finishChecks_checks hl hi).1.entries
  rw [frame.modes_eq] at entries
  have before : s.ctlRead.finished i = false := by
    rw [State.finished_congr (Report.places_eq frame.places).2.2.2]
    exact hf
  generalize s.ctlRead.postVerdict (s.slotStart i) (Memory.takeHeader s.ctlRead.ram (s.slotStart i)) = verdict at entries ⊢
  have queue := congrArg (fun q => q.2.1.any (fun e => e.slot == i)) entries
  change (s.finishChecks i).finished i = (s.ctlRead.report.journalQueue ++ _).any _ at queue
  rw [List.any_append, show s.ctlRead.report.journalQueue.any (fun e => e.slot == i) = false from before, Bool.false_or] at queue
  rw [queue]
  cases verdict with
  | some r => simp
  | none => by_cases hm : s.modes.mode = .run ∨ s.modes.mode = .hold <;> simp [hm]

end checks

/-- The post checks in hand are done (R37, R39). -/
theorem State.continuePosts_checks {i : Nat} (hc : s.takes.checking = some i) (hf : s.finished i = false)
    (hl : s.takes.slots.length = Config.slotCount) (hi : ∀ j ∈ i :: s.takes.toHandle, j < Config.slotCount) :
    let r := s.ctlRead
    let h := Memory.takeHeader r.ram (s.slotStart i)
    ∃ m, ChecksPost i (s.slotStart i) h r m ∧ OnlyChanges [.takes, .rings, .status] r m ∧
    if r.postVerdict (s.slotStart i) h = none ∧ (s.modes.mode = .run ∨ s.modes.mode = .hold)
    then HandlesPosts s.takes.toHandle m s.continuePosts ∧
      OnlyChanges [.takes, .rings, .interrupt, .causes, .status] m s.continuePosts
    else s.continuePosts = m := by
  have hii := hi i List.mem_cons_self
  obtain ⟨checks, only⟩ := State.finishChecks_checks hl hii
  refine ⟨s.finishChecks i, checks, only, ?_⟩
  have finished := State.finishChecks_finished hl hii hf
  rw [State.continuePosts_eq hc]
  split
  · next posted =>
    rw [if_neg (mt finished.1 (not_not_intro posted))]
    have length : (s.finishChecks i).takes.slots.length = Config.slotCount := (s.finishChecks_slotTotal i).trans hl
    have handles := State.handlePosts_handles (s := (s.finishChecks i).modTakes (fun te => { te with checking := none }))
      (l := s.takes.toHandle) length (fun j hj => hi j (List.mem_cons_of_mem i hj)) rfl
    have sets := State.handlePosts_sets ((s.finishChecks i).modTakes (fun te => { te with checking := none })) s.takes.toHandle
    have frame := State.handlePosts_only ((s.finishChecks i).modTakes (fun te => { te with checking := none })) s.takes.toHandle
    have first := (s.finishChecks i).modTakes_only (fun te => { te with checking := none })
    exact ⟨handles.before rfl rfl (fun _ => rfl) rfl rfl rfl rfl rfl ((SetsFlags.of_frame first).next sets).delivery,
      (first.mono (by decide)).next frame (by decide)⟩
  · next ended => exact if_pos (finished.2 ended)

theorem Deed.keepsQuiet (h : Deed s t) : KeepsQuiet s t := by
  cases h with
  | quiet h => exact fun hs => by rw [h.port]; exact hs
  | portTurn => exact s.portTurn_keeps
  | put a bs => exact .of_frame (s.putBlock_only a bs)
  | raise c => exact .of_frame (s.raise_only c)
  | event i => exact s.writeEvent_keeps i

theorem Runs.keepsQuiet (h : Runs s t) : KeepsQuiet s t :=
  h.keeps (P := fun u => u.port.waiting = []) (fun _ _ d => d.keepsQuiet)

/-- Settles O27. -/
theorem postChecksOutcome : Obligations.PostChecksOutcome := by
  refine ⟨fun s i h => ⟨s.postCheck_eq i h, s.slotStart_eq i⟩, fun s i hc hf hl hi => State.continuePosts_checks hc hf hl hi,
    fun s i hc hf granted free => ?_, fun s h => ?_, fun s b behind hb running left => ?_⟩
  · have runs : (s.checksInHand && !(s.takes.behindBuild && s.buildReading) && s.readerGranted) = true := by
      rw [← State.buildReading_iff] at free
      have : (s.takes.behindBuild && s.buildReading) = false := by simpa using free
      rw [granted, this, State.checksInHand, hc]
      simp [hf]
    have done : exec .postChecksComplete s = .next s.commitDone.continuePosts.resume := if_pos runs
    refine ⟨done, fun headers idle => done.trans (congrArg _ ?_)⟩
    have quiet : s.commitDone = s := by
      unfold State.commitDone
      rw [headers]
      change { s with status := { s.status with headerWrites := [] } } = s
      rw [← headers]
    rw [quiet, State.resume_idle ((Runs.refl (s := s)).continuePosts.keepsQuiet idle)]
  · refine if_neg ?_
    rcases h with h | h
    · have none : s.checksInHand = false := by
        unfold State.checksInHand
        cases hc : s.takes.checking with
        | none => rfl
        | some i => simp [h i hc]
      simp [none]
    · simp [h]
  · refine if_neg ?_
    have := s.buildReading_iff.2 ⟨b, hb, running, left⟩
    simp [behind, this]

/-! CANCEL (R37, R44). -/

/-- The entries of the takes that finished are written while no post is in hand: their slots are IDLE, and the others as they
were (R43, R154). -/
theorem State.writeJournalEntry_slot {e : JournalEntry} {q : List JournalEntry} (hc : s.takes.checking = none)
    (hq : s.report.journalQueue = e :: q) {i : Nat} (hi : i < s.takes.slots.length) :
    s.writeJournalEntry.slot i = (if i = e.slot then (s.slot i).ended else s.slot i) ∧
    s.writeJournalEntry.takes.checking = none ∧ s.writeJournalEntry.takes.slots.length = s.takes.slots.length := by
  have takes := (s.entryCounted_only q).takes_eq
  rw [State.writeJournalEntry_cons hq, State.endTake_of_ne (by rw [takes, hc]; exact fun h => by cases h)]
  refine ⟨?_, by rw [State.setSlot_checking, takes, hc], by rw [State.setSlot_slots_length, takes]⟩
  by_cases hs : e.slot < s.takes.slots.length
  · rw [State.setSlot_slot _ (by rw [takes]; exact hs)]
    split
    · next same => rw [← same, State.slot_congr takes]; rfl
    · exact State.slot_congr takes i
  · have ne : i ≠ e.slot := fun h => hs (h ▸ hi)
    rw [if_neg ne]
    unfold State.slot
    rw [State.setSlot_takes, takes]
    simp [List.getD_eq_getElem?_getD, Ne.symm ne]

theorem State.writeEntries_slot (n : Nat) (hc : s.takes.checking = none) (hn : s.report.journalQueue.length = n) {i : Nat}
    (hi : i < s.takes.slots.length) :
    (s.writeEntries .journal n).slot i = (if s.finished i = true then (s.slot i).ended else s.slot i) ∧
    (s.writeEntries .journal n).report.journalQueue = [] := by
  induction n generalizing s with
  | zero =>
    have empty := List.length_eq_zero_iff.1 hn
    refine ⟨?_, empty⟩
    rw [if_neg (by simp [State.finished, empty])]
    rfl
  | succ n ih =>
    obtain ⟨e, q, hq⟩ := List.exists_cons_of_length_eq_add_one hn
    obtain ⟨slot, checking, length⟩ := State.writeJournalEntry_slot hc hq hi
    have queue : s.writeJournalEntry.report.journalQueue = q := by rw [s.writeJournalEntry_queue, hq]; rfl
    obtain ⟨rest, empty⟩ := ih (s := s.writeJournalEntry) checking (by rw [queue]; simpa [hq] using hn) (by rw [length]; exact hi)
    refine ⟨rest.trans ?_, empty⟩
    have was : s.finished i = (e.slot == i || s.writeJournalEntry.finished i) := by
      simp [State.finished, hq, queue]
    rw [slot, was]
    by_cases he : i = e.slot
    · have self : (e.slot == i) = true := beq_iff_eq.2 he.symm
      rw [self, Bool.true_or, if_pos rfl, if_pos he]
      split <;> rfl
    · have other : (e.slot == i) = false := beq_eq_false_iff_ne.2 (Ne.symm he)
      rw [other, Bool.false_or, if_neg he]

theorem State.journalDone_slot (hc : s.takes.checking = none) {i : Nat} (hi : i < s.takes.slots.length) :
    s.journalDone.slot i = (if s.finished i = true then (s.slot i).ended else s.slot i) ∧
    s.journalDone.report.journalQueue = [] := State.writeEntries_slot _ hc rfl hi

section cancel

variable {i : Nat}

theorem State.cancelSlot_posted (hp : (s.slot i).state = .posted) (hf : s.finished i = false) :
    s.cancelSlot i = ((s.recordRefusal i .none).finishTake i (plainOutcome .cancelled) false none).journalDone := by
  unfold State.cancelSlot
  rw [hf, if_neg (by decide), hp]

theorem State.cancelSlot_building (hb : (s.slot i).state = .building) (hf : s.finished i = false) :
    s.cancelSlot i = s.setSlot i { s.slot i with cancelRequested := true, lastRefusal := .none } := by
  unfold State.cancelSlot
  rw [hf, if_neg (by decide), hb]

theorem State.cancelSlot_idle (h : (s.slot i).state = .idle ∨ s.finished i = true) : s.cancelSlot i = s.refuse i .notPosted := by
  unfold State.cancelSlot
  have idle : (if s.finished i then SlotState.idle else (s.slot i).state) = .idle := by
    rcases h with h | h
    · rw [h]; split <;> rfl
    · exact if_pos h
  rw [idle]

/-- A POSTED take is cancelled: its entry waits behind the others, and all of them are written (R44). -/
theorem State.cancelSlot_cancels (hl : s.takes.slots.length = Config.slotCount) (hi : i < Config.slotCount)
    (hp : (s.slot i).state = .posted) (hf : s.finished i = false) : ∃ u, s.cancelSlot i = u.journalDone ∧
      (∀ j, u.slot j = if j = i then { s.slot i with lastRefusal := .none } else s.slot j) ∧
      u.takes = { s.takes with slots := u.takes.slots } ∧ AsksCopies s.status s u ∧
      u.report = s.report.handed [s.entryOf i (plainOutcome .cancelled) false none] ∧
      OnlyChanges [.takes, .rings, .status] s u ∧
      (s.takes.checking = none → ((s.cancelSlot i).slot i).state = .idle ∧ ((s.cancelSlot i).slot i).lastRefusal = .none ∧
        (s.cancelSlot i).finished i = false) := by
  have cancelled := State.cancelSlot_posted hp hf
  have slot := State.recordRefusal_slot (s := s) .none (by rw [hl]; exact hi)
  have takes := s.recordRefusal_takes i .none
  refine ⟨_, cancelled, slot, takes, (State.recordRefusal_asks .none hl hi).around (fun _ => rfl) rfl rfl rfl (fun _ => rfl) rfl rfl,
    ?_, ((s.recordRefusal_only i .none).mono (by decide)).next (State.finishTake_only _ _ _ _ _) (by decide), fun hc => ?_⟩
  · change (s.recordRefusal i .none).report.handed [(s.recordRefusal i .none).entryOf i _ _ _] = _
    rw [s.recordRefusal_report, State.entryOf, slot, if_pos rfl]
    rfl
  · have checking : ((s.recordRefusal i .none).finishTake i (plainOutcome .cancelled) false none).takes.checking = none := by
      change (s.recordRefusal i .none).takes.checking = none
      rw [takes]
      exact hc
    have length : ((s.recordRefusal i .none).finishTake i (plainOutcome .cancelled) false none).takes.slots.length =
        s.takes.slots.length := s.setSlot_slots_length i _
    obtain ⟨done, empty⟩ := State.journalDone_slot checking (i := i) (by rw [length, hl]; exact hi)
    rw [State.finishTake_finished, if_pos rfl] at done
    rw [cancelled, done]
    refine ⟨rfl, ?_, by simp [State.finished, empty]⟩
    change ((s.recordRefusal i .none).slot i).lastRefusal = _
    rw [slot, if_pos rfl]

/-- Settles O28. -/
theorem cancelActsByState : Obligations.CancelActsByState := by
  refine ⟨fun s mask h => ?_, fun s i hl hi => ⟨State.cancelSlot_cancels hl hi, fun hb hf => ?_, fun hi' => ?_⟩⟩
  · refine (exec_slotreq rfl h).trans ?_
    rw [← s.serve_eq]
    rfl
  · rw [State.cancelSlot_building hb hf]
    exact ⟨State.setSlot_slot _ (by rw [hl]; exact hi), by rw [State.setSlot_takes], State.setSlot_asks _ hl hi, s.setSlot_only i _⟩
  · rw [State.cancelSlot_idle hi']
    exact ⟨State.refuse_slot _ (by rw [hl]; exact hi), s.refuse_takes i _, State.refuse_asks _ hl hi, s.refuse_causeSet i _,
      (State.raise_enables _ _).trans (congrArg Report.enables (s.recordRefusal_report i .notPosted)), s.refuse_delivers i _, (s.refuse_only i _).mono (by decide)⟩

end cancel

end Sys2Proof.Machine
end

section
-- Many short proofs follow one another: taken one at a time they need one thread's memory, not one's for each.
set_option Elab.async false
/-! PROOF. Plan points: gathering in order, and the build that starts (R27, R48 to R53, R60). -/

namespace Sys2Proof.Machine

variable {s t u : State}

/-! The order of gathering (R50, R116). -/

/-- Where slot `i` stands among the takes gathered for boundary `n`, post sequences counted from `base`: urgent first, then the
earlier due frame, the lower post sequence, the lower slot. -/
def State.gatherRank (s : State) (n : Word) (base : Half) (i : Nat) : Nat :=
  (((if (s.slot i).header.urgent then 0 else 2 ^ 31) + (2 ^ 31 - 1 - (n - (s.slot i).due).toNat)) * 2 ^ 15 +
    ((s.slot i).seq - base).toNat) * 16 + i

/-- A take to gather whose rank says where it stands. -/
def State.gathers (s : State) (n : Word) (base : Half) (i : Nat) : Prop :=
  i < 16 ∧ (n - (s.slot i).due).toNat < 2 ^ 31 ∧ ((s.slot i).seq - base).toNat < 2 ^ 15

section order

variable {n : Word} {base : Half} {i j : Nat}

/-- Of two frames not later than `n`, the earlier is further behind it. -/
theorem earlier_iff_behind {n f g : Word} (hf : (n - f).toNat < 2 ^ 31) (hg : (n - g).toNat < 2 ^ 31) :
    earlier f g = true ↔ (n - g).toNat < (n - f).toNat := by
  have fg : f = g ↔ (n - f).toNat = (n - g).toNat := by
    constructor
    · rintro rfl; rfl
    · intro h
      have := BitVec.eq_of_toNat_eq h
      bv_omega
  simp only [earlier, passed, bne_iff_ne, Bool.and_eq_true, decide_eq_true_eq, ne_eq, fg]
  bv_omega

/-- Of two post sequences of the half range from `base` on, the lower is nearer to it. -/
theorem seqLower_iff_nearer {base a b : Half} (ha : (a - base).toNat < 2 ^ 15) (hb : (b - base).toNat < 2 ^ 15) :
    seqLower a b = true ↔ (a - base).toNat < (b - base).toNat := by
  simp only [seqLower, decide_eq_true_eq]
  bv_omega

/-- Slots stand in gathered order as their ranks do. -/
theorem State.gatheredBefore_iff (hi : s.gathers n base i) (hj : s.gathers n base j) :
    gatheredBefore (s.slot i) i (s.slot j) j = true ↔ s.gatherRank n base i < s.gatherRank n base j := by
  obtain ⟨hi, fi, qi⟩ := hi
  obtain ⟨hj, fj, qj⟩ := hj
  have due := earlier_iff_behind fi fj
  have seq := seqLower_iff_nearer qi qj
  have sameDue : (s.slot i).due = (s.slot j).due ↔ (n - (s.slot i).due).toNat = (n - (s.slot j).due).toNat := by
    constructor
    · intro h; rw [h]
    · intro h
      have := BitVec.eq_of_toNat_eq h
      bv_omega
  have sameSeq : (s.slot i).seq = (s.slot j).seq ↔ ((s.slot i).seq - base).toNat = ((s.slot j).seq - base).toNat := by
    constructor
    · intro h; rw [h]
    · intro h
      have := BitVec.eq_of_toNat_eq h
      bv_omega
  unfold gatheredBefore State.gatherRank
  simp only [bne_iff_ne, ne_eq, sameDue, sameSeq]
  generalize (n - (s.slot i).due).toNat = x at *
  generalize (n - (s.slot j).due).toNat = y at *
  generalize ((s.slot i).seq - base).toNat = v at *
  generalize ((s.slot j).seq - base).toNat = w at *
  by_cases urgent : (s.slot i).header.urgent = (s.slot j).header.urgent
  · rw [if_neg (not_not_intro urgent), urgent]
    by_cases hx : x = y
    · rw [if_neg (not_not_intro hx)]
      by_cases hv : v = w
      · rw [if_neg (not_not_intro hv), hx, hv, decide_eq_true_eq]
        omega
      · rw [if_pos hv, seq, hx]
        omega
    · rw [if_pos hx, due]
      split <;> omega
  · rw [if_pos urgent]
    cases hi : (s.slot i).header.urgent with
    | true =>
      have hj : (s.slot j).header.urgent = false := Bool.eq_false_of_not_eq_true (fun h => urgent (hi.trans h.symm))
      simp only [hj, if_true, Bool.false_eq_true, if_false, true_iff]
      omega
    | false =>
      have hj : (s.slot j).header.urgent = true := Bool.eq_true_of_not_eq_false (fun h => urgent (hi.trans h.symm))
      simp only [hj, if_true, Bool.false_eq_true, if_false, false_iff]
      omega

/-- Insertion keeps the order of the ranks. -/
theorem State.insertGathered_sorted {l : List Nat} (hi : s.gathers n base i) (hl : ∀ k ∈ l, s.gathers n base k) (new : i ∉ l)
    (sorted : l.Pairwise (fun a b => s.gatherRank n base a < s.gatherRank n base b)) :
    (s.insertGathered i l).Pairwise (fun a b => s.gatherRank n base a < s.gatherRank n base b) := by
  induction l with
  | nil => exact List.pairwise_singleton _ _
  | cons j l ih =>
    obtain ⟨least, sorted'⟩ := List.pairwise_cons.1 sorted
    have hj := hl j List.mem_cons_self
    have before := State.gatheredBefore_iff hi hj
    unfold State.insertGathered
    split
    · next h =>
      have first := before.1 h
      refine List.pairwise_cons.2 ⟨fun k hk => ?_, sorted⟩
      rcases List.mem_cons.1 hk with rfl | hk
      · exact first
      · exact first.trans (least k hk)
    · next h =>
      have ne : s.gatherRank n base i ≠ s.gatherRank n base j := by
        have hij : i ≠ j := fun e => new (e ▸ List.mem_cons_self)
        have := hi.1
        have := hj.1
        unfold State.gatherRank
        omega
      have behind : s.gatherRank n base j < s.gatherRank n base i := by
        have := mt before.2 h
        omega
      refine List.pairwise_cons.2 ⟨fun k hk => ?_,
        ih (fun k hk => hl k (List.mem_cons_of_mem j hk)) (fun h => new (List.mem_cons_of_mem j h)) sorted'⟩
      rcases List.mem_cons.1 ((s.insertGathered_perm i l).mem_iff.1 hk) with rfl | hk
      · exact behind
      · exact least k hk

theorem foldr_insertGathered_sorted {l : List Nat} (hl : ∀ k ∈ l, s.gathers n base k) (once : l.Nodup) :
    (l.foldr s.insertGathered []).Perm l ∧
    (l.foldr s.insertGathered []).Pairwise (fun a b => s.gatherRank n base a < s.gatherRank n base b) := by
  induction l with
  | nil => exact ⟨.refl _, .nil⟩
  | cons i l ih =>
    obtain ⟨new, once⟩ := List.nodup_cons.1 once
    obtain ⟨perm, sorted⟩ := ih (fun k hk => hl k (List.mem_cons_of_mem i hk)) once
    exact ⟨(s.insertGathered_perm i _).trans (perm.cons i),
      State.insertGathered_sorted (hl i List.mem_cons_self)
        (fun k hk => hl k (List.mem_cons_of_mem i (perm.mem_iff.1 hk))) (fun h => new (perm.mem_iff.1 h)) sorted⟩

end order

/-- What it means that one slot stands before another (R50). -/
theorem gatheredBefore_cases {a b : SlotRec} {i j : Nat} (h : gatheredBefore a i b j = true) :
    (a.header.urgent = true ∧ b.header.urgent = false) ∨
    (a.header.urgent = b.header.urgent ∧ earlier a.due b.due = true) ∨
    (a.header.urgent = b.header.urgent ∧ a.due = b.due ∧ seqLower a.seq b.seq = true) ∨
    (a.header.urgent = b.header.urgent ∧ a.due = b.due ∧ a.seq = b.seq ∧ i < j) := by
  unfold gatheredBefore at h
  simp only [bne_iff_ne, ne_eq, ite_not] at h
  split_ifs at h with urgent due seq
  · exact .inr (.inr (.inr ⟨urgent, due, seq, of_decide_eq_true h⟩))
  · exact .inr (.inr (.inl ⟨urgent, due, h⟩))
  · exact .inr (.inl ⟨urgent, h⟩)
  · exact .inl ⟨h, by rw [h] at urgent; exact Bool.eq_false_of_not_eq_true (fun e => urgent e.symm)⟩

theorem SlotRec.considered_iff (r : SlotRec) (n : Word) :
    r.considered n = true ↔ r.state = .posted ∧ passed r.due n = true := by
  simp [SlotRec.considered]

/-- Settles O38. -/
theorem gatheringTakesSixInOrder : Obligations.GatheringTakesSixInOrder := by
  intro s n base hl due close
  have member (i : Nat) : i ∈ s.slotsOf (fun r => r.considered n) ↔ due i := by
    rw [State.slotsOf_mem, hl, SlotRec.considered_iff]
    tauto
  have gathers (i : Nat) (h : due i) : s.gathers n base i := by
    obtain ⟨hi, posted, finished, frame⟩ := h
    exact ⟨hi, of_decide_eq_true frame, close i ⟨hi, posted, finished, frame⟩⟩
  obtain ⟨perm, sorted⟩ := foldr_insertGathered_sorted (s := s) (n := n) (base := base)
    (fun k hk => gathers k ((member k).1 hk)) (s.slotsOf_nodup _)
  have listed (i : Nat) : i ∈ s.gatheredOrder n ↔ due i := perm.mem_iff.trans (member i)
  refine ⟨s.gatheredOrder n, rfl, listed, sorted.imp_of_mem (fun {i j} hi hj lower => ?_)⟩
  exact gatheredBefore_cases ((State.gatheredBefore_iff (gathers i ((listed i).1 hi)) (gathers j ((listed j).1 hj))).2 lower)

/-! Resolving edits looks at the sources and the wall alone (R102 to R106). -/

theorem State.resolveEdit_congr (hs : t.sources = s.sources) (hc : t.modes.captured = s.modes.captured) (ws : List WindowRec)
    (e : Edit) : t.resolveEdit ws e = s.resolveEdit ws e := by
  have source : t.source = s.source := by funext i; unfold State.source; rw [hs]
  have geometry : t.geometry = s.geometry := by unfold State.geometry; rw [hc]
  have classes : t.classOf = s.classOf := by funext i; unfold State.classOf; rw [source]
  have backup : t.fitBackup = s.fitBackup := by
    funext ws i
    unfold State.fitBackup
    rw [source, geometry, classes]
  unfold State.resolveEdit State.resolveSubstitute State.resolveRestore
  rw [source, backup]

theorem State.resolveEdits_congr (hs : t.sources = s.sources) (hc : t.modes.captured = s.modes.captured) (ws : List WindowRec)
    (es : List Edit) : t.resolveEdits ws es = s.resolveEdits ws es := by
  induction es generalizing ws with
  | nil => rfl
  | cons e es ih => rw [State.resolveEdits_cons, State.resolveEdits_cons, State.resolveEdit_congr hs hc, ih]

/-! Takes that become BUILDING (R27, R50). -/

theorem State.startTakes_takes (s : State) (l : List Nat) :
    (s.startTakes l).takes = { s.takes with slots := (s.startTakes l).takes.slots } := by
  induction l generalizing s with
  | nil => rfl
  | cons i l ih =>
    change ((s.setSlot i { s.slot i with state := .building }).startTakes l).takes = { s.takes with
      slots := ((s.setSlot i { s.slot i with state := .building }).startTakes l).takes.slots }
    rw [ih, State.setSlot_takes]

theorem State.startTakes_report (s : State) (l : List Nat) : (s.startTakes l).report = s.report := by
  induction l generalizing s with
  | nil => rfl
  | cons i l ih => exact (ih _).trans (s.setSlot_report i _)

theorem State.startTakes_asks {l : List Nat} (hl : s.takes.slots.length = Config.slotCount)
    (hi : ∀ i ∈ l, i < Config.slotCount) : AsksCopies s.status s (s.startTakes l) := by
  induction l generalizing s with
  | nil => exact .of_same rfl rfl
  | cons i l ih =>
    have hii := hi i List.mem_cons_self
    have hi := fun j hj => hi j (List.mem_cons_of_mem i hj)
    have length : (s.setSlot i { s.slot i with state := .building }).takes.slots.length = Config.slotCount :=
      (s.setSlot_slots_length i _).trans hl
    have one := State.setSlot_slot (s := s) { s.slot i with state := .building } (by rw [hl]; exact hii)
    refine (State.setSlot_asks _ hl hii).trans (ih length hi) (s.setSlot_map i _) (fun j _ same => ?_)
      (fun _ => s.setSlot_nextSeq i _)
    have all := State.startTakes_slot (s.setSlot i { s.slot i with state := .building }) l j
      (fun k hk => by rw [length]; exact hi k hk)
    rw [one] at all ⊢
    split
    · next hj =>
      subst hj
      simp only [if_true, ite_self] at all
      exact all.symm.trans same
    · rfl

/-! The plan point (R48 to R53, R60). -/

theorem State.insertGathered_congr (h : t.takes = s.takes) (i : Nat) (l : List Nat) :
    t.insertGathered i l = s.insertGathered i l := by
  induction l with
  | nil => rfl
  | cons j l ih =>
    unfold State.insertGathered
    rw [State.slot_congr h, State.slot_congr h, ih]

theorem State.gathered_congr (h : t.takes = s.takes) (hq : t.report.journalQueue = s.report.journalQueue) (n : Word) :
    t.gathered n = s.gathered n := by
  unfold State.gathered State.gatheredOrder
  rw [State.slotsOf_congr h hq, show t.insertGathered = s.insertGathered from
    funext (fun i => funext (fun l => State.insertGathered_congr h i l))]

theorem State.gatherAndBuild_idle {n : Word} (h : (s.expireTakes n).gathered n = [] ∧ s.composer.pendingEdits = []) :
    s.gatherAndBuild n = s.expireTakes n := by
  have edits : (s.expireTakes n).composer.pendingEdits = [] := by rw [(s.expireTakes_only n).composer_eq]; exact h.2
  unfold State.gatherAndBuild State.andThen
  dsimp only
  rw [h.1, edits]
  rfl

theorem State.gatherAndBuild_starts {n : Word}
    (h : ¬ ((s.expireTakes n).gathered n = [] ∧ s.composer.pendingEdits = [])) :
    s.gatherAndBuild n =
      let v := ((s.expireTakes n).startTakes ((s.expireTakes n).gathered n)).modTakes (fun te => { te with behindBuild := false })
      v.setBuild (some (v.newBuild n 0 v.composer.pendingEdits ((s.expireTakes n).gathered n))) := by
  have edits : (s.expireTakes n).composer.pendingEdits = s.composer.pendingEdits := by rw [(s.expireTakes_only n).composer_eq]
  unfold State.gatherAndBuild State.andThen
  dsimp only
  rw [if_neg (by rw [edits]; simpa using h)]

/-- The composer takes up a build. -/
theorem State.setBuild_reads (s : State) (b : BuildRecord) :
    let t := (s.modTakes (fun te => { te with behindBuild := false })).setBuild (some b)
    (∀ i, t.slot i = s.slot i) ∧ t.report = s.report ∧ t.takes = { s.takes with behindBuild := false } ∧
    t.composer = { s.composer with build := some b } ∧ t.status = s.status := ⟨fun _ => rfl, rfl, rfl, rfl, rfl⟩

/-- What a plan point that gathers brings about, the clock and the timing record apart. -/
theorem State.gatherAndBuild_spec (n : Word) (hl : s.takes.slots.length = Config.slotCount) :
    let l := (s.expireTakes n).gathered n
    let t := s.gatherAndBuild n
    (∀ i, t.slot i = if i ∈ l then { s.slot i with state := .building } else s.slot i) ∧
    t.report = (s.expireTakes n).report ∧
    t.takes = { s.takes with
      slots := t.takes.slots
      behindBuild := if l = [] ∧ s.composer.pendingEdits = [] then s.takes.behindBuild else false } ∧
    (if l = [] ∧ s.composer.pendingEdits = [] then t.composer = s.composer
      else t.composer = { s.composer with build := some (s.newBuild n 0 s.composer.pendingEdits l) }) ∧
    AsksCopies s.status s t := by
  have expired := s.expireTakes_eq n
  intro l t
  by_cases idle : l = [] ∧ s.composer.pendingEdits = []
  · have stays : t = s.expireTakes n := State.gatherAndBuild_idle idle
    rw [stays, if_pos idle, if_pos idle, idle.1, expired]
    exact ⟨fun _ => rfl, rfl, rfl, rfl, .of_same rfl rfl⟩
  · have starts := State.gatherAndBuild_starts idle
    have inside : ∀ i ∈ l, i < (s.expireTakes n).takes.slots.length := fun i hi => (State.mem_gathered hi).1
    have slot := State.startTakes_slot (s.expireTakes n) l
    have takes := State.startTakes_takes (s.expireTakes n) l
    have report := State.startTakes_report (s.expireTakes n) l
    have only := State.startTakes_only (s.expireTakes n) l
    have before := s.expireTakes_only n
    have length : (s.expireTakes n).takes.slots.length = Config.slotCount := by rw [before.takes_eq]; exact hl
    have asks := State.startTakes_asks (s := s.expireTakes n) length (fun i hi => length ▸ inside i hi)
    have built : t = (((s.expireTakes n).startTakes l).modTakes (fun te => { te with behindBuild := false })).setBuild
        (some (s.newBuild n 0 s.composer.pendingEdits l)) := by
      refine starts.trans ?_
      dsimp only
      unfold State.newBuild
      rw [modTakes_composer, only.composer_eq, before.composer_eq, State.resolveEdits_congr (s := s)
        (t := ((s.expireTakes n).startTakes l).modTakes (fun te => { te with behindBuild := false }))
        (only.sources_eq.trans before.sources_eq) (by rw [modTakes_modes, only.modes_eq, before.modes_eq])]
    obtain ⟨slots', report', takes', composer', status'⟩ :=
      State.setBuild_reads ((s.expireTakes n).startTakes l) (s.newBuild n 0 s.composer.pendingEdits l)
    rw [← built] at slots' report' takes' composer' status'
    have expiredSlot (i : Nat) : (s.expireTakes n).slot i = s.slot i := State.slot_congr before.takes_eq i
    rw [if_neg idle, if_neg idle]
    refine ⟨fun i => ?_, report'.trans report, ?_, ?_, asks.around (fun i => (expiredSlot i).symm) (by rw [before.takes_eq])
      before.status_eq.symm (State.map_congr (by rw [before.modes_eq])) slots' (by rw [takes']) status'⟩
    · rw [slots', slot i inside, expiredSlot]
    · rw [takes', takes, before.takes_eq]
    · rw [composer', only.composer_eq, before.composer_eq]

/-- The plan point is past, and nothing else has happened. -/
def State.planPassed (s : State) : State := (s.reach s.timing.nextPlan).modTiming (fun ti => { ti with planDone := true })

theorem State.planPassed_only (s : State) : OnlyChanges [.now, .timing] s s.planPassed :=
  OnlyChanges.next ((State.setNow_only _ _).mono (by decide)) (State.modTiming_only _ _) (by decide)

theorem exec_planPoint (hd : s.timing.planDone = false) : exec .planPoint s = .next
    (if s.modes.mode.builds && !s.composer.fallbackOwed then s.planPassed.gatherAndBuild (s.timing.frame + 1) else s.planPassed) :=
  (if_neg (by rw [hd]; decide) : execPlanPoint s = _)

theorem Mode.builds_iff (m : Mode) : m.builds = true ↔ m = .run ∨ m = .fallback := by
  cases m <;> simp [Mode.builds]

/-- The takes that expire at a plan point (R28, R49). -/
theorem State.expired_eq (s : State) (n : Word) (hl : s.takes.slots.length = Config.slotCount) :
    s.slotsOf (fun r => r.considered n && r.pastDeadline n) = (List.range Config.slotCount).filter (fun i =>
      (decide ((s.slot i).state = .posted) && passed (s.slot i).due n && !s.finished i) &&
        (s.slot i).header.deadline != 0 && decide ((s.slot i).header.deadline < (n - (s.slot i).due).toNat)) := by
  rw [State.slotsOf_eq, hl]
  refine List.filter_congr (fun i _ => ?_)
  unfold SlotRec.considered SlotRec.pastDeadline
  cases s.finished i
  · simp [Bool.and_assoc]
  · simp

/-- A take that is gathered is due, and has not expired. -/
theorem State.gathered_due {n : Word} (hl : s.takes.slots.length = Config.slotCount) {i : Nat}
    (h : i ∈ (s.expireTakes n).gathered n) :
    i < Config.slotCount ∧ (s.slot i).considered n = true ∧ s.finished i = false ∧ (s.slot i).pastDeadline n = false := by
  have listed := ((s.expireTakes n).gatheredOrder_perm n).mem_iff.1 (List.mem_of_mem_take h)
  obtain ⟨hi, considered, finished⟩ := State.slotsOf_mem.1 listed
  have slot : (s.expireTakes n).slot i = s.slot i := State.slot_congr (s.expireTakes_only n).takes_eq i
  rw [(s.expireTakes_only n).takes_eq] at hi
  rw [slot] at considered
  rw [s.expireTakes_eq n, State.finished_entries s _ (fun _ => rfl), Bool.or_eq_false_iff, decide_eq_false_iff_not,
    State.slotsOf_mem] at finished
  refine ⟨hl ▸ hi, considered, finished.1, Bool.eq_false_of_not_eq_true (fun late => finished.2 ⟨hi, ?_, finished.1⟩)⟩
  rw [considered, late]
  rfl

/-- Settles O37. -/
theorem planPointGathersAndBuilds : Obligations.PlanPointGathersAndBuilds := by
  refine ⟨fun s hd idle => ?_, fun s hd hm owed hl => ?_, fun s hd => if_pos hd⟩
  · have stays : ¬ (s.modes.mode.builds && !s.composer.fallbackOwed) = true := by
      rw [Bool.and_eq_true, Mode.builds_iff]
      rintro ⟨builds, owed⟩
      rcases idle with idle | idle
      · exact idle builds
      · rw [idle] at owed
        cases owed
    exact ⟨s.planPassed, (exec_planPoint hd).trans (congrArg Host.Outcome.next (if_neg stays)), rfl, rfl, s.planPassed_only⟩
  · have builds : (s.modes.mode.builds && !s.composer.fallbackOwed) = true := by
      rw [(Mode.builds_iff _).2 hm, owed]
      rfl
    intro n due late expired ended l
    have listed : s.slotsOf (fun r => r.considered n && r.pastDeadline n) = expired := s.expired_eq n hl
    have before : s.expireTakes n = ended := by
      rw [s.expireTakes_eq, listed]
      rfl
    have after : s.planPassed.expireTakes n = s.planPassed.handAll (expired.map (fun i => s.entryOf i (plainOutcome .expired) false none)) := by
      rw [s.planPassed.expireTakes_eq, show s.planPassed.slotsOf (fun r => r.considered n && r.pastDeadline n) = expired from listed]
      rfl
    have gathered : (s.planPassed.expireTakes n).gathered n = l := by
      refine State.gathered_congr ?_ ?_ n
      · rw [after]; rfl
      · rw [after]; rfl
    obtain ⟨slots, report, takes, composer, asks⟩ := s.planPassed.gatherAndBuild_spec n hl
    have only := s.planPassed.gatherAndBuild_only n
    rw [gathered] at slots takes composer
    have sameReport : (s.planPassed.gatherAndBuild n).report = ended.report := by
      rw [report, after]
      rfl
    refine ⟨s.planPassed.gatherAndBuild n, (exec_planPoint hd).trans (congrArg Host.Outcome.next (if_pos builds)), only.timing_eq,
      only.now_eq, fun i hi => ?_, fun i _ => slots i, by rw [sameReport], by rw [sameReport]; rfl, takes, ?_,
      asks.around (fun _ => rfl) rfl rfl rfl (fun _ => rfl) rfl rfl, (s.planPassed_only.mono (by decide)).next only (by decide)⟩
    · have hi : i ∈ (s.expireTakes n).gathered n := by rw [before]; exact hi
      obtain ⟨-, considered, finished, notLate⟩ := State.gathered_due hl hi
      have isDue : due i = true := by
        rw [show due i = ((s.slot i).considered n && !s.finished i) from rfl, considered, finished]
        rfl
      refine ⟨isDue, ?_⟩
      have pastDeadline : late i = (due i && (s.slot i).pastDeadline n) := Bool.and_assoc _ _ _
      rw [pastDeadline, notLate, Bool.and_false]
    · by_cases none : l = [] ∧ s.composer.pendingEdits = []
      · rw [if_pos none]
        exact (if_pos none).mp composer
      · rw [if_neg none]
        have built : (s.planPassed.gatherAndBuild n).composer = _ := (if_neg none).mp composer
        exact ⟨_, built, rfl, rfl, rfl, rfl, rfl, rfl, rfl,
          State.resolveEdits_congr (s := s) (t := s.planPassed) rfl rfl _ _⟩

end Sys2Proof.Machine
end

section
-- Many short proofs follow one another: taken one at a time they need one thread's memory, not one's for each.
set_option Elab.async false
/-! PROOF. The checks on entries and on whole layouts, and what an entry that passed them does (R5, R29 to R36, R55 to R58). -/

namespace Sys2Proof.Machine

variable {s t u : State}

/-! The first check that fails. -/

theorem FirstOf.nil {B : Reason → Prop} {r : Reason} : ¬ FirstOf [] B r := by
  rintro ⟨pre, post, h, -, -⟩
  cases pre <;> cases h

theorem FirstOf.cons {q : Reason} {l : List Reason} {B : Reason → Prop} {r : Reason} :
    FirstOf (q :: l) B r ↔ (B q ∧ r = q) ∨ (¬ B q ∧ FirstOf l B r) := by
  constructor
  · rintro ⟨pre, post, h, hr, none⟩
    cases pre with
    | nil =>
      obtain ⟨rfl, -⟩ := List.cons.inj h
      exact .inl ⟨hr, rfl⟩
    | cons p pre =>
      obtain ⟨rfl, rest⟩ := List.cons.inj h
      exact .inr ⟨none q List.mem_cons_self, pre, post, rest, hr, fun p hp => none p (List.mem_cons_of_mem q hp)⟩
  · rintro (⟨hq, rfl⟩ | ⟨hq, pre, post, rfl, hr, none⟩)
    · exact ⟨[], l, rfl, hq, fun p hp => absurd hp List.not_mem_nil⟩
    · refine ⟨q :: pre, post, rfl, hr, fun p hp => ?_⟩
      rcases List.mem_cons.1 hp with rfl | hp
      · exact hq
      · exact none p hp

/-- A list of tests finds the first of the checks that they test. -/
theorem firstFailure_iff {l : List (Bool × Reason)} {B : Reason → Prop} (h : ∀ p ∈ l, p.1 = true ↔ B p.2) :
    (∀ r, firstFailure l = some r ↔ FirstOf (l.map (·.2)) B r) ∧ (firstFailure l = none ↔ ∀ p ∈ l, ¬ B p.2) := by
  induction l with
  | nil => exact ⟨fun r => ⟨fun h => (by cases h), fun h => absurd h FirstOf.nil⟩, by simp [firstFailure]⟩
  | cons p l ih =>
    obtain ⟨first, none⟩ := ih (fun q hq => h q (List.mem_cons_of_mem p hq))
    have head := h p List.mem_cons_self
    obtain ⟨fails, q⟩ := p
    cases fails with
    | true =>
      have hq : B q := head.1 rfl
      refine ⟨fun r => ?_, by simp [firstFailure, hq]⟩
      rw [List.map_cons, FirstOf.cons]
      simp [firstFailure, hq, eq_comm]
    | false =>
      have hq : ¬ B q := fun h => by cases head.2 h
      refine ⟨fun r => ?_, ?_⟩
      · rw [List.map_cons, FirstOf.cons]
        simpa [firstFailure, hq] using first r
      · rw [List.forall_mem_cons]
        simpa [firstFailure, hq] using none

/-- The first check that has found something, and what it found. -/
def firstFinding : List (Reason × Option (Option Nat)) → Option (Reason × Option Nat)
  | [] => none
  | (r, some tile) :: _ => some (r, tile)
  | (_, none) :: l => firstFinding l

theorem firstFinding_iff {l : List (Reason × Option (Option Nat))} {B : Option Nat → Reason → Prop}
    (h : ∀ p ∈ l, ∀ tile, B tile p.1 ↔ p.2 = some tile) :
    (∀ r tile, firstFinding l = some (r, tile) ↔ FirstOf (l.map (·.1)) (fun q => ∃ k, B k q) r ∧ B tile r) ∧
    (firstFinding l = none ↔ ∀ p ∈ l, ∀ tile, ¬ B tile p.1) := by
  induction l with
  | nil => exact ⟨fun r tile => ⟨fun h => (by cases h), fun h => absurd h.1 FirstOf.nil⟩, by simp [firstFinding]⟩
  | cons p l ih =>
    obtain ⟨first, none⟩ := ih (fun q hq => h q (List.mem_cons_of_mem p hq))
    have head := h p List.mem_cons_self
    obtain ⟨q, found⟩ := p
    cases found with
    | some k =>
      have hk : B k q := (head k).2 rfl
      refine ⟨fun r tile => ?_, ⟨fun h => (by cases h), fun h => absurd hk (h _ List.mem_cons_self k)⟩⟩
      rw [List.map_cons, FirstOf.cons]
      simp only [firstFinding, Option.some.injEq, Prod.mk.injEq]
      constructor
      · rintro ⟨rfl, rfl⟩
        exact ⟨.inl ⟨⟨k, hk⟩, rfl⟩, hk⟩
      · rintro ⟨⟨-, rfl⟩ | ⟨none, -⟩, ht⟩
        · exact ⟨rfl, Option.some.inj ((head tile).1 ht)⟩
        · exact absurd ⟨k, hk⟩ none
    | none =>
      have hq : ∀ tile, ¬ B tile q := fun tile hb => by cases (head tile).1 hb
      refine ⟨fun r tile => ?_, ?_⟩
      · rw [List.map_cons, FirstOf.cons]
        simpa [firstFinding, hq] using first r tile
      · rw [List.forall_mem_cons]
        simpa [firstFinding, hq] using none

/-! Entries (R5, R35, R55). -/

theorem filterAction_iff (n : Nat) : (filterAction n = none ↔ 2 < n) ∧
    ∀ a, filterAction n = some a ↔ filterActionsInOrder[n]? = some a := by
  match n with
  | 0 | 1 | 2 => exact ⟨by simp [filterAction], fun a => Iff.rfl⟩
  | n + 3 => exact ⟨by simp [filterAction], fun a => by simp [filterAction, filterActionsInOrder]⟩

theorem RawFilter.entry_eq_some (f : RawFilter) (g : FilterEntry) : f.entry = some g ↔
    (f.low ≤ 63 ∧ f.high ≤ 63 ∧ f.low ≤ f.high ∧ f.kinds.toNat < 256) ∧ filterAction f.action = some g.action ∧
    g = { enabled := f.enabled, kinds := f.kinds.setWidth 8, low := f.low, high := f.high, action := g.action } := by
  unfold RawFilter.entry
  cases filterAction f.action with
  | none => simp
  | some a =>
    by_cases ok : f.low ≤ 63 ∧ f.high ≤ 63 ∧ f.low ≤ f.high ∧ f.kinds.toNat < 256
    · simp only [ok, and_self, if_true, Option.some.injEq, true_and]
      constructor
      · rintro rfl
        exact ⟨rfl, rfl⟩
      · rintro ⟨h, e⟩
        rw [e, h]
    · simp [ok]

theorem RawFilter.entry_eq_none (f : RawFilter) :
    f.entry = none ↔ 2 < f.action ∨ f.high < f.low ∨ 63 < f.high ∨ 256 ≤ f.kinds.toNat := by
  unfold RawFilter.entry
  cases h : filterAction f.action with
  | none => exact ⟨fun _ => .inl ((filterAction_iff f.action).1.1 h), fun _ => rfl⟩
  | some a =>
    have known : ¬ 2 < f.action := fun hf => by rw [(filterAction_iff f.action).1.2 hf] at h; cases h
    simp only [ite_eq_right_iff, reduceCtorEq, imp_false]
    omega

theorem Rect.overlaps_iff (a b : Rect) : a.overlaps b = true ↔ ∃ x y, a.x ≤ x ∧ x < a.x + a.w ∧ a.y ≤ y ∧ y < a.y + a.h ∧
    b.x ≤ x ∧ x < b.x + b.w ∧ b.y ≤ y ∧ y < b.y + b.h := by
  unfold Rect.overlaps
  rw [decide_eq_true_eq]
  constructor
  · rintro ⟨hx, hy⟩
    exact ⟨max a.x b.x, max a.y b.y, by omega⟩
  · rintro ⟨x, y, h⟩
    omega

theorem Rect.largeEnough_eq_false (r : Rect) : r.largeEnough = false ↔ r.w < 64 ∨ r.h < 36 := by
  simp only [Rect.largeEnough, decide_eq_false_iff_not]
  omega

theorem Rect.insideWall_eq_false (r : Rect) (g : Geometry) :
    r.insideWall g = false ↔ g.cols * 1920 < r.x + r.w ∨ g.rows * 1080 < r.y + r.h := by
  simp only [Rect.insideWall, decide_eq_false_iff_not]
  omega

theorem Rect.cropOk_eq_false (r : Rect) :
    r.cropOk = false ↔ r.w < 16 ∨ r.h < 16 ∨ 4096 < r.x + r.w ∨ 2160 < r.y + r.h := by
  simp only [Rect.cropOk, decide_eq_false_iff_not]
  omega

theorem Entry.needsAuthority_iff (e : Entry) (k : EntryKind) (w : WindowRec) : e.needsAuthority k w = true ↔
    k = .protect ∨ (k = .show ∧ e.prot = true) ∨ (w.visible = true ∧ w.prot = true) := by
  simp [Entry.needsAuthority, or_assoc]

/-- The tests of an entry test what R55 names. -/
theorem Entry.checks_iff (e : Entry) (c : EntryContext) (ws : List WindowRec) (k : EntryKind) :
    ∀ p ∈ e.staticChecks k c.geometry (fun i => (c.source i).settings.enabled) ++ e.dynamicChecks k c (windowAt ws e.window),
      p.1 = true ↔ e.breaks c ws k p.2 := by
  unfold Entry.staticChecks Entry.dynamicChecks
  simp only [List.cons_append, List.nil_append, List.forall_mem_cons, List.not_mem_nil, false_implies, implies_true, and_true,
    Entry.breaks, Bool.and_eq_true, Bool.or_eq_true, Bool.not_eq_true', decide_eq_true_eq, ne_eq, beq_iff_eq,
    Rect.largeEnough_eq_false, Rect.insideWall_eq_false, Rect.cropOk_eq_false, Option.isNone_iff_eq_none,
    RawFilter.entry_eq_none, e.needsAuthority_iff, and_assoc, true_and]
  tauto

theorem entryKind_eq_none (n : Nat) : entryKind n = none ↔ n = 0 ∨ 9 < n := by
  match n with
  | 0 | 1 | 2 | 3 | 4 | 5 | 6 | 7 | 8 | 9 => simp [entryKind]
  | n + 10 => simp [entryKind]

theorem Entry.check_of_kind {e : Entry} {k : EntryKind} (hk : entryKind e.kind = some k) (c : EntryContext)
    (ws : List WindowRec) : (∀ r, e.check c ws = some r ↔ FirstOf entryChecks (e.breaks c ws k) r) ∧
    (e.check c ws = none ↔ ∀ r, ¬ e.breaks c ws k r) := by
  obtain ⟨first, none⟩ := firstFailure_iff (e.checks_iff c ws k)
  unfold Entry.check
  rw [hk]
  refine ⟨first, none.trans ⟨fun h r => ?_, fun h p _ => h p.2⟩⟩
  have listed : ∀ q ∈ entryChecks, ¬ e.breaks c ws k q := by
    intro q hq
    obtain ⟨p, hp, rfl⟩ := List.mem_map.1 (show q ∈ (e.staticChecks k c.geometry (fun i => (c.source i).settings.enabled) ++
      e.dynamicChecks k c (windowAt ws e.window)).map (·.2) from hq)
    exact h p hp
  by_cases hr : r ∈ entryChecks
  · exact listed r hr
  · cases r <;> first | exact id | exact absurd (by decide) hr

/-! What an entry does to a layout (R29 to R35). -/

theorem Entry.apply_filter {e : Entry} (hk : entryKind e.kind = some .filter) (d : Layout) : e.apply d =
    match e.filter.entry with
    | some f => { d with filters := d.filters.set e.window f }
    | none => d := by
  unfold Entry.apply
  rw [hk] <;> rfl

theorem Entry.apply_window {e : Entry} {k : EntryKind} (hk : entryKind e.kind = some k) (hf : k ≠ .filter) (d : Layout) :
    e.apply d = { d with windows := d.windows.set e.window (e.applyTo k (windowAt d.windows e.window)) } := by
  unfold Entry.apply
  rw [hk]
  cases k <;> first | rfl | exact absurd rfl hf

/-- Settles O41. -/
theorem entryIsCheckedAndChangesItsFields : Obligations.EntryIsCheckedAndChangesItsFields := by
  refine ⟨fun e c ws => ⟨fun h => ?_, fun k hk => Entry.check_of_kind hk c ws, entryKind_eq_none e.kind⟩, fun c i r h => ?_,
    RawFilter.entry_eq_none, Rect.overlaps_iff, fun e d k hk => ?_⟩
  · unfold Entry.check
    rw [h]
  · simp [EntryContext.source, List.getD_eq_getElem?_getD, h]
  · by_cases hf : k = .filter
    · subst hf
      have applied := Entry.apply_filter hk d
      refine ⟨?_, fun _ => ⟨?_, fun f hfe => ?_⟩, fun h => absurd rfl h⟩
      · rw [applied]
        cases e.filter.entry <;> rfl
      · rw [applied]
        cases e.filter.entry <;> rfl
      · obtain ⟨-, action, fields⟩ := (RawFilter.entry_eq_some _ _).1 hfe
        refine ⟨?_, fields, ((filterAction_iff _).2 _).1 action⟩
        rw [applied, hfe]
    · have applied := Entry.apply_window hk hf d
      refine ⟨by rw [applied], fun h => absurd h hf, fun _ _ => ⟨by rw [applied], _, by rw [applied], ?_⟩⟩
      cases k with
      | filter => exact absurd rfl hf
      | _ => rfl

/-! Whole layouts (R5, R6, R14, R20, R57, R58). -/

theorem windowAt_of_le {ws : List WindowRec} {i : Nat} (h : ws.length ≤ i) : windowAt ws i = WindowRec.cleared := by
  simp [windowAt, List.getD_eq_getElem?_getD, h]

/-- A window that is visible is one of the table. -/
theorem lt_of_visible {ws : List WindowRec} {i : Nat} (h : (windowAt ws i).visible = true) : i < ws.length := by
  by_contra hi
  rw [windowAt_of_le (Nat.not_lt.1 hi)] at h
  cases h

theorem visibleOf_eq (ws : List WindowRec) : visibleOf ws =
    ((List.range ws.length).map (fun i => (windowAt ws i, i))).filter (fun p => p.1.visible) := by
  unfold visibleOf
  rw [indexed_eq_map_range]

theorem any_visibleOf (ws : List WindowRec) (p : WindowRec × Nat → Bool) :
    (visibleOf ws).any p = true ↔ ∃ i, (windowAt ws i).visible = true ∧ p (windowAt ws i, i) = true := by
  rw [visibleOf_eq, List.any_eq_true]
  constructor
  · rintro ⟨q, hq, hp⟩
    obtain ⟨hm, hv⟩ := List.mem_filter.1 hq
    obtain ⟨i, -, rfl⟩ := List.mem_map.1 hm
    exact ⟨i, hv, hp⟩
  · rintro ⟨i, hv, hp⟩
    exact ⟨_, List.mem_filter.2 ⟨List.mem_map.2 ⟨i, List.mem_range.2 (lt_of_visible hv), rfl⟩, hv⟩, hp⟩

theorem rankClash_iff (ws : List WindowRec) : rankClash ws = true ↔ ∃ i j, i ≠ j ∧ (windowAt ws i).visible = true ∧
    (windowAt ws j).visible = true ∧ (windowAt ws i).rank = (windowAt ws j).rank := by
  simp only [rankClash, any_visibleOf, Bool.and_eq_true, decide_eq_true_eq, beq_iff_eq]
  constructor
  · rintro ⟨i, hi, j, hj, lt, rank⟩
    exact ⟨i, j, lt.ne, hi, hj, rank⟩
  · rintro ⟨i, j, ne, hi, hj, rank⟩
    rcases lt_or_gt_of_ne ne with lt | gt
    · exact ⟨i, hi, j, hj, lt, rank⟩
    · exact ⟨j, hj, i, hi, gt, rank.symm⟩

theorem protectedCover_iff (ws : List WindowRec) : protectedCover ws = true ↔ ∃ i j, i ≠ j ∧ (windowAt ws i).visible = true ∧
    (windowAt ws i).prot = true ∧ (windowAt ws j).visible = true ∧
    (windowAt ws i).rect.overlaps (windowAt ws j).rect = true ∧ (windowAt ws i).rank < (windowAt ws j).rank := by
  simp only [protectedCover, any_visibleOf, Bool.and_eq_true, decide_eq_true_eq, bne_iff_ne, ne_eq]
  constructor
  · rintro ⟨i, hi, prot, j, hj, ⟨ne, meets⟩, rank⟩
    exact ⟨i, j, ne, hi, prot, hj, meets, rank⟩
  · rintro ⟨i, j, ne, hi, prot, hj, meets, rank⟩
    exact ⟨i, hi, prot, j, hj, ⟨ne, meets⟩, rank⟩

theorem tileLayers_eq (g : Geometry) (ws : List WindowRec) (k : Nat) : tileLayers g ws k = (touching g ws k).length := by
  unfold tileLayers
  rw [(windowsOn_perm_touching g ws k).length_eq, List.length_map]

theorem lowestTile_eq_some (g : Geometry) (p : Nat → Bool) (k : Nat) :
    lowestTile g p = some k ↔ k < g.tiles ∧ p k = true ∧ ∀ j, j < k → p j = false := by
  unfold lowestTile
  rw [List.find?_range_eq_some]
  simp only [List.mem_range, Bool.not_eq_true']
  tauto

theorem scalersExhausted_iff (ws : List WindowRec) : scalersExhausted ws = true ↔
    32 < (ws.filter (fun w => w.visible && !w.native)).length ∨
    28 < (ws.filter (fun w => w.visible && !w.native && !w.prot)).length := by
  simp only [scalersExhausted, Bool.or_eq_true, decide_eq_true_eq]
  exact Iff.rfl

section layout

variable (g : Geometry) (cls : Nat → Nat) (ws : List WindowRec)

theorem breaks_layers (tile : Option Nat) : LayoutBreaks g cls ws tile .layerBudget ↔
    ∃ k, lowestTile g (fun t => decide (8 < tileLayers g ws t)) = some k ∧ tile = some k := by
  simp only [LayoutBreaks, lowestTile_eq_some, tileLayers_eq, decide_eq_true_eq, decide_eq_false_iff_not, not_lt]
  exact exists_congr (fun k => by tauto)

theorem breaks_fetch (tile : Option Nat) : LayoutBreaks g cls ws tile .fetchBudget ↔
    ∃ k, lowestTile g (fun t => decide (16 < tileCharge g cls ws t)) = some k ∧ tile = some k := by
  simp only [LayoutBreaks, lowestTile_eq_some, tileCharge_eq_chargeOn, decide_eq_true_eq, decide_eq_false_iff_not, not_lt]
  exact exists_congr (fun k => by tauto)

theorem breaks_ranks (tile : Option Nat) :
    LayoutBreaks g cls ws tile .rankClash ↔ tile = none ∧ rankClash ws = true := by
  rw [rankClash_iff]
  exact Iff.rfl

theorem breaks_cover (tile : Option Nat) :
    LayoutBreaks g cls ws tile .protectedCover ↔ tile = none ∧ protectedCover ws = true := by
  rw [protectedCover_iff]
  exact Iff.rfl

theorem breaks_pool (tile : Option Nat) :
    LayoutBreaks g cls ws tile .scalerExhausted ↔ tile = none ∧ scalersExhausted ws = true := by
  rw [scalersExhausted_iff]
  exact Iff.rfl

/-- Each whole-layout check in its order, with the tile where it is broken. -/
def layoutFindings : List (Reason × Option (Option Nat)) :=
  [(.rankClash, if rankClash ws then some none else none),
   (.protectedCover, if protectedCover ws then some none else none),
   (.layerBudget, (lowestTile g (fun t => decide (8 < tileLayers g ws t))).map some),
   (.fetchBudget, (lowestTile g (fun t => decide (16 < tileCharge g cls ws t))).map some),
   (.scalerExhausted, if scalersExhausted ws then some none else none)]

theorem layoutFindings_iff : ∀ p ∈ layoutFindings g cls ws, ∀ tile, LayoutBreaks g cls ws tile p.1 ↔ p.2 = some tile := by
  simp only [layoutFindings, List.forall_mem_cons, List.not_mem_nil, false_implies, implies_true, and_true, breaks_ranks,
    breaks_cover, breaks_layers, breaks_fetch, breaks_pool, Option.map_eq_some_iff, Option.ite_none_right_eq_some,
    Option.some.injEq]
  refine ⟨fun tile => ?_, fun tile => ?_, fun tile => ?_, fun tile => ?_, fun tile => ?_⟩
  · rw [and_comm, eq_comm (a := tile)]
  · rw [and_comm, eq_comm (a := tile)]
  · exact exists_congr (fun k => by rw [eq_comm (a := tile)])
  · exact exists_congr (fun k => by rw [eq_comm (a := tile)])
  · rw [and_comm, eq_comm (a := tile)]

theorem wholeLayoutCheck_eq : wholeLayoutCheck g cls ws = firstFinding (layoutFindings g cls ws) := by
  unfold wholeLayoutCheck layoutFindings
  cases rankClash ws with
  | true => rfl
  | false =>
    cases protectedCover ws with
    | true => rfl
    | false =>
      cases lowestTile g (fun t => decide (8 < tileLayers g ws t)) with
      | some k => rfl
      | none =>
        cases lowestTile g (fun t => decide (16 < tileCharge g cls ws t)) with
        | some k => rfl
        | none => cases scalersExhausted ws <;> rfl

/-- The whole-layout check gives the first of the five that a table breaks, with its tile. -/
theorem wholeLayoutCheck_eq_some (r : Reason) (tile : Option Nat) : wholeLayoutCheck g cls ws = some (r, tile) ↔
    FirstOf layoutChecks (fun q => ∃ k, LayoutBreaks g cls ws k q) r ∧ LayoutBreaks g cls ws tile r := by
  rw [wholeLayoutCheck_eq]
  exact (firstFinding_iff (layoutFindings_iff g cls ws)).1 r tile

theorem wholeLayoutCheck_eq_none :
    wholeLayoutCheck g cls ws = none ↔ ∀ r tile, ¬ LayoutBreaks g cls ws tile r := by
  rw [wholeLayoutCheck_eq, (firstFinding_iff (layoutFindings_iff g cls ws)).2]
  refine ⟨fun h r tile => ?_, fun h p _ tile => h p.1 tile⟩
  have listed : ∀ q ∈ layoutChecks, ∀ tile, ¬ LayoutBreaks g cls ws tile q := by
    intro q hq tile
    obtain ⟨p, hp, rfl⟩ := List.mem_map.1 (show q ∈ (layoutFindings g cls ws).map (·.1) from hq)
    exact h p hp tile
  by_cases hr : r ∈ layoutChecks
  · exact listed r hr tile
  · cases r <;> first | exact id | exact absurd (by decide) hr

end layout

end Sys2Proof.Machine
end

section
-- Many short proofs follow one another: taken one at a time they need one thread's memory, not one's for each.
set_option Elab.async false
/-! PROOF. The checks on a configuration, by code and index, and the capture of one that passes them (R16, R35, R76, R112, R113,
R131, R133, R134). -/

namespace Sys2Proof.Machine

variable {s t u : State}

/-! The lowest index that fails. -/

/-- What an option names: the lowest number that satisfies `P`, if any. -/
def Lowest (P : Nat → Prop) : Option Nat → Prop
  | none => ∀ n, ¬ P n
  | some n => P n ∧ ∀ m, P m → n ≤ m

section lowest

variable {P Q : Nat → Prop} {o : Option Nat}

theorem Lowest.congr (h : Lowest P o) (e : ∀ n, P n ↔ Q n) : Lowest Q o := by
  rwa [show Q = P from funext (fun n => propext (e n).symm)]

/-- A test without index fails at 0. -/
theorem Lowest.of_test {b : Bool} {p : Prop} (h : b = true ↔ p) : Lowest (fun n => n = 0 ∧ p) (if b then some 0 else none) := by
  cases b with
  | true => exact ⟨⟨rfl, h.1 rfl⟩, fun m hm => hm.1 ▸ le_rfl⟩
  | false => exact fun n hn => by cases h.2 hn.2

theorem Lowest.of_zipIdx {α : Type} (l : List α) (p : α × Nat → Bool) :
    Lowest (fun n => ∃ r, l[n]? = some r ∧ p (r, n) = true) ((l.zipIdx.find? p).map (·.2)) := by
  cases h : l.zipIdx.find? p with
  | none =>
    rintro n ⟨r, hr, hp⟩
    have hn := (List.getElem?_eq_some_iff.1 hr).1
    have member : (r, n) ∈ l.zipIdx := by rw [List.mk_mem_zipIdx_iff_getElem?]; exact hr
    exact List.find?_eq_none.1 h _ member hp
  | some q =>
    obtain ⟨hq, i, hi, hget, before⟩ := List.find?_eq_some_iff_getElem.1 h
    rw [List.length_zipIdx] at hi
    rw [List.getElem_zipIdx, Nat.zero_add] at hget
    subst hget
    refine ⟨⟨l[i], List.getElem?_eq_getElem hi, hq⟩, fun m ⟨r, hr, hp⟩ => ?_⟩
    by_contra hm
    obtain ⟨hml, rfl⟩ := List.getElem?_eq_some_iff.1 hr
    have := before m (Nat.not_le.1 hm)
    rw [List.getElem_zipIdx, Nat.zero_add, hp] at this
    cases this

theorem Lowest.of_section (p : Nat → Bool) : Lowest (fun n => 1 ≤ n ∧ n ≤ 10 ∧ p n = true) (lowestSection p) := by
  unfold lowestSection
  rw [List.find?_map]
  cases h : (List.range 10).find? (p ∘ (· + 1)) with
  | none =>
    rintro n ⟨low, high, hp⟩
    have := List.find?_eq_none.1 h (n - 1) (List.mem_range.2 (by omega))
    rw [Function.comp_apply, Nat.sub_add_cancel low] at this
    exact this hp
  | some i =>
    obtain ⟨hp, hi, before⟩ := List.find?_range_eq_some.1 h
    have hi := List.mem_range.1 hi
    refine ⟨⟨Nat.le_add_left 1 i, Nat.succ_le_of_lt hi, hp⟩, fun m ⟨low, high, hm⟩ => ?_⟩
    change i + 1 ≤ m
    by_contra lt
    have := before (m - 1) (by omega)
    rw [Function.comp_apply, Nat.sub_add_cancel low, hm] at this
    cases this

end lowest

/-! One check for each code (R133). -/

section checks

variable (c : ConfigImage) (old : Option SectionMap)

/-- What the check of each code finds. -/
def ConfigImage.finding : FailCode → Option Nat
  | .none => none
  | .geometry => if !c.geometryOk then some 0 else none
  | .rate => if (wallRate c.rate).isNone then some 0 else none
  | .planLead => if !c.leadOk then some 0 else none
  | .ringParam => c.badRing
  | .sectionRange => lowestSection (fun n => decide (Config.ramSize < (sectionOf c.map n).start + (sectionOf c.map n).size))
  | .sectionAlign => lowestSection (fun n => (sectionOf c.map n).start % 64 != 0)
  | .sectionSize => lowestSection (fun n => decide ((sectionOf c.map n).size < c.minimum n))
  | .sectionOverlap => lowestSection (sectionOverlap c.map old)
  | .sourceParam => c.badSource
  | .filterParam => c.badFilter
  | .startLayout => if decide (1 < c.startSelector) then some 0 else none
  | .fallbackEntry => c.badFallback
  | .fallbackLayout => (wholeLayoutCheck c.geometry c.classOf c.fallbackWindows).map (fun r => layoutCheckNumber r.1)

theorem wallRate_isNone (n : Nat) : (wallRate n).isNone = true ↔ n ≠ 50000 ∧ n ≠ 59940 ∧ n ≠ 60000 := by
  unfold wallRate
  split <;> simp_all

theorem RingParams.ok_eq_false (p : RingParams) (top : Nat) : p.ok top = false ↔ p.breaks top := by
  simp only [RingParams.ok, RingParams.breaks, decide_eq_false_iff_not]
  omega

theorem ConfigImage.rings_lowest : Lowest (fun n => c.fails old n .ringParam) c.badRing := by
  unfold ConfigImage.badRing ConfigImage.fails
  simp only [← RingParams.ok_eq_false]
  cases c.journal.ok 256 <;> cases c.urgent.ok 1024 <;> cases c.routine.ok 1024 <;> simp [Lowest]

theorem Section.meets_iff (a b : Section) : a.meets b = true ↔ ShareByte a b := by
  unfold Section.meets ShareByte
  rw [decide_eq_true_eq]
  constructor
  · intro h
    exact ⟨max a.start b.start, by omega⟩
  · rintro ⟨x, h⟩
    omega

theorem ConfigImage.area_eq {n : Nat} (h : 1 ≤ n) : c.area n = sectionOf c.map n := if_neg (by omega)

theorem ConfigImage.minimum_eq_least {n : Nat} (low : 1 ≤ n) (high : n ≤ 10) : c.minimum n = c.least n := by
  interval_cases n <;> rfl

theorem sectionOverlap_iff (n : Nat) : sectionOverlap c.map old n = true ↔ (∃ k, k < n ∧ ShareByte (c.area n) (c.area k)) ∨
    (n = 1 ∧ ∃ o k, old = some o ∧ 3 ≤ k ∧ k ≤ 10 ∧ ShareByte (c.area 1) (sectionOf o k)) := by
  unfold sectionOverlap
  rw [Bool.or_eq_true, Bool.and_eq_true, List.any_eq_true, beq_iff_eq]
  refine or_congr (exists_congr (fun k => ?_)) (and_congr_right (fun _ => ?_))
  · rw [List.mem_range, Section.meets_iff]
    exact Iff.rfl
  · cases old with
    | none => simp
    | some o =>
      simp only [List.any_map, List.any_eq_true, List.mem_range, Function.comp_apply, Section.meets_iff, Option.some.injEq]
      constructor
      · rintro ⟨k, hk, h⟩
        exact ⟨o, k + 3, rfl, by omega, by omega, by rw [c.area_eq le_rfl]; simpa [areaOf] using h⟩
      · rintro ⟨o', k, rfl, low, high, h⟩
        have sum : k - 3 + 3 = k := Nat.sub_add_cancel low
        refine ⟨k - 3, by omega, ?_⟩
        rw [c.area_eq le_rfl] at h
        rw [sum]
        simpa [areaOf, show k ≠ 0 by omega] using h

theorem RawSettings.settings_isNone (r : RawSettings) (i : Nat) : (r.settings i).isNone = true ↔
    (r.declaredClass ≠ 1 ∧ r.declaredClass ≠ 2 ∧ r.declaredClass ≠ 4) ∨ (43 < r.backup ∧ r.backup ≠ 255) ∨ r.backup = i ∨
      500 < r.lossHold := by
  unfold RawSettings.settings
  split
  · simp only [Option.isNone_some, Bool.false_eq_true, false_iff]
    omega
  · simp only [Option.isNone_none, true_iff]
    omega

theorem ConfigImage.filters_lowest (length : c.filters.length = Config.filterCount) :
    Lowest (fun n => c.fails old n .filterParam) c.badFilter := by
  have entries := Lowest.of_zipIdx c.filters (fun p => p.1.entry.isNone)
  have breaks (n : Nat) : c.fails old n .filterParam ↔
      (∃ r, c.filters[n]? = some r ∧ r.entry.isNone = true) ∨ (n = 16 ∧ (filterAction c.defaultAction).isNone = true) := by
    simp only [ConfigImage.fails, Option.isNone_iff_eq_none, RawFilter.entry_eq_none, (filterAction_iff _).1]
  refine Lowest.congr ?_ (fun n => (breaks n).symm)
  unfold ConfigImage.badFilter
  cases h : c.filters.zipIdx.find? (fun p => p.1.entry.isNone) with
  | some p =>
    rw [h] at entries
    obtain ⟨⟨r, hr, hp⟩, least⟩ := entries
    refine ⟨.inl ⟨r, hr, hp⟩, fun m hm => ?_⟩
    rcases hm with hm | ⟨rfl, -⟩
    · exact least m hm
    · have := (List.getElem?_eq_some_iff.1 hr).1
      rw [length] at this
      exact this.le
  | none =>
    rw [h] at entries
    dsimp only
    split
    · next bad => exact ⟨.inr ⟨rfl, bad⟩, fun m hm => hm.elim (fun h => absurd h (entries m)) (fun h => h.1 ▸ le_rfl)⟩
    · next good => exact fun n hn => hn.elim (entries n) (fun h => good h.2)

theorem firstFailure_isSome (l : List (Bool × Reason)) : (firstFailure l).isSome = true ↔ ∃ p ∈ l, p.1 = true := by
  induction l with
  | nil => simp [firstFailure]
  | cons p l ih =>
    obtain ⟨fails, r⟩ := p
    cases fails
    · simpa [firstFailure] using ih
    · simp [firstFailure]

theorem ConfigImage.badEntry_iff (e : Entry) : c.badEntry e = true ↔ c.entryBreaks e := by
  unfold ConfigImage.badEntry ConfigImage.entryBreaks
  rw [Bool.or_eq_true, firstFailure_isSome]
  unfold Entry.staticChecks
  simp only [List.exists_mem_cons_iff, List.not_mem_nil, false_and, exists_false, Bool.and_eq_true, Bool.or_eq_true,
    Bool.not_eq_true', decide_eq_true_eq, ne_eq, beq_iff_eq, Rect.largeEnough_eq_false, Rect.insideWall_eq_false,
    Rect.cropOk_eq_false, ConfigImage.geometry, reduceCtorEq, not_false_eq_true, true_and, or_false, false_or, or_assoc]

theorem ConfigImage.fallback_lowest : Lowest (fun n => c.fails old n .fallbackEntry) c.badFallback := by
  unfold ConfigImage.badFallback
  change Lowest (fun n => (n = 0 ∧ (c.fallbackCount = 0 ∨ 64 < c.fallbackCount)) ∨
    (1 ≤ c.fallbackCount ∧ c.fallbackCount ≤ 64 ∧ ∃ e, c.fallbackEntries[n]? = some e ∧ c.entryBreaks e)) _
  split
  · next count => exact ⟨.inl ⟨rfl, count⟩, fun m _ => Nat.zero_le m⟩
  · next count =>
    refine (Lowest.of_zipIdx c.fallbackEntries (fun p => c.badEntry p.1)).congr (fun n => ?_)
    simp only [c.badEntry_iff]
    constructor
    · intro h
      exact .inr ⟨by omega, by omega, h⟩
    · rintro (⟨-, h⟩ | ⟨-, -, h⟩)
      · exact absurd h count
      · exact h

theorem layoutCheckNumber_spec {pre post : List Reason} {r : Reason} (h : layoutChecks = pre ++ r :: post) :
    layoutCheckNumber r = pre.length + 1 := by
  have get : layoutChecks[pre.length]? = some r := by rw [h]; simp
  have bound : pre.length < 5 := (List.getElem?_eq_some_iff.1 get).1
  generalize pre.length = n at get bound
  interval_cases n <;> cases get <;> rfl

theorem ConfigImage.layout_lowest : Lowest (fun n => c.fails old n .fallbackLayout)
    ((wholeLayoutCheck c.geometry c.classOf c.fallbackWindows).map (fun r => layoutCheckNumber r.1)) := by
  cases h : wholeLayoutCheck c.geometry c.classOf c.fallbackWindows with
  | none =>
    rintro n ⟨r, tile, -, -, breaks⟩
    exact (wholeLayoutCheck_eq_none _ _ _).1 h r tile breaks
  | some p =>
    obtain ⟨r, tile⟩ := p
    obtain ⟨⟨pre, post, list, -, before⟩, breaks⟩ := (wholeLayoutCheck_eq_some _ _ _ r tile).1 h
    change c.fails old (layoutCheckNumber r) .fallbackLayout ∧
      ∀ m, c.fails old m .fallbackLayout → layoutCheckNumber r ≤ m
    rw [layoutCheckNumber_spec list]
    refine ⟨⟨r, tile, by rw [list]; simp, Nat.le_add_left 1 _, breaks⟩, fun m ⟨q, tile', get, low, fails⟩ => ?_⟩
    by_contra lt
    have hm : m - 1 < pre.length := by omega
    rw [list, List.getElem?_append_left hm] at get
    exact before q (List.mem_of_getElem? get) ⟨tile', fails⟩

/-- Each check finds the lowest index that fails it. -/
theorem ConfigImage.finding_lowest (length : c.filters.length = Config.filterCount) (code : FailCode) :
    Lowest (fun n => c.fails old n code) (c.finding old code) := by
  cases code with
  | none => exact fun n => id
  | geometry =>
    refine Lowest.of_test ?_
    simp only [ConfigImage.geometryOk, Bool.not_eq_true', decide_eq_false_iff_not]
    omega
  | rate => exact Lowest.of_test (wallRate_isNone c.rate)
  | planLead =>
    refine Lowest.of_test ?_
    simp only [ConfigImage.leadOk, Bool.not_eq_true', decide_eq_false_iff_not]
    omega
  | ringParam => exact c.rings_lowest old
  | sectionRange =>
    refine (Lowest.of_section _).congr (fun n => and_congr_right (fun low => ?_))
    rw [c.area_eq low, decide_eq_true_eq]
    exact Iff.rfl
  | sectionAlign =>
    refine (Lowest.of_section _).congr (fun n => and_congr_right (fun low => ?_))
    rw [c.area_eq low, bne_iff_ne]
  | sectionSize =>
    refine (Lowest.of_section _).congr (fun n => and_congr_right (fun low => and_congr_right (fun high => ?_)))
    rw [c.area_eq low, c.minimum_eq_least low high, decide_eq_true_eq]
  | sectionOverlap =>
    exact (Lowest.of_section _).congr (fun n => and_congr_right (fun _ => and_congr_right (fun _ => sectionOverlap_iff c old n)))
  | sourceParam =>
    refine (Lowest.of_zipIdx c.settings (fun p => (p.1.settings p.2).isNone)).congr (fun n => ?_)
    simp only [RawSettings.settings_isNone]
    exact Iff.rfl
  | filterParam => exact c.filters_lowest old length
  | startLayout => exact Lowest.of_test decide_eq_true_iff
  | fallbackEntry => exact c.fallback_lowest old
  | fallbackLayout => exact c.layout_lowest old

end checks

/-! The first code that fails. -/

/-- The codes in the order of their checks (R133). -/
def failCodes : List FailCode := [.geometry, .rate, .planLead, .ringParam, .sectionRange, .sectionAlign, .sectionSize,
  .sectionOverlap, .sourceParam, .filterParam, .startLayout, .fallbackEntry, .fallbackLayout]

/-- The first of a list of codes whose check finds something, and the index it finds. -/
def firstFound (f : FailCode → Option Nat) (l : List FailCode) : Option (FailCode × Nat) :=
  l.foldr (fun code rest => (failAt code (f code)).or rest) none

theorem firstFound_iff {f : FailCode → Option Nat} {P : FailCode → Nat → Prop} {l : List FailCode}
    (h : ∀ code ∈ l, Lowest (P code) (f code)) (sorted : l.Pairwise (fun a b => a.code < b.code)) :
    (firstFound f l = none ↔ ∀ code ∈ l, ∀ n, ¬ P code n) ∧
    ∀ code n, firstFound f l = some (code, n) ↔ code ∈ l ∧ P code n ∧
      ∀ d ∈ l, ∀ m, P d m → code.code < d.code ∨ (code = d ∧ n ≤ m) := by
  induction l with
  | nil => exact ⟨by simp [firstFound], by simp [firstFound]⟩
  | cons a l ih =>
    obtain ⟨least, sorted⟩ := List.pairwise_cons.1 sorted
    obtain ⟨none, first⟩ := ih (fun code hc => h code (List.mem_cons_of_mem a hc)) sorted
    have head := h a List.mem_cons_self
    have unfolded : firstFound f (a :: l) = (failAt a (f a)).or (firstFound f l) := rfl
    cases hf : f a with
    | none =>
      rw [hf] at head unfolded
      have same : firstFound f (a :: l) = firstFound f l := unfolded
      rw [same]
      refine ⟨none.trans ⟨fun h => List.forall_mem_cons.2 ⟨head, h⟩, fun h => (List.forall_mem_cons.1 h).2⟩,
        fun code n => (first code n).trans ⟨fun ⟨hc, hp, least⟩ => ?_, fun ⟨hc, hp, least⟩ => ?_⟩⟩
      · exact ⟨List.mem_cons_of_mem a hc, hp, List.forall_mem_cons.2 ⟨fun m hm => absurd hm (head m), least⟩⟩
      · refine ⟨(List.mem_cons.1 hc).resolve_left (fun e => ?_), hp, (List.forall_mem_cons.1 least).2⟩
        subst e
        exact head n hp
    | some k =>
      rw [hf] at head unfolded
      obtain ⟨hk, lowest⟩ := head
      have found : firstFound f (a :: l) = some (a, k) := unfolded
      rw [found]
      refine ⟨⟨fun h => (by cases h), fun h => absurd hk (h a List.mem_cons_self k)⟩, fun code n => ?_⟩
      rw [Option.some.injEq, Prod.mk.injEq]
      constructor
      · rintro ⟨rfl, rfl⟩
        exact ⟨List.mem_cons_self, hk, List.forall_mem_cons.2 ⟨fun m hm => .inr ⟨rfl, lowest m hm⟩,
          fun d hd m _ => .inl (least d hd)⟩⟩
      · rintro ⟨hc, hp, first⟩
        rcases List.mem_cons.1 hc with rfl | hc
        · rcases first code List.mem_cons_self k hk with lt | ⟨-, le⟩
          · exact absurd lt (lt_irrefl _)
          · exact ⟨rfl, le_antisymm (lowest n hp) le⟩
        · have below := least code hc
          rcases first a List.mem_cons_self k hk with lt | ⟨rfl, -⟩
          · exact absurd (below.trans lt) (lt_irrefl _)
          · exact absurd below (lt_irrefl _)

theorem failIf_eq (code : FailCode) (b : Bool) : failIf code b = failAt code (if b then some 0 else none) := by
  cases b <;> rfl

theorem ConfigImage.failure_eq (c : ConfigImage) (old : Option SectionMap) :
    c.failure old = firstFound (c.finding old) failCodes := by
  unfold ConfigImage.failure
  simp only [failIf_eq, firstFound, failCodes, List.foldr_cons, List.foldr_nil, Option.or_none]
  rfl

theorem mem_failCodes {code : FailCode} (h : code ≠ .none) : code ∈ failCodes := by
  cases code with
  | none => exact absurd rfl h
  | _ => decide

theorem ConfigImage.allSettings_get (c : ConfigImage) {i : Nat} {r : RawSettings} (h : c.settings[i]? = some r) :
    c.allSettings[i]? = some ((r.settings i).getD ⟨false, 1, none, 0⟩) := by
  simp [ConfigImage.allSettings, List.getElem?_map, List.getElem?_zipIdx, h]

/-- The settings of a record that breaks nothing. -/
theorem ConfigImage.settings_eq {c : ConfigImage} {old : Option SectionMap} {i : Nat} {r : RawSettings}
    (h : c.settings[i]? = some r) (ok : ∀ n, ¬ c.fails old n .sourceParam) :
    r.settings i = some ⟨r.enabled, r.declaredClass, if r.backup = 255 then none else some r.backup, r.lossHold⟩ := by
  have some : (r.settings i).isNone ≠ true := fun none => ok i ⟨r, h, (r.settings_isNone i).1 none⟩
  unfold RawSettings.settings at some ⊢
  split
  · rfl
  · next bad => rw [if_neg bad] at some; exact absurd rfl some

/-- Settles O35. -/
theorem activationPassesExactly : Obligations.ActivationPassesExactly := by
  intro c old length
  obtain ⟨none, first⟩ := firstFound_iff (f := c.finding old) (P := fun code n => c.fails old n code) (l := failCodes)
    (fun code _ => c.finding_lowest old length code) (by decide)
  rw [← c.failure_eq old] at none first
  have listed {code : FailCode} {n : Nat} (h : c.fails old n code) : code ∈ failCodes :=
    mem_failCodes (fun e => by rw [e] at h; exact h)
  refine ⟨none.trans ⟨fun h code n fails => h code (listed fails) n fails, fun h code _ n => h code n⟩, fun code n => ?_,
    fun code h => ?_, fun i r h hi ok => ?_, fun i hi => ?_, rfl, rfl⟩
  · rw [first]
    exact ⟨fun ⟨_, hp, least⟩ => ⟨hp, fun d m hm => least d (listed hm) m hm⟩,
      fun ⟨hp, least⟩ => ⟨listed hp, hp, fun d _ m hm => least d m hm⟩⟩
  · cases code with
    | none => exact absurd rfl h
    | _ => rfl
  · have settings := c.allSettings_get h
    rw [ConfigImage.settings_eq h ok] at settings
    simp only [ConfigImage.enabled, ConfigImage.classOf, if_pos hi, List.getD_eq_getElem?_getD, settings]
    exact ⟨rfl, rfl⟩
  · exact ⟨if_neg (Nat.not_lt.2 hi), if_neg (Nat.not_lt.2 hi)⟩

end Sys2Proof.Machine
end

section
-- Many short proofs follow one another: taken one at a time they need one thread's memory, not one's for each.
set_option Elab.async false
/-! PROOF. The end of the activation checks, and what a capture holds (R131 to R135, R137). -/

namespace Sys2Proof.Machine

variable {s t u : State}

/-! What a capture holds (R131, R133). -/

theorem firstFound_eq_none {f : FailCode → Option Nat} {l : List FailCode} (h : firstFound f l = none) :
    ∀ code ∈ l, f code = none := by
  induction l with
  | nil => exact fun code hc => absurd hc List.not_mem_nil
  | cons a l ih =>
    obtain ⟨first, rest⟩ := Option.or_eq_none_iff.1 (show (failAt a (f a)).or (firstFound f l) = none from h)
    exact List.forall_mem_cons.2 ⟨Option.map_eq_none_iff.1 first, ih rest⟩

section passed

variable {c : ConfigImage} {old : Option SectionMap}

/-- In a configuration that passes, no check finds anything. -/
theorem ConfigImage.finding_none (h : c.failure old = none) {code : FailCode} (hc : code ≠ .none) : c.finding old code = none :=
  firstFound_eq_none (c.failure_eq old ▸ h) code (mem_failCodes hc)

theorem ConfigImage.rate_of_passed (h : c.failure old = none) :
    c.rate = (match c.capture.rate with | .r50000 => 50000 | .r59940 => 59940 | .r60000 => 60000) := by
  have found := ConfigImage.finding_none h (code := .rate) (by decide)
  have known : (wallRate c.rate).isNone = false := by
    by_contra hn
    simp only [ConfigImage.finding, Bool.eq_true_of_not_eq_false hn, if_true] at found
    cases found
  change c.rate = (match (wallRate c.rate).getD .r60000 with | .r50000 => 50000 | .r59940 => 59940 | .r60000 => 60000)
  unfold wallRate at known ⊢
  split at known <;> first | (next eq => rw [eq]; rfl) | cases known

theorem ConfigImage.settings_of_passed (h : c.failure old = none) {i : Nat} {r : RawSettings} (hr : c.settings[i]? = some r) :
    c.capture.settings[i]? = some ⟨r.enabled, r.declaredClass, if r.backup = 255 then none else some r.backup, r.lossHold⟩ := by
  have lowest := Lowest.of_zipIdx c.settings (fun p => (p.1.settings p.2).isNone)
  have found : (c.settings.zipIdx.find? (fun p => (p.1.settings p.2).isNone)).map (·.2) = none :=
    ConfigImage.finding_none h (code := .sourceParam) (by decide)
  rw [found] at lowest
  refine (c.allSettings_get hr).trans (congrArg some ?_)
  rw [ConfigImage.settings_eq (old := old) hr (fun n ⟨q, hq, bad⟩ => lowest n ⟨q, hq, (q.settings_isNone n).2 bad⟩)]
  rfl

theorem ConfigImage.filters_of_passed (h : c.failure old = none) :
    (∀ (i : Nat) (f : RawFilter), c.filters[i]? = some f → ∃ g, f.entry = some g) ∧ filterAction c.defaultAction ≠ none := by
  have found : c.badFilter = none := ConfigImage.finding_none h (code := .filterParam) (by decide)
  unfold ConfigImage.badFilter at found
  split at found
  · cases found
  · next clean =>
    have lowest := Lowest.of_zipIdx c.filters (fun p => p.1.entry.isNone)
    rw [clean] at lowest
    refine ⟨fun i f hf => Option.ne_none_iff_exists'.1 (fun none => lowest i ⟨f, hf, ?_⟩), fun none => ?_⟩
    · simp [none]
    · rw [none] at found
      cases found

theorem ConfigImage.filter_of_passed (h : c.failure old = none) {i : Nat} {f : RawFilter} (hf : c.filters[i]? = some f) :
    ∃ g : FilterEntry, c.capture.filters[i]? = some g ∧ g.enabled = f.enabled ∧ g.low = f.low ∧ g.high = f.high ∧
      g.kinds.toNat = f.kinds.toNat ∧ filterActionsInOrder[f.action]? = some g.action := by
  obtain ⟨g, entry⟩ := (ConfigImage.filters_of_passed h).1 i f hf
  obtain ⟨⟨-, -, -, kinds⟩, action, fields⟩ := (f.entry_eq_some g).1 entry
  have captured : c.capture.filters[i]? = some g := by
    change (c.filters.map (fun f => f.entry.getD FilterEntry.cleared))[i]? = some g
    rw [List.getElem?_map, hf, Option.map_some, entry]
    rfl
  refine ⟨g, captured, ?_, ?_, ?_, ?_, ((filterAction_iff f.action).2 g.action).1 action⟩
  · rw [fields]
  · rw [fields]
  · rw [fields]
  · rw [fields]
    exact (BitVec.toNat_setWidth _ _).trans (Nat.mod_eq_of_lt kinds)

theorem ConfigImage.defaultAction_of_passed (h : c.failure old = none) :
    filterActionsInOrder[c.defaultAction]? = some c.capture.defaultAction := by
  obtain ⟨a, ha⟩ := Option.ne_none_iff_exists'.1 (ConfigImage.filters_of_passed h).2
  refine ((filterAction_iff _).2 _).1 (ha.trans (congrArg some ?_))
  change a = (filterAction c.defaultAction).getD .discard
  rw [ha]
  rfl

end passed

/-! The end of the checks (R135). -/

theorem State.checksComplete_fails {image : ConfigImage} {code : FailCode} {index : Nat}
    (h : image.failure s.map = some (code, index)) : s.checksComplete image =
      ((s.modModes (fun mo => { mo with failCode := code, failIndex := index })).raise .activationFailed).endActivation
        .checksFailed := by
  unfold State.checksComplete
  rw [h]
  rfl

theorem State.checksComplete_passes {image : ConfigImage} (h : image.failure s.map = none) : s.checksComplete image =
    (s.modModes (fun mo => { mo with progress := .passed image.capture image.fallbackPlan, reading := false })).modPort
      (fun pt => { pt with holdArea := none }) := by
  unfold State.checksComplete
  rw [h]
  rfl

theorem exec_checksComplete {image : ConfigImage} {attempt : Nat} (hp : s.modes.progress = .checking image)
    (ha : s.modes.attempt = attempt) (hc : s.takes.checking = none) (hg : s.readerGranted = true) :
    exec (.activationChecksComplete attempt) s = .next (s.commitDone.ctlRead.checksComplete image).resume := by
  change execActivationChecksComplete attempt s = _
  unfold execActivationChecksComplete
  rw [hp]
  exact if_pos (by simp [ha, hc, hg])

theorem exec_checksComplete_idle {attempt : Nat} (h : (∀ image, s.modes.progress ≠ .checking image) ∨
    s.modes.attempt ≠ attempt ∨ s.takes.checking ≠ none ∨ s.readerGranted = false) :
    exec (.activationChecksComplete attempt) s = .next s := by
  change execActivationChecksComplete attempt s = _
  unfold execActivationChecksComplete
  cases hp : s.modes.progress with
  | checking image =>
    refine if_neg ?_
    rcases h with h | h | h | h
    · exact absurd hp (h image)
    · simp [h]
    · simp [Option.isNone_iff_eq_none, h]
    · simp [h]
  | none => rfl
  | passed c p => rfl

/-- Settles O36. -/
theorem activationChecksOutcome : Obligations.ActivationChecksOutcome := by
  refine ⟨fun s image attempt hm hp ha hc hg => ?_, fun s attempt h => exec_checksComplete_idle h, fun c old h => ?_⟩
  · have modes : s.commitDone.ctlRead.modes = s.modes := s.commitDone.ctlRead_only.modes_eq.trans s.commitDone_only.modes_eq
    have map : s.commitDone.ctlRead.map = s.map := State.map_congr (by rw [modes])
    have done := exec_checksComplete hp ha hc hg
    have last : s.commitDone.ctlRead.lastServed = .controller := rfl
    have only := s.commitDone.ctlRead.checksComplete_only image
    intro m
    refine ⟨m.checksComplete image, done, ?_, fun idle => done.trans (congrArg Host.Outcome.next
      (State.resume_idle (only.waiting_eq.trans idle))), only.lastServed_eq.trans last, ?_⟩
    · cases hf : image.failure m.map with
      | some p => rw [State.checksComplete_fails hf, State.endActivation_holdArea]
      | none => rw [State.checksComplete_passes hf]; rfl
    · rw [← map]
      cases hf : image.failure m.map with
      | some p =>
        obtain ⟨code, index⟩ := p
        have failed := State.checksComplete_fails hf
        have handed := ((m.modModes_handed (fun mo => { mo with failCode := code, failIndex := index }) rfl rfl).trans
          (State.raise_handed _ .activationFailed)).trans (State.endActivation_handed _ .checksFailed)
        have mode : ((m.modModes (fun mo => { mo with failCode := code, failIndex := index })).raise .activationFailed).modes =
            { s.modes with failCode := code, failIndex := index } := by
          rw [(State.raise_only _ _).modes_eq, State.modModes_modes, modes]
        refine ⟨?_, ?_, ?_, only.mono (by decide)⟩
        · rw [failed, State.endActivation_modes, mode]
        · rw [failed]
          refine (handed.congr ?_ (fun c => by simp)).hands
          rw [mode, ← hm]
          rfl
        · rw [failed, State.endActivation_journal]
          rfl
      | none =>
        rw [State.checksComplete_passes hf]
        refine ⟨?_, (m.modModes_only _).mono (by decide) |>.next (State.modPort_holdArea _ none) (by decide)⟩
        rw [← modes]
        rfl
  · exact ⟨⟨rfl, rfl, rfl, rfl, rfl, rfl, rfl, rfl, rfl, beq_iff_eq⟩, ConfigImage.rate_of_passed h,
      ⟨by simp [ConfigImage.capture, ConfigImage.allSettings], fun i r hr => ConfigImage.settings_of_passed h hr⟩,
      ⟨by simp [ConfigImage.capture], fun i f hf => ConfigImage.filter_of_passed h hf⟩,
      ConfigImage.defaultAction_of_passed h, rfl⟩

end Sys2Proof.Machine
end

section
-- Many short proofs follow one another: taken one at a time they need one thread's memory, not one's for each.
set_option Elab.async false
/-! PROOF. The assignment of scaler contexts (R14, R15). -/

namespace Sys2Proof.Machine

variable {s t u : State}

/-! Window tables. -/

theorem windowAt_indexed_map (f : WindowRec × Nat → WindowRec) {ws : List WindowRec} {i : Nat} (h : i < ws.length) :
    windowAt ((indexed ws).map f) i = f (windowAt ws i, i) := by
  rw [indexed_eq_map_range, List.map_map]
  unfold windowAt
  rw [List.getD_eq_getElem?_getD, List.getElem?_map, List.getElem?_range h]
  rfl

theorem windowAt_set {ws : List WindowRec} {i : Nat} (w : WindowRec) (h : i < ws.length) (j : Nat) :
    windowAt (ws.set i w) j = if j = i then w else windowAt ws j := by
  split
  · next hj => rw [hj, windowAt_set_self w h]
  · next hj => simp [windowAt, List.getD_eq_getElem?_getD, Ne.symm hj]

theorem scaled_cleared : WindowRec.cleared.scaled = false := rfl

theorem lt_of_scaled {ws : List WindowRec} {i : Nat} (h : (windowAt ws i).scaled = true) : i < ws.length := by
  by_contra hi
  rw [windowAt_of_le (Nat.not_lt.1 hi)] at h
  cases h

theorem lt_of_ctx {ws : List WindowRec} {i c : Nat} (h : (windowAt ws i).ctx = some c) : i < ws.length := by
  by_contra hi
  rw [windowAt_of_le (Nat.not_lt.1 hi)] at h
  cases h

/-- The number of scaled windows, counted by index. -/
theorem scaled_count (ws : List WindowRec) :
    ((Finset.range ws.length).filter (fun i => (windowAt ws i).scaled = true)).card = (ws.filter (fun w => w.scaled)).length := by
  have list : ws = (List.range ws.length).map (windowAt ws) := by
    refine List.ext_getElem (by simp) (fun i h _ => ?_)
    simp [windowAt, List.getD_eq_getElem?_getD, h]
  conv_rhs => rw [list]
  rw [List.filter_map, List.length_map, ← List.toFinset_range, ← List.toFinset_filter,
    List.toFinset_card_of_nodup (List.nodup_range.filter _)]
  simp [Function.comp_def]

/-! Free contexts. -/

theorem contextHolder_isNone (ws : List WindowRec) (c : Nat) :
    (contextHolder ws c).isNone = true ↔ ∀ j, (windowAt ws j).ctx ≠ some c := by
  unfold contextHolder
  rw [Option.isNone_map, Option.isNone_iff_eq_none, List.find?_eq_none, indexed_eq_map_range]
  simp only [List.mem_map, List.mem_range, beq_iff_eq, forall_exists_index, and_imp, forall_apply_eq_imp_iff₂]
  exact ⟨fun h j hc => h j (lt_of_ctx hc) hc, fun h j _ => h j⟩

/-- The context that is free and lowest. -/
theorem lowestFree_eq_some {ws : List WindowRec} {c : Nat} (h : lowestFree ws = some c) :
    c < Config.scalerContexts ∧ (∀ j, (windowAt ws j).ctx ≠ some c) ∧ ∀ d, d < c → ∃ j, (windowAt ws j).ctx = some d := by
  obtain ⟨free, bound, held⟩ := List.find?_range_eq_some.1 h
  refine ⟨List.mem_range.1 bound, (contextHolder_isNone ws c).1 free, fun d hd => ?_⟩
  by_contra none
  have free := (contextHolder_isNone ws d).2 (fun j hj => none ⟨j, hj⟩)
  have := held d hd
  rw [free] at this
  cases this

theorem lowestFree_eq_none {ws : List WindowRec} (h : lowestFree ws = none) {c : Nat} (hc : c < Config.scalerContexts) :
    ∃ j, (windowAt ws j).ctx = some c := by
  by_contra none
  exact List.find?_eq_none.1 h c (List.mem_range.2 hc) ((contextHolder_isNone ws c).2 (fun j hj => none ⟨j, hj⟩))

/-- Contexts held each by one window, below 32. -/
structure ContextsApart (ws : List WindowRec) : Prop where
  below : ∀ i c, (windowAt ws i).ctx = some c → c < Config.scalerContexts
  alone : ∀ i j c, (windowAt ws i).ctx = some c → (windowAt ws j).ctx = some c → i = j

/-- Contexts held each by one scaled window, below 32. -/
structure HeldApart (ws : List WindowRec) : Prop extends ContextsApart ws where
  scaled : ∀ i c, (windowAt ws i).ctx = some c → (windowAt ws i).scaled = true

/-- While a scaled window of a table that passes the pool's check holds no context, one is free (R14). -/
theorem HeldApart.free {ws : List WindowRec} (h : HeldApart ws) (pool : (ws.filter (fun w => w.scaled)).length ≤ 32) {i : Nat}
    (hs : (windowAt ws i).scaled = true) (hi : (windowAt ws i).ctx = none) : lowestFree ws ≠ none := by
  intro full
  choose! holder held using fun c (hc : c < Config.scalerContexts) => lowestFree_eq_none full hc
  have count : (Finset.range Config.scalerContexts).card ≤
      (((Finset.range ws.length).filter (fun k => (windowAt ws k).scaled = true)).erase i).card := by
    refine Finset.card_le_card_of_injOn holder (fun c hc => ?_) (fun c hc d hd same => ?_)
    · have hc := held c (Finset.mem_range.1 hc)
      have ne : holder c ≠ i := fun e => by rw [e, hi] at hc; cases hc
      have scaled := h.scaled _ _ hc
      exact Finset.mem_erase.2 ⟨ne, Finset.mem_filter.2 ⟨Finset.mem_range.2 (lt_of_scaled scaled), scaled⟩⟩
    · have hc := held c (Finset.mem_range.1 hc)
      have hd := held d (Finset.mem_range.1 hd)
      rw [same, hd] at hc
      exact (Option.some.inj hc).symm
  have member : i ∈ (Finset.range ws.length).filter (fun k => (windowAt ws k).scaled = true) :=
    Finset.mem_filter.2 ⟨Finset.mem_range.2 (lt_of_scaled hs), hs⟩
  have thirtyTwo : Config.scalerContexts = 32 := rfl
  rw [Finset.card_erase_of_mem member, scaled_count, Finset.card_range, thirtyTwo] at count
  omega

/-! The assignment, window by window (R15). -/

/-- The tables agree in all but the contexts. -/
def SameButContexts (ws vs : List WindowRec) : Prop :=
  vs.length = ws.length ∧ ∀ i, windowAt vs i = { windowAt ws i with ctx := (windowAt vs i).ctx }

theorem SameButContexts.scaled {ws vs : List WindowRec} (h : SameButContexts ws vs) (i : Nat) :
    (windowAt vs i).scaled = (windowAt ws i).scaled := by
  rw [h.2 i]
  rfl

theorem SameButContexts.trans {ws vs us : List WindowRec} (h : SameButContexts ws vs) (k : SameButContexts vs us) :
    SameButContexts ws us :=
  ⟨k.1.trans h.1, fun i => by rw [k.2 i, h.2 i]⟩

theorem SameButContexts.scaledCount {ws vs : List WindowRec} (h : SameButContexts ws vs) :
    (vs.filter (fun w => w.scaled)).length = (ws.filter (fun w => w.scaled)).length := by
  rw [← scaled_count, ← scaled_count, h.1]
  simp only [h.scaled]

theorem keepContexts_window (live draft : List WindowRec) (i : Nat) : windowAt (keepContexts live draft) i =
    { windowAt draft i with
      ctx := if (windowAt draft i).scaled && (windowAt live i).scaled then (windowAt live i).ctx else none } := by
  by_cases h : i < draft.length
  · exact windowAt_indexed_map _ h
  · have short : (keepContexts live draft).length ≤ i := by simpa [keepContexts, indexed] using Nat.not_lt.1 h
    rw [windowAt_of_le short, windowAt_of_le (Nat.not_lt.1 h), scaled_cleared]
    rfl

theorem keepContexts_same (live draft : List WindowRec) : SameButContexts draft (keepContexts live draft) :=
  ⟨by simp [keepContexts, indexed], fun i => by rw [keepContexts_window]⟩

theorem giveContext_window (ws : List WindowRec) (i j : Nat) : windowAt (giveContext ws i) j =
    if j = i ∧ (windowAt ws i).scaled = true ∧ (windowAt ws i).ctx = none
    then { windowAt ws i with ctx := lowestFree ws } else windowAt ws j := by
  unfold giveContext
  by_cases h : (windowAt ws i).scaled = true ∧ (windowAt ws i).ctx = none
  · obtain ⟨hs, hc⟩ := h
    simp only [hs, hc, Option.isNone_none, Bool.and_self, if_true, and_self, and_true]
    exact windowAt_set _ (lt_of_scaled hs) j
  · have skip : ((windowAt ws i).scaled && (windowAt ws i).ctx.isNone) = false := by
      rw [Bool.and_eq_false_iff, ← Bool.not_eq_true, ← Bool.not_eq_true, Option.isNone_iff_eq_none]
      tauto
    simp [skip, h]

theorem giveContext_same (ws : List WindowRec) (i : Nat) : SameButContexts ws (giveContext ws i) := by
  refine ⟨by unfold giveContext; dsimp only; split <;> simp, fun j => ?_⟩
  rw [giveContext_window]
  split
  · next h => rw [h.1]
  · rfl

/-- The table once the windows below `k` have been looked at. -/
def contextsTo (live draft : List WindowRec) (k : Nat) : List WindowRec :=
  (List.range k).foldl giveContext (keepContexts live draft)

section assign

variable {live draft : List WindowRec}

theorem contextsTo_succ (k : Nat) : contextsTo live draft (k + 1) = giveContext (contextsTo live draft k) k := by
  simp [contextsTo, List.range_succ]

theorem contextsTo_same (k : Nat) : SameButContexts draft (contextsTo live draft k) := by
  induction k with
  | zero => exact keepContexts_same live draft
  | succ k ih =>
    rw [contextsTo_succ]
    exact ih.trans (giveContext_same _ k)

/-- One step changes one window at most. -/
theorem contextsTo_succ_ne {k j : Nat} (h : j ≠ k) :
    windowAt (contextsTo live draft (k + 1)) j = windowAt (contextsTo live draft k) j := by
  rw [contextsTo_succ, giveContext_window, if_neg (fun e => h e.1)]

theorem contextsTo_after {k m j : Nat} (hj : j < k) (hk : k ≤ m) :
    windowAt (contextsTo live draft m) j = windowAt (contextsTo live draft k) j := by
  induction m, hk using Nat.le_induction with
  | base => rfl
  | succ m hm ih => rw [contextsTo_succ_ne (by omega), ih]

theorem contextsTo_before {k j : Nat} (hj : k ≤ j) :
    windowAt (contextsTo live draft k) j = windowAt (keepContexts live draft) j := by
  induction k with
  | zero => rfl
  | succ k ih => rw [contextsTo_succ_ne (by omega), ih (by omega)]

/-- A window that holds a context keeps it. -/
theorem contextsTo_keeps {k j c : Nat} (h : (windowAt (contextsTo live draft k) j).ctx = some c) :
    (windowAt (contextsTo live draft (k + 1)) j).ctx = some c := by
  rw [contextsTo_succ, giveContext_window]
  split
  · next e => rw [e.1, e.2.2] at h; cases h
  · exact h

theorem contextsTo_keeps_le {k m j c : Nat} (hk : k ≤ m) (h : (windowAt (contextsTo live draft k) j).ctx = some c) :
    (windowAt (contextsTo live draft m) j).ctx = some c := by
  induction m, hk using Nat.le_induction with
  | base => exact h
  | succ m _ ih => exact contextsTo_keeps ih

theorem ContextsApart.keep (h : ContextsApart live) : HeldApart (keepContexts live draft) := by
  have from_live : ∀ i c, (windowAt (keepContexts live draft) i).ctx = some c →
      (windowAt draft i).scaled = true ∧ (windowAt live i).ctx = some c := by
    intro i c hc
    rw [keepContexts_window] at hc
    by_cases both : ((windowAt draft i).scaled && (windowAt live i).scaled) = true
    · exact ⟨(Bool.and_eq_true_iff.1 both).1, (if_pos both).symm.trans hc⟩
    · rw [if_neg both] at hc; cases hc
  refine ⟨⟨fun i c hc => h.below i c (from_live i c hc).2,
    fun i j c hi hj => h.alone i j c (from_live i c hi).2 (from_live j c hj).2⟩, fun i c hc => ?_⟩
  rw [(keepContexts_same live draft).scaled]
  exact (from_live i c hc).1

theorem HeldApart.give {ws : List WindowRec} (h : HeldApart ws) (i : Nat) : HeldApart (giveContext ws i) := by
  by_cases gives : (windowAt ws i).scaled = true ∧ (windowAt ws i).ctx = none
  · have window (j : Nat) : (windowAt (giveContext ws i) j).ctx = if j = i then lowestFree ws else (windowAt ws j).ctx := by
      rw [giveContext_window]
      simp only [gives, and_true]
      split <;> rfl
    refine ⟨⟨fun j c hc => ?_, fun j k c hj hk => ?_⟩, fun j c hc => ?_⟩
    · rw [window] at hc
      split at hc
      · exact (lowestFree_eq_some hc).1
      · exact h.below j c hc
    · rw [window] at hj hk
      split at hj
      · next ej =>
        split at hk
        · next ek => exact ej.trans ek.symm
        · exact absurd hk ((lowestFree_eq_some hj).2.1 k)
      · split at hk
        · exact absurd hj ((lowestFree_eq_some hk).2.1 j)
        · exact h.alone j k c hj hk
    · rw [(giveContext_same ws i).scaled]
      rw [window] at hc
      split at hc
      · next e => exact e ▸ gives.1
      · exact h.scaled j c hc
  · have same (j : Nat) : windowAt (giveContext ws i) j = windowAt ws j := by
      rw [giveContext_window, if_neg (fun e => gives e.2)]
    exact ⟨⟨fun j c => by rw [same]; exact h.below j c, fun j k c => by rw [same, same]; exact h.alone j k c⟩,
      fun j c => by rw [same]; exact h.scaled j c⟩

theorem ContextsApart.contextsTo (h : ContextsApart live) (k : Nat) : HeldApart (contextsTo live draft k) := by
  induction k with
  | zero => exact h.keep
  | succ k ih =>
    rw [contextsTo_succ]
    exact ih.give k

/-- A scaled window that is looked at without a context is given the lowest that is free. -/
theorem contextsTo_given (h : ContextsApart live) (pool : scalersExhausted draft = false) {i : Nat}
    (hs : (windowAt draft i).scaled = true) (none : (windowAt (keepContexts live draft) i).ctx = none) :
    ∃ c, (windowAt (contextsTo live draft (i + 1)) i).ctx = some c ∧ lowestFree (contextsTo live draft i) = some c := by
  have unheld : (windowAt (contextsTo live draft i) i).ctx = Option.none := by rw [contextsTo_before le_rfl]; exact none
  have scaled : (windowAt (contextsTo live draft i) i).scaled = true := by rw [(contextsTo_same i).scaled]; exact hs
  have few : ((contextsTo live draft i).filter (fun w => w.scaled)).length ≤ 32 := by
    rw [(contextsTo_same i).scaledCount]
    have := mt (scalersExhausted_iff draft).2 (by rw [pool]; decide)
    exact Nat.not_lt.1 (fun h => this (.inl h))
  obtain ⟨c, free⟩ := Option.ne_none_iff_exists'.1 ((h.contextsTo i).free few scaled unheld)
  refine ⟨c, ?_, free⟩
  rw [contextsTo_succ, giveContext_window, if_pos ⟨rfl, scaled, unheld⟩]
  exact free

/-- The assignment is that of the whole table. -/
theorem assignContexts_eq : assignContexts live draft = contextsTo live draft draft.length := rfl

theorem assignContexts_same : SameButContexts draft (assignContexts live draft) := contextsTo_same _

variable (h : ContextsApart live) (holds : ∀ i, (windowAt live i).scaled = true → (windowAt live i).ctx ≠ none)
  (pool : scalersExhausted draft = false)

/-- A window scaled before and after keeps its context. -/
theorem assignContexts_kept (holds : ∀ i, (windowAt live i).scaled = true → (windowAt live i).ctx ≠ none) {i : Nat}
    (hl : (windowAt live i).scaled = true) (hd : (windowAt draft i).scaled = true) :
    (windowAt (assignContexts live draft) i).ctx = (windowAt live i).ctx := by
  obtain ⟨c, hc⟩ := Option.ne_none_iff_exists'.1 (holds i hl)
  rw [hc]
  refine contextsTo_keeps_le (Nat.zero_le _) ?_
  change (windowAt (keepContexts live draft) i).ctx = some c
  rw [keepContexts_window, hl, hd]
  exact hc

theorem keepContexts_new {i : Nat} (new : ¬ ((windowAt live i).scaled = true ∧ (windowAt draft i).scaled = true)) :
    (windowAt (keepContexts live draft) i).ctx = none := by
  rw [keepContexts_window]
  exact if_neg (fun both => new ⟨(Bool.and_eq_true_iff.1 both).2, (Bool.and_eq_true_iff.1 both).1⟩)

include h

theorem ContextsApart.assigned : HeldApart (assignContexts live draft) := h.contextsTo _

include pool

/-- Another scaled window takes the lowest context that is free by then. -/
theorem assignContexts_new {i : Nat} (hi : i < draft.length) (hd : (windowAt draft i).scaled = true)
    (new : ¬ ((windowAt live i).scaled = true ∧ (windowAt draft i).scaled = true)) :
    let kept := fun i => (windowAt live i).scaled = true ∧ (windowAt draft i).scaled = true
    ∃ c, (windowAt (assignContexts live draft) i).ctx = some c ∧
      (∀ j, j < i ∨ kept j → (windowAt (assignContexts live draft) j).ctx ≠ some c) ∧
      ∀ d, d < c → ∃ j, (j < i ∨ kept j) ∧ (windowAt (assignContexts live draft) j).ctx = some d := by
  obtain ⟨c, given, free⟩ := contextsTo_given h pool hd (keepContexts_new new)
  obtain ⟨-, unheld, lower⟩ := lowestFree_eq_some free
  have mine : (windowAt (assignContexts live draft) i).ctx = some c := contextsTo_keeps_le hi given
  refine ⟨c, mine, fun j hj hc => ?_, fun d hd => ?_⟩
  · have same := h.assigned.alone i j c mine hc
    rcases hj with lt | kept
    · omega
    · exact new (same ▸ kept)
  · obtain ⟨j, hj⟩ := lower d hd
    refine ⟨j, ?_, contextsTo_keeps_le hi.le hj⟩
    by_contra other
    rw [not_or] at other
    rw [contextsTo_before (Nat.not_lt.1 other.1), keepContexts_new other.2] at hj
    cases hj

include holds

/-- The visible scaled windows and no other hold a context. -/
theorem assignContexts_holder (i : Nat) :
    (windowAt draft i).scaled = true ↔ (windowAt (assignContexts live draft) i).ctx ≠ none := by
  constructor
  · intro hd
    by_cases kept : (windowAt live i).scaled = true ∧ (windowAt draft i).scaled = true
    · rw [assignContexts_kept holds kept.1 kept.2]
      exact holds i kept.1
    · obtain ⟨c, hc, -⟩ := assignContexts_new h pool (lt_of_scaled hd) hd kept
      rw [hc]
      exact fun e => by cases e
  · intro hc
    obtain ⟨c, hc⟩ := Option.ne_none_iff_exists'.1 hc
    rw [← (assignContexts_same (live := live) (draft := draft)).scaled]
    exact h.assigned.scaled i c hc

theorem assignContexts_contextsOk : ContextsOk (assignContexts live draft) where
  holder i := by rw [assignContexts_same.scaled, assignContexts_holder h holds pool]
  below := h.assigned.below
  alone := h.assigned.alone

end assign

theorem ContextsOk.apart {ws : List WindowRec} (h : ContextsOk ws) : ContextsApart ws := ⟨h.below, h.alone⟩

/-- A table whose contexts are in order and a draft that passes the pool's check give one whose contexts are in order. -/
theorem ContextsOk.assign {live draft : List WindowRec} (h : ContextsOk live) (pool : scalersExhausted draft = false) :
    ContextsOk (assignContexts live draft) :=
  assignContexts_contextsOk h.apart (fun i => (h.holder i).1) pool

end Sys2Proof.Machine
end

section
-- Many short proofs follow one another: taken one at a time they need one thread's memory, not one's for each.
set_option Elab.async false
/-! PROOF. The plans of the tiles (R16 to R19) and the completion of a build (R59). -/

namespace Sys2Proof.Machine

variable {s t u : State}

/-! Source regions and source rectangles (R9, R18). -/

theorem effectiveCrop_over (c : Rect) (aw ah : Nat) : RegionOver aw ah (some c) (effectiveCrop c aw ah) := by
  unfold effectiveCrop
  by_cases h : c.x < aw ∧ c.y < ah
  · rw [if_pos h]
    refine ⟨nofun, fun d hd _ _ => ?_, fun d hd out => ?_⟩ <;> cases Option.some.inj hd
    · rfl
    · omega
  · rw [if_neg h]
    refine ⟨nofun, fun d hd hx hy => ?_, fun _ _ _ => ⟨rfl, rfl⟩⟩
    cases Option.some.inj hd
    exact absurd ⟨hx, hy⟩ h

theorem WindowRec.region_over (w : WindowRec) (area : Nat × Nat) (slate : Bool) :
    RegionOver area.1 area.2 (if slate = true then none else w.crop) (w.region area slate) := by
  unfold WindowRec.region
  cases hc : w.crop with
  | none => exact ⟨fun _ => rfl, by simp, by simp⟩
  | some c =>
    cases slate with
    | true => exact ⟨fun _ => rfl, by simp, by simp⟩
    | false =>
      change RegionOver area.1 area.2 (some c) (effectiveCrop c area.1 area.2)
      exact effectiveCrop_over c area.1 area.2

theorem scaledSpan_end (d c r n len : Nat) :
    (scaledSpan d c r n len).1 + (scaledSpan d c r n len).2 = r + ((d + c) * n + (len - 1)) / len := by
  have : d * n / len ≤ ((d + c) * n + (len - 1)) / len :=
    Nat.div_le_div_right (by rw [Nat.add_mul]; omega)
  unfold scaledSpan
  dsimp only
  omega

theorem sourceRect_native (rect : Rect) (dx dy cw ch : Nat) (g : Rect) :
    NativePart g dx dy cw ch (sourceRect rect true dx dy cw ch g) := by
  unfold sourceRect
  rw [if_pos rfl]
  by_cases h : g.w ≤ dx ∨ g.h ≤ dy
  · rw [if_pos h]
    exact ⟨⟨rfl, rfl⟩, fun _ => ⟨rfl, rfl⟩, fun k => absurd h k⟩
  · rw [if_neg h]
    exact ⟨⟨rfl, rfl⟩, fun k => absurd k h, fun _ => ⟨rfl, rfl⟩⟩

theorem sourceRect_scaled (rect : Rect) (dx dy cw ch : Nat) (g : Rect) :
    ScaledPart g dx dy cw ch rect.w rect.h (sourceRect rect false dx dy cw ch g) := by
  unfold sourceRect
  rw [if_neg Bool.false_ne_true]
  by_cases h : g.w = 0 ∨ g.h = 0
  · rw [if_pos h]
    exact ⟨fun _ => ⟨rfl, rfl⟩, fun k => absurd h k, fun k => absurd h k, fun k => absurd h k, fun k => absurd h k⟩
  · rw [if_neg h]
    exact ⟨fun k => absurd k h, fun _ => rfl, fun _ => scaledSpan_end .., fun _ => rfl, fun _ => scaledSpan_end ..⟩

theorem sourceRect_part (rect : Rect) (native : Bool) (dx dy cw ch : Nat) (g : Rect) :
    if native = true then NativePart g dx dy cw ch (sourceRect rect native dx dy cw ch g)
    else ScaledPart g dx dy cw ch rect.w rect.h (sourceRect rect native dx dy cw ch g) := by
  cases native with
  | true => exact sourceRect_native ..
  | false => exact sourceRect_scaled ..

/-! The plan of a tile (R17). -/

theorem Rect.clipTo_corner (r t : Rect) :
    (r.clipTo t).x + t.x = max r.x t.x ∧ (r.clipTo t).y + t.y = max r.y t.y := by
  unfold Rect.clipTo
  dsimp only
  omega

theorem Rect.clipTo_extent {r t : Rect} (h : r.overlaps t = true) :
    (r.clipTo t).x + t.x + (r.clipTo t).w = min (r.x + r.w) (t.x + t.w) ∧
      (r.clipTo t).y + t.y + (r.clipTo t).h = min (r.y + r.h) (t.y + t.h) := by
  unfold Rect.overlaps at h
  unfold Rect.clipTo
  have := of_decide_eq_true h
  dsimp only
  omega

theorem mem_windowsOn {g : Geometry} {ws : List WindowRec} {k : Nat} {p : WindowRec × Nat} :
    p ∈ windowsOn ws (g.tileRect k) ↔ p.2 ∈ touching g ws k ∧ p.1 = windowAt ws p.2 := by
  rw [(windowsOn_perm_touching g ws k).mem_iff, List.mem_map]
  constructor
  · rintro ⟨i, hi, rfl⟩
    exact ⟨hi, rfl⟩
  · rintro ⟨hp, he⟩
    exact ⟨p.2, hp, by rw [← he]⟩

theorem mem_touching {g : Geometry} {ws : List WindowRec} {k i : Nat} :
    i ∈ touching g ws k ↔ i < ws.length ∧ (windowAt ws i).visible = true ∧
      (windowAt ws i).rect.overlaps (g.tileRect k) = true := by
  simp [touching]

/-- A list of windows stands in descending rank. -/
def RanksFall (l : List (WindowRec × Nat)) : Prop := l.Pairwise (fun p q => q.1.rank ≤ p.1.rank)

theorem RanksFall.insert {l : List (WindowRec × Nat)} (h : RanksFall l) (p : WindowRec × Nat) :
    RanksFall (insertByRank p l) := by
  induction l with
  | nil => exact List.pairwise_singleton _ _
  | cons q l ih =>
    obtain ⟨hq, hl⟩ := List.pairwise_cons.mp h
    unfold insertByRank
    by_cases lt : q.1.rank < p.1.rank
    · rw [if_pos lt]
      refine List.pairwise_cons.mpr ⟨fun r hr => ?_, h⟩
      rcases List.mem_cons.mp hr with rfl | hr
      · exact Nat.le_of_lt lt
      · exact (hq r hr).trans (Nat.le_of_lt lt)
    · rw [if_neg lt]
      refine List.pairwise_cons.mpr ⟨fun r hr => ?_, ih hl⟩
      rcases List.mem_cons.mp ((insertByRank_perm p l).mem_iff.mp hr) with rfl | hr
      · exact Nat.le_of_not_lt lt
      · exact hq r hr

theorem windowsOn_ranksFall (ws : List WindowRec) (t : Rect) : RanksFall (windowsOn ws t) := by
  unfold windowsOn
  induction (visibleOf ws).filter (fun p => p.1.rect.overlaps t) with
  | nil => exact List.Pairwise.nil
  | cons p l ih => exact RanksFall.insert ih p

theorem fragmentOf_holds {cls : Nat → Nat} {area : Nat → Nat × Nat} {ws : List WindowRec} {t : Rect} {i : Nat}
    (h : (windowAt ws i).rect.overlaps t = true) : FragmentHolds cls area ws t (fragmentOf cls area t (windowAt ws i, i)) where
  shown := rfl
  charge := rfl
  ctx := rfl
  corner := Rect.clipTo_corner ..
  extent := Rect.clipTo_extent h
  src := by
    refine ⟨_, ?_, sourceRect_part ..⟩
    have := (windowAt ws i).region_over (area (windowAt ws i).shown) ((windowAt ws i).shown == Config.slate)
    simp only [beq_iff_eq] at this
    exact this

theorem planOf_holds (g : Geometry) (cls : Nat → Nat) (area : Nat → Nat × Nat) (ws : List WindowRec) (k : Nat) :
    PlanHolds g cls area ws k (planOf g cls area ws k) where
  members i := by
    constructor
    · rintro ⟨f, hf, rfl⟩
      obtain ⟨p, hp, rfl⟩ := List.mem_map.mp hf
      exact (mem_windowsOn.mp hp).1
    · intro hi
      exact ⟨_, List.mem_map.mpr ⟨(windowAt ws i, i), mem_windowsOn.mpr ⟨hi, rfl⟩, rfl⟩, rfl⟩
  once := by
    have indices : (planOf g cls area ws k).map (·.window) = (windowsOn ws (g.tileRect k)).map (·.2) := by
      simp [planOf, fragmentOf, Function.comp_def]
    rw [indices, ((windowsOn_perm_touching g ws k).map _).nodup_iff, List.map_map]
    exact (List.map_id _).symm ▸ List.nodup_range.filter _
  order := by
    refine List.pairwise_map.mpr ((windowsOn_ranksFall ws (g.tileRect k)).imp_of_mem fun {p q} hp hq le => ?_)
    rwa [(mem_windowsOn.mp hp).2, (mem_windowsOn.mp hq).2] at le
  fragment f hf := by
    obtain ⟨p, hp, rfl⟩ := List.mem_map.mp hf
    obtain ⟨ht, he⟩ := mem_windowsOn.mp hp
    obtain ⟨w, i⟩ := p
    obtain rfl : w = windowAt ws i := he
    exact fragmentOf_holds (mem_touching.mp ht).2.2

theorem plansOf_getElem {g : Geometry} {cls : Nat → Nat} {area : Nat → Nat × Nat} {ws : List WindowRec} {k : Nat}
    {p : List Fragment} (h : (plansOf g cls area ws)[k]? = some p) : p = planOf g cls area ws k := by
  obtain ⟨j, hj, rfl⟩ : ∃ j, (List.range g.tiles)[k]? = some j ∧ planOf g cls area ws j = p := by
    simpa [plansOf] using h
  rw [List.getElem?_range (by by_contra lt; simp [lt] at hj)] at hj
  rw [Option.some.inj hj]

theorem Geometry.tileRect_at (g : Geometry) {row column : Nat} (h : column < g.cols) :
    g.tileRect (row * g.cols + column) = ⟨column * 1920, row * 1080, 1920, 1080⟩ := by
  unfold Geometry.tileRect
  rw [Nat.mul_comm row, Nat.mul_add_mod, Nat.mod_eq_of_lt h, Nat.mul_add_div (by omega), Nat.div_eq_of_lt h, Nat.add_zero]

/-! The completion of a draft (R13, R15, R59). -/

theorem lastTag_isSome {named : List (Nat × Word)} {i : Nat} :
    (lastTag named i).isSome = true ↔ ∃ p ∈ named, p.1 = i := by
  simp [lastTag]

theorem editTouched_iff {edits : List (Edit × EditOutcome)} {i : Nat} :
    editTouched edits i = true ↔ ∃ p ∈ edits, p.1.window = i ∧ p.2 ≠ .dropped := by
  simp [editTouched]

theorem BuildRecord.stamp_eq (b : BuildRecord) (live : List WindowRec) (w : WindowRec) (i : Nat) :
    b.stamp live (w, i) = { w with
      lastCommitFrame := if (∃ p ∈ b.named, p.1 = i) ∨ (∃ p ∈ b.edits, p.1.window = i ∧ p.2 ≠ .dropped) ∨
          w.ctx ≠ (windowAt live i).ctx then b.target else w.lastCommitFrame
      lastTakeTag := (lastTag b.named i).getD w.lastTakeTag } := by
  simp only [BuildRecord.stamp, Bool.or_eq_true, lastTag_isSome, editTouched_iff, bne_iff_ne, or_assoc]

theorem State.completeDraft_length (s : State) (b : BuildRecord) :
    (s.completeDraft b).windows.length = b.draft.windows.length := by
  simp [State.completeDraft, indexed, assignContexts_same.1]

theorem State.completeDraft_window (s : State) (b : BuildRecord) {i : Nat} (hi : i < b.draft.windows.length) :
    windowAt (s.completeDraft b).windows i =
      b.stamp s.composer.live.windows (windowAt (assignContexts s.composer.live.windows b.draft.windows) i, i) := by
  rw [← assignContexts_same.1] at hi
  exact windowAt_indexed_map _ hi

theorem BuildRecord.allChecked_iff (b : BuildRecord) : b.allChecked = true ↔ ∀ k ∈ b.takes, k.result ≠ none := by
  simp [BuildRecord.allChecked, Option.isSome_iff_ne_none]

theorem exec_buildComplete {b : BuildRecord} (hb : s.composer.build = some b) (run : b.status = .running)
    (checked : ∀ k ∈ b.takes, k.result ≠ none) : exec (.buildComplete b.target b.attempt) s =
      .next (s.setBuild (some { b with status := .ready, draft := s.completeDraft b })) := by
  change execBuildComplete _ _ _ = _
  unfold execBuildComplete
  rw [hb]
  exact if_pos ⟨run, rfl, rfl, b.allChecked_iff.mpr checked⟩

theorem exec_buildComplete_ignored {target : Word} {attempt : Nat}
    (h : ∀ b, s.composer.build = some b → b.status ≠ .running ∨ b.target ≠ target ∨ b.attempt ≠ attempt ∨
      ∃ k ∈ b.takes, k.result = none) : exec (.buildComplete target attempt) s = .next s := by
  change execBuildComplete _ _ _ = _
  unfold execBuildComplete
  cases hb : s.composer.build with
  | none => rfl
  | some b =>
    refine if_neg ?_
    rintro ⟨run, target, attempt, checked⟩
    rcases h b hb with hr | ht | ha | ⟨k, hk, hn⟩
    · exact hr run
    · exact ht target
    · exact ha attempt
    · exact b.allChecked_iff.mp checked k hk hn

/-- Settles O42. -/
theorem buildCompleteMakesReady : Obligations.BuildCompleteMakesReady := by
  refine ⟨fun s b hb run checked => ?_, fun s ws => ⟨?_, fun k p hp => ?_⟩, fun s => ⟨?_, ?_⟩,
    fun g => ⟨rfl, fun row column h => g.tileRect_at h⟩, fun s i => ⟨?_, ?_, rfl, fun _ => rfl⟩,
    fun s target attempt => exec_buildComplete_ignored⟩
  · refine ⟨_, s.completeDraft b, exec_buildComplete hb run checked, rfl, rfl, rfl, s.completeDraft_length b,
      fun i hi => ?_, State.setBuild_only ..⟩
    rw [s.completeDraft_length] at hi
    have same := assignContexts_same (live := s.composer.live.windows) (draft := b.draft.windows)
    rw [s.completeDraft_window b hi, b.stamp_eq, same.2 i]
    rfl
  · simp [State.plansNow, plansOf]
  · rw [plansOf_getElem hp]
    exact planOf_holds ..
  · intro h
    rw [State.geometry, h]
  · intro c h
    rw [State.geometry, h]
  · intro h
    rw [State.areaOf, SourceRec.activeArea, h]
  · intro f h
    rw [State.areaOf, SourceRec.activeArea, h]

end Sys2Proof.Machine
end

section
-- Many short proofs follow one another: taken one at a time they need one thread's memory, not one's for each.
set_option Elab.async false
/-! PROOF. The checks of a build's takes (R29, R54 to R58). -/

namespace Sys2Proof.Machine

variable {s t u : State}

/-! The checks of a list of entries (R54). -/

/-- The entries before the one of index `k` pass, each against the draft as those before it leave it. -/
def EntriesPass (c : EntryContext) (d : Layout) (l : List Entry) (k : Nat) : Prop :=
  ∀ j e, j < k → l[j]? = some e → e.check c ((l.take j).foldl (fun d e => e.apply d) d).windows = none

theorem TakeCheck.next_failed {p : TakeCheck} {r : Reason} (c : EntryContext) (e : Entry) (h : p.failed = some r) :
    p.next c e = p := by
  unfold TakeCheck.next
  rw [h]

theorem TakeCheck.next_open {p : TakeCheck} (c : EntryContext) (e : Entry) (h : p.failed = none) :
    p.next c e = match e.check c p.draft.windows with
      | some r => { p with failed := some r }
      | none => ⟨p.passed + 1, e.apply p.draft, none⟩ := by
  obtain ⟨n, d, f⟩ := p
  cases (show f = none from h)
  rfl

theorem TakeCheck.foldl_failed {p : TakeCheck} {r : Reason} (c : EntryContext) (l : List Entry) (h : p.failed = some r) :
    l.foldl (fun p e => p.next c e) p = p := by
  induction l with
  | nil => rfl
  | cons e l ih => rw [List.foldl_cons, p.next_failed c e h, ih]

/-- Entries that pass are counted and applied. -/
theorem TakeCheck.foldl_passes {p : TakeCheck} {c : EntryContext} {l : List Entry} (h : p.failed = none) {k : Nat}
    (hk : k ≤ l.length) (pass : EntriesPass c p.draft l k) : (l.take k).foldl (fun p e => p.next c e) p =
      ⟨p.passed + k, (l.take k).foldl (fun d e => e.apply d) p.draft, none⟩ := by
  induction k with
  | zero => exact (congrArg (TakeCheck.mk p.passed p.draft) h : _)
  | succ k ih =>
    have lt : k < l.length := hk
    have at_k : l[k]? = some l[k] := List.getElem?_eq_getElem lt
    rw [List.take_add_one, at_k, Option.toList_some, List.foldl_append, List.foldl_append,
      ih (Nat.le_of_lt lt) (fun j e hj => pass j e (hj.trans k.lt_succ_self)), List.foldl_cons, List.foldl_cons,
      TakeCheck.next_open c _ rfl, pass k _ k.lt_succ_self at_k]
    rfl

/-- The first entry that fails ends the checks. -/
theorem TakeCheck.foldl_fails {p : TakeCheck} {c : EntryContext} {l : List Entry} (h : p.failed = none) {k : Nat} {e : Entry}
    {r : Reason} (pass : EntriesPass c p.draft l k) (he : l[k]? = some e)
    (fails : e.check c ((l.take k).foldl (fun d e => e.apply d) p.draft).windows = some r) :
    l.foldl (fun p e => p.next c e) p = ⟨p.passed + k, (l.take k).foldl (fun d e => e.apply d) p.draft, some r⟩ := by
  obtain ⟨lt, at_k⟩ := List.getElem?_eq_some_iff.mp he
  have cut : l = l.take k ++ e :: l.drop (k + 1) := by
    rw [← at_k, List.cons_getElem_drop_succ, List.take_append_drop]
  conv_lhs => rw [cut]
  rw [List.foldl_append, TakeCheck.foldl_passes h (Nat.le_of_lt lt) pass, List.foldl_cons, TakeCheck.next_open c _ rfl, fails]
  exact TakeCheck.foldl_failed c _ rfl

/-- Checks that end without a failure have applied every entry. -/
theorem TakeCheck.foldl_applied {p : TakeCheck} {c : EntryContext} {l : List Entry}
    (h : (l.foldl (fun p e => p.next c e) p).failed = none) :
    p.failed = none ∧ (l.foldl (fun p e => p.next c e) p).draft = l.foldl (fun d e => e.apply d) p.draft := by
  induction l generalizing p with
  | nil => exact ⟨h, rfl⟩
  | cons e l ih =>
    obtain ⟨(hn : (p.next c e).failed = none), hd⟩ := ih h
    have hd : ((e :: l).foldl (fun p e => p.next c e) p).draft = l.foldl (fun d e => e.apply d) (p.next c e).draft := hd
    cases hp : p.failed with
    | some r =>
      rw [p.next_failed c e hp, hp] at hn
      cases hn
    | none =>
      rw [TakeCheck.next_open c e hp] at hn hd
      refine ⟨rfl, hd.trans ?_⟩
      rw [List.foldl_cons]
      cases hc : e.check c p.draft.windows with
      | some r =>
        rw [hc] at hn
        cases hn
      | none => rfl

theorem TakeCheck.result_failed {p : TakeCheck} {r : Reason} (g : Geometry) (cls : Nat → Nat) (d : Layout)
    (h : p.failed = some r) : p.result g cls d = (⟨false, r, some p.passed, none⟩, d) := by
  unfold TakeCheck.result
  rw [h]

theorem TakeCheck.result_breaks {p : TakeCheck} {g : Geometry} {cls : Nat → Nat} {r : Reason} {tile : Option Nat} (d : Layout)
    (h : p.failed = none) (breaks : wholeLayoutCheck g cls p.draft.windows = some (r, tile)) :
    p.result g cls d = (⟨false, r, none, tile⟩, d) := by
  unfold TakeCheck.result
  rw [h, breaks]

theorem TakeCheck.result_applied {p : TakeCheck} {g : Geometry} {cls : Nat → Nat} (d : Layout)
    (h : p.failed = none) (fits : wholeLayoutCheck g cls p.draft.windows = none) :
    p.result g cls d = (⟨true, .none, none, none⟩, p.draft) := by
  unfold TakeCheck.result
  rw [h, fits]

/-- A take is applied when none of its entries has failed; a take that is not leaves the draft. -/
theorem TakeCheck.result_draft (p : TakeCheck) (g : Geometry) (cls : Nat → Nat) (d : Layout) :
    ((p.result g cls d).1.applied = false → (p.result g cls d).2 = d) ∧
      ((p.result g cls d).1.applied = true → p.failed = none ∧ (p.result g cls d).2 = p.draft) := by
  cases hf : p.failed with
  | some r => simp [TakeCheck.result_failed g cls d hf]
  | none =>
    cases hw : wholeLayoutCheck g cls p.draft.windows with
    | some r => simp [TakeCheck.result_breaks (r := r.1) (tile := r.2) d hf hw]
    | none => simp [TakeCheck.result_applied d hf hw]

/-! The take that is checked next. -/

theorem firstOpen {pre post : List BuildTake} {i : Nat} (h : ∀ k ∈ pre, k.result ≠ none) :
    (pre ++ ⟨i, none⟩ :: post).find? (fun k => k.result.isNone) = some ⟨i, none⟩ := by
  refine List.find?_eq_some_iff_append.mpr ⟨rfl, pre, post, rfl, fun k hk => ?_⟩
  cases hr : k.result with
  | none => exact absurd hr (h k hk)
  | some r => rfl

/-- The result of the checks of the take in slot `i`, and the draft after it. -/
def State.takeResult (s : State) (b : BuildRecord) (i : Nat) : TakeResult × Layout :=
  (b.takeBegun.toEnd (s.entryContext i) (s.takeEntries i)).result s.geometry s.classOf b.draft

/-- The windows a take names once it is applied (R13). -/
def State.takeNames (s : State) (b : BuildRecord) (i : Nat) : List (Nat × Word) :=
  if (s.takeResult b i).1.applied then (namedWindows (s.takeEntries i)).map (fun w => (w, (s.slot i).header.driverTag)) else []

theorem State.checkNext_eq (s : State) (b : BuildRecord) {pre : List BuildTake} (post : List BuildTake) (i : Nat)
    (h : ∀ k ∈ pre, k.result ≠ none) : s.checkNext b (pre ++ ⟨i, none⟩ :: post) =
      some (pre ++ ⟨i, some (s.takeResult b i).1⟩ :: post, (s.takeResult b i).2, b.named ++ s.takeNames b i) := by
  induction pre with
  | nil => rfl
  | cons k pre ih =>
    obtain ⟨r, hr⟩ := Option.ne_none_iff_exists'.mp (h k (List.mem_cons_self ..))
    rw [List.cons_append, State.checkNext, hr]
    dsimp only
    rw [ih (fun k hk => h k (List.mem_cons_of_mem _ hk))]
    rfl

/-! When the take reader reads for the build (R60). -/

theorem State.checksInHand_iff (s : State) :
    s.checksInHand = true ↔ ∃ j, s.takes.checking = some j ∧ s.finished j = false := by
  simp [State.checksInHand, Option.any_eq_true]

theorem State.readsBuild_iff (s : State) : s.readsBuild = true ↔ (∃ b, s.composer.build = some b ∧ b.status = .running ∧
    ∃ k ∈ b.takes, k.result = none) ∧ ((∀ j, s.takes.checking = some j → s.finished j = true) ∨ s.takes.behindBuild = true) := by
  have free : s.checksInHand = false ↔ ∀ j, s.takes.checking = some j → s.finished j = true := by
    rw [← Bool.not_eq_true, s.checksInHand_iff]
    simp
  rw [State.readsBuild, Bool.and_eq_true, s.buildReading_iff, Bool.or_eq_true, Bool.not_eq_true', free]

theorem State.readerGrant_idle (h : s.readsBuild = false) : s.grantTo .takeReader = { s with lastServed := .controller } := by
  change s.readerGrant = _
  unfold State.readerGrant
  rw [h]
  cases s.composer.build <;> rfl

theorem exec_buildTakeCheck {b : BuildRecord} (hb : s.composer.build = some b) (reads : s.readsBuild = true)
    (granted : s.readerGranted = true) : exec .buildTakeCheck s = .next (s.commitDone.checkBuildTake b).resume := by
  change execBuildTakeCheck s = _
  unfold execBuildTakeCheck
  rw [hb, reads, granted]
  rfl

theorem exec_buildTakeCheck_idle (h : s.readsBuild = false ∨ s.readerGranted = false) :
    exec .buildTakeCheck s = .next s := by
  have no : (s.readsBuild && s.readerGranted) = false := by
    rcases h with h | h <;> simp [h]
  change execBuildTakeCheck s = _
  unfold execBuildTakeCheck
  rw [no]
  cases s.composer.build <;> rfl

/-! The reads of a running build's first take without a result. -/

section take

variable {b : BuildRecord} {pre post : List BuildTake} {i : Nat} (hb : s.composer.build = some b)
  (takes : b.takes = pre ++ ⟨i, none⟩ :: post) (checked : ∀ k ∈ pre, k.result ≠ none)

include takes checked

/-- What the end of a take's checks leaves. -/
theorem State.checkBuildTake_eq : s.checkBuildTake b = { s.ctlRead with
    composer := { s.ctlRead.composer with build := some { b with
      takes := pre ++ ⟨i, some (s.ctlRead.takeResult b i).1⟩ :: post
      draft := (s.ctlRead.takeResult b i).2
      inTake := none
      named := b.named ++ s.ctlRead.takeNames b i } }
    takes := { s.ctlRead.takes with behindBuild := false } } := by
  unfold State.checkBuildTake State.andThen
  dsimp only
  rw [takes, State.checkNext_eq _ _ _ _ checked]
  rfl

include hb

theorem State.readerGrant_eq (reads : s.readsBuild = true) {e : Entry}
    (he : (s.takeEntries i)[b.takeBegun.passed]? = some e) : s.grantTo .takeReader = { s with
      lastServed := .controller
      composer := { s.composer with build := some { b with
        inTake := some (b.takeBegun.next (s.entryContext i) e) } } } := by
  change s.readerGrant = _
  unfold State.readerGrant State.checkEntry
  rw [hb, reads]
  dsimp only
  rw [takes, firstOpen checked]
  dsimp only
  rw [he]
  rfl

theorem State.readerGrant_ended (reads : s.readsBuild = true)
    (h : b.takeBegun.failed ≠ none ∨ (s.takeEntries i).length ≤ b.takeBegun.passed) :
    s.grantTo .takeReader = { s with lastServed := .controller } := by
  cases he : (s.takeEntries i)[b.takeBegun.passed]? with
  | none =>
    change s.readerGrant = _
    unfold State.readerGrant State.checkEntry
    rw [hb, reads]
    dsimp only
    rw [takes, firstOpen checked]
    dsimp only
    rw [he]
    rfl
  | some e =>
    have failed : b.takeBegun.failed ≠ none :=
      h.resolve_right (Nat.not_le.mpr (List.getElem?_eq_some_iff.mp he).1)
    obtain ⟨r, hr⟩ := Option.ne_none_iff_exists'.mp failed
    have begun : b.inTake = some b.takeBegun := by
      cases hi : b.inTake with
      | none =>
        rw [BuildRecord.takeBegun, hi] at hr
        cases hr
      | some p => rw [BuildRecord.takeBegun, hi, Option.getD_some]
    rw [State.readerGrant_eq hb takes checked reads he, TakeCheck.next_failed _ _ hr, ← begun, ← hb]

end take

theorem State.geometry_congr (h : t.modes = s.modes) : t.geometry = s.geometry := by
  unfold State.geometry
  rw [h]

theorem State.classOf_congr (h : t.sources = s.sources) : t.classOf = s.classOf := by
  funext k
  unfold State.classOf State.source
  rw [h]

/-! The result of a take's checks. -/

section result

variable {b : BuildRecord} {i : Nat}

theorem State.takeResult_begun {r : Reason} (h : b.takeBegun.failed = some r) :
    (s.takeResult b i).1 = ⟨false, r, some b.takeBegun.passed, none⟩ := by
  unfold State.takeResult TakeCheck.toEnd
  rw [TakeCheck.foldl_failed _ _ h, TakeCheck.result_failed _ _ _ h]

theorem State.takeResult_fails (h : b.takeBegun.failed = none) {k : Nat} {e : Entry} {r : Reason}
    (pass : EntriesPass (s.entryContext i) b.takeBegun.draft ((s.takeEntries i).drop b.takeBegun.passed) k)
    (he : ((s.takeEntries i).drop b.takeBegun.passed)[k]? = some e)
    (fails : e.check (s.entryContext i) ((((s.takeEntries i).drop b.takeBegun.passed).take k).foldl (fun d e => e.apply d)
      b.takeBegun.draft).windows = some r) : (s.takeResult b i).1 = ⟨false, r, some (b.takeBegun.passed + k), none⟩ := by
  unfold State.takeResult TakeCheck.toEnd
  rw [TakeCheck.foldl_fails h pass he fails, TakeCheck.result_failed _ _ _ rfl]

theorem State.takeResult_applied (h : (s.takeResult b i).1.applied = true) : (s.takeResult b i).2 =
    ((s.takeEntries i).drop b.takeBegun.passed).foldl (fun d e => e.apply d) b.takeBegun.draft := by
  obtain ⟨ended, draft⟩ := (TakeCheck.result_draft _ _ _ _).2 h
  exact draft.trans (TakeCheck.foldl_applied ended).2

variable (h : b.takeBegun.failed = none)
  (pass : EntriesPass (s.entryContext i) b.takeBegun.draft ((s.takeEntries i).drop b.takeBegun.passed)
    ((s.takeEntries i).drop b.takeBegun.passed).length)

include h pass

theorem State.takeResult_ends : b.takeBegun.toEnd (s.entryContext i) (s.takeEntries i) =
    ⟨b.takeBegun.passed + ((s.takeEntries i).drop b.takeBegun.passed).length,
      ((s.takeEntries i).drop b.takeBegun.passed).foldl (fun d e => e.apply d) b.takeBegun.draft, none⟩ := by
  have all := TakeCheck.foldl_passes h (Nat.le_refl _) pass
  rwa [List.take_length] at all

theorem State.takeResult_breaks {r : Reason} {tile : Option Nat}
    (breaks : wholeLayoutCheck s.geometry s.classOf (((s.takeEntries i).drop b.takeBegun.passed).foldl
      (fun d e => e.apply d) b.takeBegun.draft).windows = some (r, tile)) :
    (s.takeResult b i).1 = ⟨false, r, none, tile⟩ := by
  unfold State.takeResult
  rw [State.takeResult_ends h pass, TakeCheck.result_breaks _ rfl breaks]

theorem State.takeResult_fits
    (fits : wholeLayoutCheck s.geometry s.classOf (((s.takeEntries i).drop b.takeBegun.passed).foldl
      (fun d e => e.apply d) b.takeBegun.draft).windows = none) :
    (s.takeResult b i).1 = ⟨true, .none, none, none⟩ := by
  unfold State.takeResult
  rw [State.takeResult_ends h pass, TakeCheck.result_applied _ rfl fits]

end result

theorem State.withComposerTakes_only (s : State) (co : Composer) (te : TakeEngine) :
    OnlyChanges [.composer, .takes] s { s with composer := co, takes := te } :=
  ((State.modComposer_only s (fun _ => co)).mono (by decide)).next (State.modTakes_only _ (fun _ => te)) (by decide)

theorem State.takeNames_applied {b : BuildRecord} {i : Nat} (h : (s.takeResult b i).1.applied = true) :
    s.takeNames b i = ((s.takeEntries i).filter (fun e => decide (entryKind e.kind ≠ some .filter))).map
      (fun e => (e.window, (s.slot i).header.driverTag)) := by
  unfold State.takeNames namedWindows
  rw [if_pos h, List.map_map]
  rfl

theorem State.takeNames_rejected {b : BuildRecord} {i : Nat} (h : (s.takeResult b i).1.applied = false) :
    s.takeNames b i = [] := if_neg (by simp [h])

/-- Settles O40. -/
theorem buildTakeCheckIsWholeOrNothing : Obligations.BuildTakeCheckIsWholeOrNothing := by
  refine ⟨fun s b pre post i hb run takes checked first => ?_, fun s h => ?_, fun s h => exec_buildTakeCheck_idle (.inr h)⟩
  · have reads : s.readsBuild = true :=
      s.readsBuild_iff.mpr ⟨⟨b, hb, run, ⟨i, none⟩, by simp [takes], rfl⟩, first⟩
    refine ⟨fun granted => ?_, fun e hf he => ?_, State.readerGrant_ended hb takes checked reads⟩
    · intro m left draftAt passes breaks
      have only := s.commitDone_only.trans (s.commitDone.ctlRead_only.mono (by decide))
      have composer : m.composer = s.composer := only.composer_eq
      have takesEq : m.takes = s.takes := only.takes_eq
      have geometry : m.geometry = s.geometry := State.geometry_congr only.modes_eq
      have classes : m.classOf = s.classOf := State.classOf_congr only.sources_eq
      have done := exec_buildTakeCheck hb reads granted
      have after := State.checkBuildTake_eq (s := s.commitDone) takes checked
      have whole : draftAt left.length = left.foldl (fun d e => e.apply d) b.takeBegun.draft := by
        change (left.take left.length).foldl _ _ = _
        rw [List.take_length]
        rfl
      have check (r : Option (Reason × Option Nat)) :
          wholeLayoutCheck s.geometry s.classOf (draftAt left.length).windows = r →
          wholeLayoutCheck m.geometry m.classOf (left.foldl (fun d e => e.apply d) b.takeBegun.draft).windows = r := by
        rw [whole, geometry, classes]
        exact id
      refine ⟨s.commitDone.checkBuildTake b,
        { b with takes := pre ++ ⟨i, some (m.takeResult b i).1⟩ :: post, draft := (m.takeResult b i).2, inTake := none
                 named := b.named ++ m.takeNames b i },
        (m.takeResult b i).1, done, fun idle => ?_, ?_, rfl, fun why hf => State.takeResult_begun hf,
        fun hf => ⟨fun k e why pass he fails => State.takeResult_fails hf pass he fails,
          fun why tile pass hfirst hbreaks => ?_, fun pass none => ?_⟩, fun no => ⟨?_, ?_⟩, fun yes => ⟨?_, ?_⟩, ?_, ?_⟩
      · rw [done, State.resume_idle (by rw [after]; exact idle)]
      · rw [after, ← composer]
      · exact State.takeResult_breaks hf pass (check _ ((wholeLayoutCheck_eq_some _ _ _ why tile).mpr ⟨hfirst, hbreaks⟩))
      · exact State.takeResult_fits hf pass (check _ ((wholeLayoutCheck_eq_none _ _ _).mpr none))
      · exact (TakeCheck.result_draft _ _ _ _).1 no
      · rw [State.takeNames_rejected no, List.append_nil]
      · rw [whole]
        exact State.takeResult_applied yes
      · change b.named ++ m.takeNames b i = _
        rw [State.takeNames_applied yes, State.slot_congr takesEq]
        rfl
      · rw [after, ← takesEq]
      · rw [after]
        exact m.withComposerTakes_only ..
    · rw [State.readerGrant_eq hb takes checked reads he, TakeCheck.next_open (p := b.takeBegun) _ _ hf]
      rfl
  · have idle : s.readsBuild = false := by
      rw [← Bool.not_eq_true, s.readsBuild_iff]
      rintro ⟨⟨b, hb, run, k, hk, left⟩, hand⟩
      rcases h with h | ⟨⟨j, hj, hf⟩, behind⟩
      · exact (h b hb).elim (absurd run) (fun all => all k hk left)
      · rcases hand with all | hand
        · rw [all j hj] at hf
          cases hf
        · rw [behind] at hand
          cases hand
    exact ⟨exec_buildTakeCheck_idle (.inl idle), State.readerGrant_idle idle⟩

end Sys2Proof.Machine
end

section
-- Many short proofs follow one another: taken one at a time they need one thread's memory, not one's for each.
set_option Elab.async false
/-! PROOF. A change of a source's record: the edits it calls for, and the rewrite of its published record (R90, R91, R93, R97). -/

namespace Sys2Proof.Machine

variable {s t u : State}

/-! Edits added in order (R97). -/

/-- A call for an edit: the window, its routed source, the kind and the cause. -/
abbrev EditCall := Nat × Nat × EditKind × EditCause

/-- The edit that a call adds, its serial counted from `serial` on. -/
def editOf (serial : Nat) (p : EditCall × Nat) : Edit := ⟨serial + p.2, p.1.2.2.1, p.1.1, p.1.2.1, p.1.2.2.2⟩

theorem editOf_later (serial : Nat) (l : List EditCall) : (l.zipIdx 1).map (editOf serial) = l.zipIdx.map (editOf (serial + 1)) := by
  rw [List.zipIdx_succ, List.map_map]
  refine List.map_congr_left fun p _ => ?_
  unfold editOf
  rw [Function.comp_apply, Nat.add_assoc, Nat.add_comm 1]

/-- The composer once the edits called for have been added in order. -/
def Composer.addCalls (c : Composer) (calls : List EditCall) : Composer :=
  calls.foldl (fun c p => c.addEdit p.2.2.1 p.1 p.2.1 p.2.2.2) c

/-- Of edits for different windows each takes the place of the older ones for its window. -/
theorem Composer.addCalls_eq (c : Composer) {calls : List EditCall} (once : (calls.map (·.1)).Nodup) : c.addCalls calls =
    { c with
      pendingEdits := c.pendingEdits.filter (fun e => decide (e.window ∉ calls.map (·.1))) ++
        calls.zipIdx.map (editOf c.editSerial)
      editSerial := c.editSerial + calls.length } := by
  induction calls generalizing c with
  | nil => simp [Composer.addCalls]
  | cons p l ih =>
    obtain ⟨new, rest⟩ := List.nodup_cons.mp once
    have older : ∀ e : Edit, (decide (e.window ∉ l.map (·.1)) && (e.window != p.1)) =
        decide (e.window ∉ (p :: l).map (·.1)) := by
      intro e
      simp only [List.map_cons, List.mem_cons, not_or, Bool.decide_and, Bool.and_comm, bne, decide_not]
      rfl
    have kept : ∀ e : Edit, e.window = p.1 → decide (e.window ∉ l.map (·.1)) = true := by
      intro e he
      rw [he]
      exact decide_eq_true new
    refine (ih (c.addEdit p.2.2.1 p.1 p.2.1 p.2.2.2) rest).trans ?_
    unfold Composer.addEdit
    dsimp only
    rw [List.filter_append, List.filter_filter, List.filter_cons, if_pos (kept _ rfl), List.filter_nil, List.zipIdx_cons,
      Nat.zero_add, List.map_cons (l := l.zipIdx 1), editOf_later, List.append_assoc, List.length_cons, Nat.add_assoc, Nat.add_comm 1]
    simp only [older]
    rfl

/-- The edits that windows call for, in the order of the windows. -/
def callsOf (f : WindowRec × Nat → Option (EditKind × EditCause)) (l : List (WindowRec × Nat)) : List EditCall :=
  l.filterMap (fun p => (f p).map (fun k => (p.2, p.1.routed, k)))

theorem callsOf_none {f : WindowRec × Nat → Option (EditKind × EditCause)} {p : WindowRec × Nat} (l : List (WindowRec × Nat))
    (h : f p = none) : callsOf f (p :: l) = callsOf f l := by
  unfold callsOf
  rw [List.filterMap_cons_none (by rw [h]; rfl)]

theorem callsOf_some {f : WindowRec × Nat → Option (EditKind × EditCause)} {p : WindowRec × Nat} {k : EditKind × EditCause}
    (l : List (WindowRec × Nat)) (h : f p = some k) : callsOf f (p :: l) = (p.2, p.1.routed, k) :: callsOf f l := by
  unfold callsOf
  rw [List.filterMap_cons_some (by rw [h]; rfl)]

theorem callsOf_once (f : WindowRec × Nat → Option (EditKind × EditCause)) {l : List (WindowRec × Nat)}
    (h : (l.map (·.2)).Nodup) : ((callsOf f l).map (·.1)).Nodup := by
  refine h.sublist ?_
  induction l with
  | nil => exact List.Sublist.refl _
  | cons p l ih =>
    have tail := ih (List.nodup_cons.mp h).2
    cases hp : f p with
    | none =>
      rw [callsOf_none l hp]
      exact tail.cons _
    | some k =>
      rw [callsOf_some l hp]
      exact tail.cons_cons _

theorem indexed_once (ws : List WindowRec) : ((indexed ws).map (·.2)).Nodup := by
  simp [indexed, List.nodup_range']

/-- Adding an edit for each window that calls for one, window by window. -/
theorem foldl_addCalls {f : WindowRec × Nat → Option (EditKind × EditCause)}
    {step : Composer → WindowRec × Nat → Composer}
    (h : ∀ c p, step c p = (f p).elim c (fun k => c.addEdit k.1 p.2 p.1.routed k.2))
    (l : List (WindowRec × Nat)) (c : Composer) : l.foldl step c = c.addCalls (callsOf f l) := by
  induction l generalizing c with
  | nil => rfl
  | cons p l ih =>
    rw [List.foldl_cons, ih, h]
    cases hp : f p with
    | none => rw [callsOf_none l hp, Option.elim_none]
    | some k => rw [callsOf_some l hp, Option.elim_some]; rfl

/-! The edits a change of a source calls for (R98 to R100). -/

theorem lossEdit_eq (i : Nat) {entered : SourceState} (h : entered = .absent ∨ entered = .overclass) (w : WindowRec) :
    editCall i entered w = (lossEdit i w).map (fun cause => (.substitute, cause)) := by
  unfold editCall lossEdit
  rw [if_pos h]
  cases w.visible <;> by_cases hr : w.routed = i <;> by_cases hs : w.shown = i <;> cases w.sub <;> simp [hr, hs]

theorem returnEdit_eq (i : Nat) (w : WindowRec) :
    editCall i .locked w = if returnEdit i w = true then some (.restore, .sourceReturn) else none := by
  unfold editCall returnEdit
  cases w.visible <;> simp [and_assoc]

theorem editCall_none (i : Nat) {entered : SourceState} (h : entered ≠ .absent ∧ entered ≠ .overclass ∧ entered ≠ .locked)
    (w : WindowRec) : editCall i entered w = none := by
  unfold editCall
  simp [h]

theorem Composer.sourceChanged_eq (c : Composer) (i : Nat) (new : SourceState) :
    c.sourceChanged i new = c.addCalls (callsOf (fun p => editCall i new p.1) (indexed c.live.windows)) := by
  unfold Composer.sourceChanged
  refine foldl_addCalls (fun c p => ?_) _ c
  cases new with
  | absent =>
    rw [lossEdit_eq i (.inl rfl)]
    cases h : lossEdit i p.1 <;> simp
  | overclass =>
    rw [lossEdit_eq i (.inr rfl)]
    cases h : lossEdit i p.1 <;> simp
  | locked =>
    rw [returnEdit_eq]
    cases h : returnEdit i p.1 <;> simp
  | disabled => rw [editCall_none i (by decide)]; rfl
  | acquiring => rw [editCall_none i (by decide)]; rfl
  | lossHold => rw [editCall_none i (by decide)]; rfl

/-! The check that follows a commit (R101). -/

theorem checkEdit_eq (st : Nat → SourceState) (pending : List Edit) (w : WindowRec) (i : Nat) :
    checkCall st pending w i =
      (checkEdit st w).filter (fun k => !pending.any (fun e => e.window == i && decide (e.kind = k))) := by
  have lost (x : SourceState) : x.lost = true ↔ x = .absent ∨ x = .overclass ∨ x = .disabled := by
    cases x <;> decide
  unfold checkCall checkEdit
  refine congrArg (Option.filter _) ?_
  cases hv : w.visible with
  | false => simp
  | true => simp [lost, and_assoc]

/-- The check reads of the edits that stand only those for its window. -/
theorem checkCall_addEdit (st : Nat → SourceState) (c : Composer) (k : EditKind) {j : Nat} (r : Nat) (cause : EditCause)
    (w : WindowRec) {i : Nat} (h : i ≠ j) :
    checkCall st (c.addEdit k j r cause).pendingEdits w i = checkCall st c.pendingEdits w i := by
  have same (kind : EditKind) : (c.addEdit k j r cause).pendingEdits.any (fun e => e.window == i && decide (e.kind = kind)) =
      c.pendingEdits.any (fun e => e.window == i && decide (e.kind = kind)) := by
    unfold Composer.addEdit
    rw [List.any_append, List.any_filter, List.any_cons, List.any_nil, Bool.or_false, beq_false_of_ne (Ne.symm h),
      Bool.false_and, Bool.or_false]
    refine List.any_congr rfl fun e => ?_
    by_cases he : e.window = i
    · rw [he, bne_iff_ne.mpr h, Bool.true_and]
    · rw [beq_false_of_ne he, Bool.false_and, Bool.and_false]
  rw [checkEdit_eq, checkEdit_eq]
  simp only [same]

/-- The edits the check calls for, given those that stand. -/
def checkCallsOf (st : Nat → SourceState) (pending : List Edit) (l : List (WindowRec × Nat)) : List EditCall :=
  callsOf (fun p => (checkCall st pending p.1 p.2).map (fun k => (k, .commitCheck))) l

theorem foldl_checkCalls {st : Nat → SourceState} {step : Composer → WindowRec × Nat → Composer}
    (h : ∀ c p, step c p = (checkCall st c.pendingEdits p.1 p.2).elim c (fun k => c.addEdit k p.2 p.1.routed .commitCheck))
    {l : List (WindowRec × Nat)} (once : (l.map (·.2)).Nodup) (c : Composer) :
    l.foldl step c = c.addCalls (checkCallsOf st c.pendingEdits l) := by
  induction l generalizing c with
  | nil => rfl
  | cons p l ih =>
    obtain ⟨new, rest⟩ := List.nodup_cons.mp once
    rw [List.foldl_cons, ih rest, h]
    unfold checkCallsOf
    cases hp : checkCall st c.pendingEdits p.1 p.2 with
    | none => rw [callsOf_none l (by rw [hp]; rfl), Option.elim_none]
    | some k =>
      rw [callsOf_some l (by rw [hp]; rfl), Option.elim_some]
      refine congrArg (Composer.addCalls (c.addEdit k p.2 p.1.routed .commitCheck)) (List.filterMap_congr fun q hq => ?_)
      dsimp only
      rw [checkCall_addEdit]
      rintro eq
      exact new (List.mem_map.mpr ⟨q, hq, eq⟩)

theorem State.checkCalls_eq (t : State) (pending : List Edit) :
    checkCallsOf (fun k => (t.source k).state) pending (indexed t.composer.live.windows) =
      (t.checkCalls pending).map (fun p => (p.1, p.2.1, p.2.2, .commitCheck)) := by
  simp only [checkCallsOf, callsOf, State.checkCalls, indexed, List.map_filterMap, Option.map_map, Function.comp_def]

/-- The check after a commit leaves the pending list as R101 says. -/
theorem State.commitCheck_edits (s : State) : EditsAfterCheck s.composer.pendingEdits s.composer.editSerial s.commitCheck := by
  have added : s.commitCheck.composer = s.composer.addCalls
      (checkCallsOf (fun k => (s.source k).state) s.composer.pendingEdits (indexed s.composer.live.windows)) := by
    refine foldl_checkCalls (fun c p => ?_) (indexed_once _) s.composer
    rw [checkEdit_eq]
    cases checkEdit (fun k => (s.source k).state) p.1 with
    | none => rfl
    | some k => cases hp : c.pendingEdits.any (fun e => e.window == p.2 && decide (e.kind = k)) <;> simp [Option.filter, hp]
  have once : ((checkCallsOf (fun k => (s.source k).state) s.composer.pendingEdits (indexed s.composer.live.windows)).map
      (·.1)).Nodup := callsOf_once _ (indexed_once _)
  rw [Composer.addCalls_eq _ once] at added
  have live : s.commitCheck.composer.live = s.composer.live := by rw [added]
  have calls := State.checkCalls_eq s.commitCheck s.composer.pendingEdits
  rw [live] at calls
  change checkCallsOf (fun k => (s.source k).state) _ _ = _ at calls
  rw [calls] at added
  constructor
  · rw [added]
    dsimp only
    rw [List.map_map, List.zipIdx_map, List.map_map]
    rfl
  · rw [added]
    dsimp only
    rw [List.length_map]

/-! The record of a source replaced (R90, R93). -/

/-- A record with the same published fields. -/
theorem State.setSource_noted (s : State) (i : Nat) {r : SourceRec} (h : r.published = (s.source i).published) :
    s.setSource i r = { s with sources := s.sources.set i r } := by
  unfold State.setSource State.andThen
  exact if_neg (by simp [h])

theorem State.setSource_report (s : State) (i : Nat) (r : SourceRec) : (s.setSource i r).report = s.report := by
  unfold State.setSource State.andThen
  dsimp only
  split <;> rfl

theorem State.setSource_asks (s : State) (i : Nat) {r : SourceRec} (h : r.published ≠ (s.source i).published) :
    AsksRewrite i s (s.setSource i r) := by
  unfold State.setSource State.andThen AsksRewrite
  dsimp only
  change State.status (if (s.map.isSome && decide (r.published ≠ (s.source i).published)) = true then _ else _) = _
  rw [decide_eq_true h, Bool.and_true]
  cases hm : s.map with
  | none => rfl
  | some m =>
    rw [if_pos (by rfl), if_neg (by simp)]
    simp [StatusWriter.askSource, StatusWriter.setAside, State.modStatus]

theorem State.source_set (s : State) {i : Nat} (hi : i < s.sources.length) (r : SourceRec) (j : Nat) :
    (s.sources.set i r).getD j SourceRec.external = if j = i then r else s.source j := by
  by_cases h : j = i
  · rw [if_pos h, h]
    simp [List.getD, hi]
  · rw [if_neg h, State.source]
    simp [List.getD, List.getElem?_set_ne (Ne.symm h)]

theorem State.changeSource_eq (s : State) (i : Nat) (r : SourceRec) (g a : Bool) : s.changeSource i r g a =
    ((s.setSource i r).setComposer (s.composer.sourceChanged i r.state)).handEvent
      (sourceEvent i (s.source i).state r.state r.measuredClass g a) := by
  unfold State.changeSource State.andThen
  dsimp only
  rw [(s.setSource_only i r).composer_eq]

/-- The state before the event of a change is handed on. -/
theorem State.changeSource_handed (s : State) (i : Nat) (r : SourceRec) (g a : Bool) : Hands s (s.changeSource i r g a)
    [sourceEvent i (s.source i).state r.state r.measuredClass g a] (fun _ => false) := by
  rw [State.changeSource_eq]
  refine (State.handEvent_handed _ _).after ?_
  have frame := ((s.setSource_only i r).mono (k := [.sources, .status, .composer]) (by decide)).next
    (State.setComposer_only _ (s.composer.sourceChanged i r.state)) (by decide)
  refine .of_frame frame ?_ ?_ ?_ ?_
  · exact Report.eventPart_congr frame.rings_eq
  · rw [frame.modes_eq]
  · rw [frame.modes_eq]
  · rw [setComposer_composer, (Composer.layouts_eq (s.composer.sourceChanged_layouts i r.state)).1]

/-- A change of the state of a source (R90, R91). -/
theorem State.changeSource_changes (s : State) (i : Nat) {r : SourceRec} (g a : Bool) (h : r.state ≠ (s.source i).state) :
    ChangesSource i r [sourceEvent i (s.source i).state r.state r.measuredClass g a] s (s.changeSource i r g a) where
  sources := s.changeSource_sources i r g a
  edits := by
    rw [State.changeSource_eq, (State.handEvent_only _ _).composer_eq, setComposer_composer, Composer.sourceChanged_eq,
      Composer.addCalls_eq _ (callsOf_once _ (indexed_once _))]
    rfl
  events := (s.changeSource_handed i r g a).hands
  journal := by
    rw [State.changeSource_eq, State.handEvent_journal]
    exact congrArg Report.journalPart (s.setSource_report i r)
  publish := by
    have asks := s.setSource_asks i (r := r) (fun k => h (congrArg Prod.fst k))
    rw [State.changeSource_eq]
    exact ((State.handEvent_only _ _).status_eq).trans asks

/-- A change after what notes fields that are not published, or hands on events of its own. -/
theorem ChangesSource.after {i : Nat} {r : SourceRec} {es fs : List Event} (h : ChangesSource i r es u t)
    (k : Hands s u fs (fun _ => false)) (sets : SetsFlags u t) (sources : u.sources.set i r = s.sources.set i r)
    (composer : u.composer = s.composer) (journal : u.report.journalPart = s.report.journalPart)
    (status : u.status = s.status) : ChangesSource i r (fs ++ es) s t where
  sources := h.sources.trans sources
  edits := by
    have edits := h.edits
    unfold State.editCalls at edits ⊢
    rw [← composer]
    exact edits
  events := k.hands.trans h.events k.captured k.filters (k.sets.next sets).delivery
  journal := h.journal.trans journal
  publish := by
    have publish := h.publish
    rw [AsksRewrite, status, State.map, k.captured] at publish
    exact publish

/-- A change after what notes a record with the same published fields and hands on events. -/
theorem State.changeSource_after {i : Nat} {q r : SourceRec} {fs : List Event} (g a : Bool) (hi : i < s.sources.length)
    (noted : q.published = (s.source i).published) (h : r.state ≠ (s.source i).state) (k : Hands s u fs (fun _ => false))
    (sources : u.sources = s.sources.set i q) (composer : u.composer = s.composer)
    (journal : u.report.journalPart = s.report.journalPart) (status : u.status = s.status) :
    ChangesSource i r (fs ++ [sourceEvent i (s.source i).state r.state r.measuredClass g a]) s (u.changeSource i r g a) := by
  have record : u.source i = q := by rw [State.source, sources, State.source_set _ hi, if_pos rfl]
  have state : q.state = (s.source i).state := congrArg Prod.fst noted
  have changes := State.changeSource_changes (s := u) i (r := r) g a (by rw [record, state]; exact h)
  rw [record, state] at changes
  refine changes.after k (State.changeSource_handed _ _ _ _ _).sets ?_ composer journal status
  rw [sources]
  exact List.set_set ..

theorem State.setSource_handed (s : State) (i : Nat) (r : SourceRec) : Hands s (s.setSource i r) [] (fun _ => false) :=
  have frame := s.setSource_only i r
  .of_frame frame (by rw [State.setSource_report]) (by rw [frame.modes_eq]) (by rw [frame.modes_eq])
    (by rw [frame.composer_eq])

/-- A change after the lane's own fields have been noted. -/
theorem State.changeSource_noted {i : Nat} {q r : SourceRec} (g a : Bool) (hi : i < s.sources.length)
    (noted : q.published = (s.source i).published) (h : r.state ≠ (s.source i).state) :
    ChangesSource i r [sourceEvent i (s.source i).state r.state r.measuredClass g a] s
      ((s.setSource i q).changeSource i r g a) :=
  State.changeSource_after (fs := []) g a hi noted h (s.setSource_handed i q) (s.setSource_sources i q)
    (s.setSource_only i q).composer_eq (by rw [State.setSource_report]) (by rw [State.setSource_noted s i noted])

end Sys2Proof.Machine
end

section
-- Many short proofs follow one another: taken one at a time they need one thread's memory, not one's for each.
set_option Elab.async false
/-! PROOF. The sources: activity, frames and timeouts (R78 to R92). -/

namespace Sys2Proof.Machine

variable {s t u : State}

theorem lane_lt {l : List SourceRec} (lane : Fin 40) (h : l.length = Config.allSources) : lane.val < l.length := by
  rw [h]
  exact lane.isLt.trans (by decide)

/-! A lane's own fields noted. -/

/-- A record that differs in fields that are not published only. -/
theorem State.setSource_notes (s : State) (i : Nat) {r : SourceRec} (h : r.published = (s.source i).published) :
    (s.setSource i r).sources = s.sources.set i r ∧ OnlyChanges [.sources] s (s.setSource i r) := by
  rw [s.setSource_noted i h]
  exact ⟨rfl, s.setSources_only _⟩

theorem State.setSource_source {i : Nat} (hi : i < s.sources.length) (r : SourceRec) : (s.setSource i r).source i = r := by
  rw [State.source, State.setSource_sources, State.source_set _ hi, if_pos rfl]

theorem State.changeSource_parts (s : State) (i : Nat) (r : SourceRec) (g a : Bool) :
    OnlyChanges sourceParts s (s.changeSource i r g a) := (s.changeSource_only i r g a).mono (by decide)

/-- A record noted, and then a change of its state. -/
theorem State.changeSource_afterNote {i : Nat} {q r : SourceRec} (g : Bool) (hi : i < s.sources.length)
    (noted : q.published = (s.source i).published) (h : r.state ≠ (s.source i).state) :
    ChangesSource i r [changeEvent i (s.source i) r g] s ((s.setSource i q).changeSource i r g false) ∧
      OnlyChanges sourceParts s ((s.setSource i q).changeSource i r g false) :=
  ⟨State.changeSource_noted g false hi noted h,
    ((s.setSource_only i q).mono (by decide)).trans ((State.changeSource_parts _ _ _ _ _).mono (by decide))⟩

/-! The loss of a signal (R84 to R86). -/

theorem SourceRec.cleared_eq (r : SourceRec) (state : SourceState) (n : Nat) (c : Option Measurement) :
    r.cleared state n c = r.without state n c := rfl

theorem SourceRec.afterLoss_state {r q : SourceRec} {now : Time} (h : r.afterLoss now = some q) : q.state ≠ r.state := by
  unfold SourceRec.afterLoss at h
  cases hs : r.state with
  | acquiring | overclass =>
    rw [hs] at h
    cases h
    exact nofun
  | locked =>
    rw [hs] at h
    cases h
    split <;> exact nofun
  | disabled | absent | lossHold =>
    rw [hs] at h
    cases h

/-- What a loss does is the record's own rule. -/
theorem State.sourceLoss_eq (s : State) (i : Nat) : s.sourceLoss i =
    ((s.source i).afterLoss s.now).elim s (fun r => s.changeSource i r false false) := by
  unfold State.sourceLoss SourceRec.afterLoss
  dsimp only
  cases (s.source i).state with
  | locked =>
    unfold State.loseLocked
    by_cases h : (s.source i).settings.lossHold = 0
    · simp only [h, if_true]
      rfl
    · simp only [h, if_false]
      rfl
  | disabled | absent | lossHold => rfl
  | acquiring | overclass => rfl

/-! Activity (R78, R83 to R89). -/

/-- The record once a change of its lane's activity is noted (R78). -/
def SourceRec.withLane (r : SourceRec) (activity : Bool) (watchFrom : Time) : SourceRec :=
  { r with activity := activity, framed := false, watchFrom := watchFrom }

theorem State.noteLane_eq (s : State) (i : Nat) (a : Bool) (w : Time) :
    s.noteLane i a w = s.setSource i ((s.source i).withLane a w) := rfl

theorem exec_activityArrival {lane : Fin 40} (hi : lane.val < s.sources.length) (ha : (s.source lane).activity = false) :
    exec (.activityArrival lane) s = .next (
      let noted := s.setSource lane ((s.source lane).withLane true s.now)
      if (s.source lane).state = .absent
      then noted.changeSource lane (((s.source lane).withLane true s.now).without .acquiring 0 none) false false
      else noted) := by
  refine (if_neg (by rw [ha]; decide) : execActivityArrival lane s = _).trans ?_
  unfold State.andThen
  dsimp only
  rw [State.noteLane_eq, State.setSource_source hi]
  have state : ((s.source lane).withLane true s.now).state = (s.source lane).state := rfl
  rw [state]
  cases (s.source lane).state <;> rfl

theorem exec_activityLoss {lane : Fin 40} (hi : lane.val < s.sources.length) (ha : (s.source lane).activity = true) :
    exec (.activityLoss lane) s = .next (
      let q := (s.source lane).withLane false (s.source lane).watchFrom
      (q.afterLoss s.now).elim (s.setSource lane q) (fun r => (s.setSource lane q).changeSource lane r false false)) := by
  refine (if_pos ha : execActivityLoss lane s = _).trans ?_
  rw [State.noteLane_eq, State.sourceLoss_eq, State.setSource_source hi, (s.setSource_only _ _).now_eq]

/-- Settles O52. -/
theorem activityMovesSources : Obligations.ActivityMovesSources := by
  intro s lane hl
  have hi : lane.val < s.sources.length := lane_lt lane hl
  refine ⟨fun ha => ⟨_, exec_activityArrival hi ha, ?_⟩, fun ha => if_pos ha, fun ha => ⟨_, exec_activityLoss hi ha, ?_⟩,
    fun ha => if_neg (by rw [ha]; decide)⟩
  · dsimp only
    by_cases hs : (s.source lane).state = .absent
    · rw [if_pos hs, if_pos hs]
      exact State.changeSource_afterNote false hi rfl (by rw [hs]; exact nofun)
    · rw [if_neg hs, if_neg hs]
      exact s.setSource_notes lane rfl
  · dsimp only
    split
    · next q hq =>
      have changed : ((s.source lane).withLane false (s.source lane).watchFrom).afterLoss s.now = some q := hq
      rw [changed]
      have moved : q.state ≠ (s.source lane).state :=
        SourceRec.afterLoss_state (r := (s.source lane).withLane false (s.source lane).watchFrom) changed
      exact State.changeSource_afterNote false hi rfl moved
    · next hq =>
      have stays : ((s.source lane).withLane false (s.source lane).watchFrom).afterLoss s.now = none := hq
      rw [stays]
      exact s.setSource_notes lane rfl

/-! Timeouts (R86, R88). -/

/-- A change of a source's state at the time when it is due. -/
theorem State.changeSource_reached (n : Time) {i : Nat} {r : SourceRec} (h : r.state ≠ (s.source i).state) :
    ChangesSource i r [changeEvent i (s.source i) r false] s ((s.reach n).changeSource i r false false) :=
  (State.changeSource_changes (s := s.reach n) i false false h).after (fs := [])
    (.of_frame (s.reach_only n) rfl rfl rfl rfl) (State.changeSource_handed _ _ _ _ _).sets rfl rfl rfl rfl

theorem State.changeSource_reached_parts (s : State) (n : Time) (i : Nat) (r : SourceRec) :
    OnlyChanges (.now :: sourceParts) s ((s.reach n).changeSource i r false false) :=
  ((s.reach_only n).mono (by decide)).trans ((State.changeSource_parts _ _ _ _ _).mono (by decide))

/-- A record replaced at the time when it is due, its rewrite asked for where what is published changes. -/
theorem State.setSource_reached (n : Time) {i : Nat} {r : SourceRec} : 
    (r.published = (s.source i).published → OnlyChanges [.now, .sources] s ((s.reach n).setSource i r)) ∧
    (r.published ≠ (s.source i).published → AsksRewrite i s ((s.reach n).setSource i r) ∧
      OnlyChanges [.now, .sources, .status] s ((s.reach n).setSource i r)) := by
  refine ⟨fun h => ?_, fun h => ⟨State.setSource_asks (s := s.reach n) i h, ?_⟩⟩
  · exact ((s.reach_only n).mono (by decide)).trans ((State.setSource_notes (s.reach n) i h).2.mono (by decide))
  · exact ((s.reach_only n).mono (by decide)).trans ((State.setSource_only (s.reach n) i r).mono (by decide))

theorem exec_frameTimeout {lane : Fin 40} (ha : (s.source lane).activity = true) :
    exec (.frameTimeout lane) s = .next (
      let due := (s.source lane).watchFrom + 10000000
      match (s.source lane).state with
        | .acquiring => (s.reach due).setSource lane
            { s.source lane with stable := 0, candidate := none, watchFrom := due }
        | .locked | .overclass => (s.reach due).sourceLoss lane
        | .disabled | .absent | .lossHold => s) := by
  refine (if_pos ha : execFrameTimeout lane s = _).trans ?_
  unfold State.andThen
  dsimp only
  cases (s.source lane).state <;> rfl

theorem exec_frameTimeout_acquiring {lane : Fin 40} (ha : (s.source lane).activity = true)
    (hs : (s.source lane).state = .acquiring) : exec (.frameTimeout lane) s =
      .next ((s.reach ((s.source lane).watchFrom + 10000000)).setSource lane { s.source lane with
        stable := 0, candidate := none, watchFrom := (s.source lane).watchFrom + 10000000 }) := by
  rw [exec_frameTimeout ha]
  dsimp only
  split
  · rfl
  all_goals next other => rw [hs] at other; cases other

theorem exec_frameTimeout_lost {lane : Fin 40} (ha : (s.source lane).activity = true)
    (hs : (s.source lane).state = .locked ∨ (s.source lane).state = .overclass) : exec (.frameTimeout lane) s =
      .next ((s.reach ((s.source lane).watchFrom + 10000000)).sourceLoss lane) := by
  rw [exec_frameTimeout ha]
  rcases hs with hs | hs <;> rw [hs]

theorem exec_frameTimeout_idle {lane : Fin 40} (h : (s.source lane).activity = false ∨ (s.source lane).state = .disabled ∨
    (s.source lane).state = .absent ∨ (s.source lane).state = .lossHold) : exec (.frameTimeout lane) s = .next s := by
  cases ha : (s.source lane).activity with
  | false => exact (if_neg (by rw [ha]; decide) : execFrameTimeout lane s = _)
  | true =>
    rw [exec_frameTimeout ha]
    rcases h with h | h | h | h
    · rw [ha] at h
      cases h
    all_goals rw [h]

/-- Settles O54. -/
theorem timeoutsMoveSources : Obligations.TimeoutsMoveSources := by
  intro s lane hl
  have hi : lane.val < s.sources.length := lane_lt lane hl
  refine ⟨fun ha hs => ⟨_, exec_frameTimeout_acquiring ha hs, ?_⟩, fun ha hs => ?_,
    exec_frameTimeout_idle, fun e hs he => ?_, fun h => ?_⟩
  · have reached := State.setSource_reached (s := s) ((s.source lane).watchFrom + 10000000) (i := lane)
      (r := { s.source lane with stable := 0, candidate := none, watchFrom := (s.source lane).watchFrom + 10000000 })
    refine ⟨(State.setSource_only _ _ _).now_eq, by rw [State.setSource_sources]; rfl, ?_⟩
    by_cases hn : (s.source lane).stable = 0
    · rw [if_pos hn]
      exact reached.1 (by simp [SourceRec.published, hn])
    · rw [if_neg hn]
      exact reached.2 (by simpa [SourceRec.published] using Ne.symm hn)
  · have lost : ∃ q, (s.source lane).afterLoss (max s.now ((s.source lane).watchFrom + 10000000)) = some q := by
      rcases hs with hs | hs <;> exact ⟨_, by rw [SourceRec.afterLoss, hs]⟩
    obtain ⟨q, hq⟩ := lost
    have done : exec (.frameTimeout lane) s = .next
        ((s.reach ((s.source lane).watchFrom + 10000000)).changeSource lane q false false) := by
      rw [exec_frameTimeout_lost ha hs, State.sourceLoss_eq]
      change Host.Outcome.next (((s.source lane).afterLoss (max s.now ((s.source lane).watchFrom + 10000000))).elim _ _) = _
      rw [hq]
      rfl
    refine ⟨_, done, (State.changeSource_only _ _ _ _ _).now_eq, fun r hr => ?_, s.changeSource_reached_parts _ _ _⟩
    cases hq.symm.trans hr
    exact State.changeSource_reached _ (SourceRec.afterLoss_state hq)
  · refine ⟨(s.reach e).changeSource lane (s.source lane).holdExpired false false, ?_, ?_,
      State.changeSource_reached e (by rw [hs]; exact nofun), s.changeSource_reached_parts e _ _⟩
    · change execLossHoldExpiry lane s = _
      unfold execLossHoldExpiry
      dsimp only
      rw [hs, he]
      rfl
    · exact (State.changeSource_only _ _ _ _ _).now_eq
  · change execLossHoldExpiry lane s = _
    unfold execLossHoldExpiry
    dsimp only
    split
    · next hs he => exact h.elim (absurd hs) (fun k => by rw [k] at he; cases he)
    · rfl

end Sys2Proof.Machine
end

section
-- Many short proofs follow one another: taken one at a time they need one thread's memory, not one's for each.
set_option Elab.async false
/-! PROOF. The frames of a source (R78 to R81, R83 to R87, R89, R92). -/

namespace Sys2Proof.Machine

variable {s t u : State}

/-! What frames are compared by (R79). -/

theorem periodsMatch_iff (a b : Option Nat) : periodsMatch a b = true ↔
    ∀ p q, a = some p → b = some q → 100 * (p - q) ≤ p ∧ 100 * (q - p) ≤ p := by
  unfold periodsMatch
  cases a with
  | none => simp
  | some p =>
    cases b with
    | none => simp
    | some q =>
      simp only [decide_eq_true_eq, Option.some.injEq]
      constructor
      · rintro h _ _ rfl rfl
        omega
      · intro h
        have := h p q rfl rfl
        omega

theorem candidateMatches_iff (c m : Measurement) : candidateMatches c m = true ↔ c.width = m.width ∧ c.height = m.height ∧
    c.scan = m.scan ∧ c.tag = m.tag ∧
      ∀ p q, c.period = some p → m.period = some q → 100 * (p - q) ≤ p ∧ 100 * (q - p) ≤ p := by
  simp only [candidateMatches, Bool.and_eq_true, beq_iff_eq, decide_eq_true_eq, periodsMatch_iff, and_assoc]

theorem Format.rateMatches_iff (f : Format) (p : Nat) : f.rateMatches (some p) = true ↔
    99 * 1000000000 ≤ 100 * (p * f.rate) ∧ 100 * (p * f.rate) ≤ 101 * 1000000000 := by
  simp only [Format.rateMatches, decide_eq_true_eq]
  omega

theorem SourceRec.frameMatches_iff (r : SourceRec) (m : Measurement) : r.frameMatches m = true ↔
    ∃ f, r.qualified = some f ∧ f.width = m.width.toNat ∧ f.height = m.height.toNat ∧ f.scan = m.scan ∧ f.tag = m.tag ∧
      f.rateMatches m.period = true := by
  unfold SourceRec.frameMatches
  cases r.qualified with
  | none => simp
  | some f => simp [Format.matchesFrame, Format.sizeMatches, and_assoc]

theorem measuredClassOf_outside {w h : Nat} (rate : Nat) (out : w < 64 ∨ 4096 < w ∨ h < 36 ∨ 2160 < h) :
    measuredClassOf w h rate = 8 := if_pos out

theorem measuredClassOf_inside {w h : Nat} (rate : Nat) (hw : 64 ≤ w ∧ w ≤ 4096) (hh : 36 ≤ h ∧ h ≤ 2160) :
    measuredClassOf w h rate = if w * h * rate ≤ 75000000000 then 1 else if w * h * rate ≤ 150000000000 then 2
      else if w * h * rate ≤ 600000000000 then 4 else 8 := if_neg (by omega)

/-! A frame noted, and what it does (R83 to R87). -/

/-- The record once a frame is noted (R24, R78, R88). -/
def SourceRec.withFrame (r : SourceRec) (now : Time) (scan : Scan) : SourceRec :=
  { r with framed := true, watchFrom := now, latest := some (r.nextFrame scan) }

theorem exec_frameArrival {lane : Fin 40} {m : Measurement} (ha : (s.source lane).activity = true)
    (hm : (s.source lane).framed = false ∨ m.period ≠ none) : exec (.frameArrival lane m) s =
      .next ((s.setSource lane ((s.source lane).withFrame s.now m.scan)).sourceFrame lane ((s.source lane).measures m)) := by
  refine (if_pos ?_ : execFrameArrival lane m s = _)
  rcases hm with hm | hm
  · simp [SourceRec.reports, ha, hm]
  · simp [SourceRec.reports, ha, Option.isSome_iff_ne_none.mpr hm]

theorem exec_frameArrival_idle {lane : Fin 40} {m : Measurement}
    (h : (s.source lane).activity = false ∨ ((s.source lane).framed = true ∧ m.period = none)) :
    exec (.frameArrival lane m) s = .next s := by
  refine (if_neg ?_ : execFrameArrival lane m s = _)
  rcases h with h | ⟨hf, hp⟩
  · simp [SourceRec.reports, h]
  · simp [SourceRec.reports, hf, hp]

theorem State.useRate_eq (s : State) (m : Measurement) :
    s.useRate m = { s with freeIdx := if m.period = none ∨ m.period = some 0 then s.freeIdx + 1 else s.freeIdx } := by
  unfold State.useRate
  cases m.period with
  | none => rfl
  | some p => cases p <;> rfl

section frame

variable {i : Nat} (hi : i < s.sources.length) {q : SourceRec} (noted : q.published = (s.source i).published)
  (m : Measurement)

include hi noted

/-- Qualification starts again (R83, R85 to R87). -/
theorem State.requalify_restarts (h : (s.source i).state ≠ .acquiring) :
    ChangesSource i (q.without .acquiring 1 (some m)) [changeEvent i (s.source i) (q.without .acquiring 1 (some m)) false] s
        ((s.setSource i q).requalify i m) ∧ OnlyChanges sourceParts s ((s.setSource i q).requalify i m) := by
  unfold State.requalify
  rw [State.setSource_source hi]
  exact State.changeSource_afterNote false hi noted (Ne.symm h)

/-- Events handed on, and then a change. -/
theorem State.changeSource_afterEvent (e : Event) {r : SourceRec} (h : r.state ≠ (s.source i).state) :
    ChangesSource i r [e, changeEvent i (s.source i) r false] s
        (((s.setSource i q).handEvent e).changeSource i r false false) ∧
      OnlyChanges sourceParts s (((s.setSource i q).handEvent e).changeSource i r false false) := by
  have note := s.setSource_only i q
  have hand := (s.setSource i q).handEvent_only e
  refine ⟨State.changeSource_after (fs := [e]) false false hi noted h
      ((State.handEvent_handed _ e).after (s.setSource_handed i q)) (hand.sources_eq.trans (s.setSource_sources i q))
      (hand.composer_eq.trans note.composer_eq) ?_ ?_,
    ((note.mono (by decide)).trans (hand.mono (by decide))).trans ((State.changeSource_parts _ _ _ _ _).mono (by decide))⟩
  · rw [State.handEvent_journal, State.setSource_report]
  · rw [hand.status_eq, State.setSource_noted s i noted]

/-- A change after a free value has been used, or none (R80). -/
theorem State.changeSource_afterRate {r : SourceRec} (h : r.state ≠ (s.source i).state) :
    ChangesSource i r [changeEvent i (s.source i) r false] s
        (((s.setSource i q).useRate m).changeSource i r false false) ∧
      OnlyChanges (.freeIdx :: sourceParts) s (((s.setSource i q).useRate m).changeSource i r false false) := by
  have note := s.setSource_only i q
  rw [State.useRate_eq]
  have used := State.setFreeIdx_only (s.setSource i q)
    (if m.period = none ∨ m.period = some 0 then (s.setSource i q).freeIdx + 1 else (s.setSource i q).freeIdx)
  refine ⟨State.changeSource_after (fs := []) false false hi noted h
      ((Hands.of_frame used rfl rfl rfl rfl).after (s.setSource_handed i q)) (s.setSource_sources i q) note.composer_eq ?_ ?_,
    ((note.mono (by decide)).trans (used.mono (by decide))).trans ((State.changeSource_parts _ _ _ _ _).mono (by decide))⟩
  · exact congrArg Report.journalPart (s.setSource_report i q)
  · rw [State.setSource_noted s i noted]

/-- A frame that is counted (R84). -/
theorem State.setSource_counts {r : SourceRec} : 
    ((s.setSource i q).setSource i r).sources = s.sources.set i r ∧
    (r.published = (s.source i).published → OnlyChanges [.sources] s ((s.setSource i q).setSource i r)) ∧
    (r.published ≠ (s.source i).published → AsksRewrite i s ((s.setSource i q).setSource i r) ∧
      OnlyChanges [.sources, .status] s ((s.setSource i q).setSource i r)) := by
  have first := s.setSource_notes i noted
  have record := State.setSource_source hi q
  refine ⟨?_, fun h => ?_, fun h => ⟨?_, ?_⟩⟩
  · rw [State.setSource_sources, State.setSource_sources]
    exact List.set_set ..
  · exact first.2.trans (State.setSource_notes _ i (by rw [record, h, noted])).2
  · have asks := State.setSource_asks (s := s.setSource i q) i (r := r) (by rw [record, noted]; exact h)
    rw [State.setSource_noted s i noted] at asks ⊢
    exact asks
  · exact (first.2.mono (by decide)).trans (State.setSource_only _ i r)

omit noted

/-- A frame that changes nothing but what is noted (R83, R85, R87). -/
theorem State.sourceFrame_noted (h : q.state = .disabled ∨
    ((q.state = .locked ∨ q.state = .overclass) ∧ q.frameMatches m = true)) :
    (s.setSource i q).sourceFrame i m = s.setSource i q := by
  unfold State.sourceFrame
  rw [State.setSource_source hi]
  dsimp only
  rcases h with h | ⟨h | h, match_⟩
  · rw [h]
  · rw [h]
    exact if_pos match_
  · rw [h]
    exact if_pos match_

/-- A frame that starts qualification again (R83, R85 to R87). -/
theorem State.sourceFrame_restarts (h : q.state = .absent ∨
    ((q.state = .overclass ∨ q.state = .lossHold ∨ (q.state = .locked ∧ q.qualified = none)) ∧ q.frameMatches m = false)) :
    (s.setSource i q).sourceFrame i m = (s.setSource i q).requalify i m := by
  unfold State.sourceFrame
  rw [State.setSource_source hi]
  dsimp only
  rcases h with h | ⟨h | h | ⟨h, none⟩, no⟩
  · rw [h]
  · rw [h, no]
    rfl
  · rw [h, no]
    rfl
  · rw [h, no, none]
    rfl

/-- A frame in LOCKED that differs from the qualified format (R85, R92). -/
theorem State.sourceFrame_format {f : Format} (h : q.state = .locked) (hf : q.qualified = some f)
    (no : q.frameMatches m = false) : (s.setSource i q).sourceFrame i m =
      ((s.setSource i q).handEvent (formatEventOf i f m)).requalify i m := by
  unfold State.sourceFrame
  rw [State.setSource_source hi]
  dsimp only
  rw [h, no, hf]
  rfl

/-- A matching frame ends LOSS_HOLD (R86). -/
theorem State.sourceFrame_returns (h : q.state = .lossHold) (match_ : q.frameMatches m = true) :
    (s.setSource i q).sourceFrame i m =
      (s.setSource i q).changeSource i { q with state := .locked, holdEnd := none } true false := by
  unfold State.sourceFrame
  rw [State.setSource_source hi]
  dsimp only
  rw [h]
  exact if_pos match_

/-- A frame in ACQUIRING (R84). -/
theorem State.sourceFrame_acquiring (h : q.state = .acquiring) : (s.setSource i q).sourceFrame i m =
    if 3 ≤ q.stableAfter m then (s.setSource i q).qualify i m
    else (s.setSource i q).setSource i { q with stable := q.stableAfter m, candidate := some m } := by
  have counts : (s.setSource i q).sourceFrame i m = (s.setSource i q).acquireFrame i m := by
    unfold State.sourceFrame
    rw [State.setSource_source hi]
    dsimp only
    rw [h]
  rw [counts, State.acquireFrame_eq, State.setSource_source hi]

/-- The third matching frame qualifies the source (R80, R81, R84). -/
theorem State.qualify_eq : (s.setSource i q).qualify i m = ((s.setSource i q).useRate m).changeSource i
    (q.qualifiedBy m ((s.setSource i q).qualifyingRate m)) false false := by
  have record : ((s.setSource i q).useRate m).source i = q := by
    have same : ((s.setSource i q).useRate m).sources = (s.setSource i q).sources := by
      unfold State.useRate
      split <;> rfl
    rw [State.source, same]
    exact State.setSource_source hi q
  unfold State.qualify State.andThen
  dsimp only
  rw [record]
  unfold SourceRec.qualifiedBy
  dsimp only
  split <;> rfl

end frame

theorem State.qualifyingRate_stated (s : State) {m : Measurement} {p : Nat} (h : m.period = some p) (hp : 0 < p) :
    s.qualifyingRate m = (2000000000 + p) / (2 * p) := by
  unfold State.qualifyingRate
  obtain ⟨k, rfl⟩ := Nat.exists_eq_succ_of_ne_zero (Nat.pos_iff_ne_zero.mp hp)
  rw [h]
  rfl

theorem SourceRec.qualifiedBy_state (r : SourceRec) (m : Measurement) (rate : Nat) :
    (r.qualifiedBy m rate).state ≠ .acquiring := by
  unfold SourceRec.qualifiedBy
  dsimp only
  split <;> exact nofun

/-- Settles O53. -/
theorem frameArrivalMovesSources : Obligations.FrameArrivalMovesSources := by
  refine ⟨fun s lane reported hl => ?_, candidateMatches_iff, fun f p => ⟨rfl, f.rateMatches_iff p⟩,
    SourceRec.frameMatches_iff, fun w h rate => ⟨measuredClassOf_outside rate, fun h1 h2 h3 h4 => ?_⟩, by decide⟩
  · have hi : lane.val < s.sources.length := lane_lt lane hl
    refine ⟨fun ha hm => ⟨_, exec_frameArrival ha hm, ?_⟩, exec_frameArrival_idle⟩
    have noted : ((s.source lane).withFrame s.now reported.scan).published = (s.source lane).published := rfl
    have state : ((s.source lane).withFrame s.now reported.scan).state = (s.source lane).state := rfl
    dsimp only
    generalize hm : (s.source lane).measures reported = m
    have meant : (if (s.source lane).framed = true then reported else { reported with period := none }) = m := hm
    rw [meant]
    split
    · next hs =>
      rw [State.sourceFrame_noted hi m (.inl (state.trans hs))]
      exact s.setSource_notes lane noted
    · next hs =>
      rw [State.sourceFrame_restarts hi m (.inl (state.trans hs))]
      exact State.requalify_restarts hi noted m (by rw [hs]; exact nofun)
    · next hs =>
      have counts : ((s.source lane).withFrame s.now reported.scan).stableAfter m = (s.source lane).stableAfter m := rfl
      rw [State.sourceFrame_acquiring hi m (state.trans hs), counts]
      by_cases few : (s.source lane).stableAfter m < 3
      · rw [if_pos few, if_neg (by omega)]
        obtain ⟨sources, same, asks⟩ := State.setSource_counts hi noted (r := { (s.source lane).withFrame s.now reported.scan with
          stable := (s.source lane).stableAfter m, candidate := some m })
        refine ⟨sources, ?_⟩
        by_cases count : (s.source lane).stableAfter m = (s.source lane).stable
        · rw [if_pos count]
          exact same (by rw [← noted]; simp [SourceRec.published, SourceRec.withFrame, count])
        · rw [if_neg count]
          exact asks (by rw [← noted]; simp [SourceRec.published, SourceRec.withFrame, count])
      · rw [if_neg few, if_pos (by omega), State.qualify_eq hi]
        obtain ⟨changes, parts⟩ := State.changeSource_afterRate hi noted m
          (r := ((s.source lane).withFrame s.now reported.scan).qualifiedBy m
            ((s.setSource lane ((s.source lane).withFrame s.now reported.scan)).qualifyingRate m))
          (by rw [hs]; exact SourceRec.qualifiedBy_state _ _ _)
        refine ⟨_, fun p hp pos => State.qualifyingRate_stated _ hp pos, changes, ?_, parts⟩
        rw [(State.changeSource_only _ _ _ _ _).freeIdx_eq, State.useRate_eq, (s.setSource_only _ _).freeIdx_eq]
    · next hs =>
      by_cases match_ : (s.source lane).frameMatches m = true
      · rw [if_pos match_, State.sourceFrame_noted hi m (.inr ⟨.inl (state.trans hs), match_⟩)]
        exact s.setSource_notes lane noted
      · rw [if_neg match_]
        have no : (s.source lane).frameMatches m = false := Bool.eq_false_iff.mpr match_
        split
        · next hq =>
          rw [State.sourceFrame_restarts hi m (.inr ⟨.inr (.inr ⟨state.trans hs, hq⟩), no⟩)]
          exact State.requalify_restarts hi noted m (by rw [hs]; exact nofun)
        · next f hq =>
          rw [State.sourceFrame_format hi m (state.trans hs) hq no]
          have event : formatEventOf lane f m = formatEvent lane (decide (f.width ≠ m.width.toNat ∨ f.height ≠ m.height.toNat))
              (!f.rateMatches m.period) (decide (f.scan ≠ m.scan)) (decide (f.tag ≠ m.tag)) := by
            unfold formatEventOf Format.sizeMatches
            congr 1
            by_cases hw : f.width = m.width.toNat <;> by_cases hh : f.height = m.height.toNat <;> simp [hw, hh]
          have record : ((s.setSource lane ((s.source lane).withFrame s.now reported.scan)).handEvent
              (formatEventOf lane f m)).source lane = (s.source lane).withFrame s.now reported.scan := by
            rw [State.source, (State.handEvent_only _ _).sources_eq]
            exact State.setSource_source hi _
          rw [State.requalify, record, event]
          exact State.changeSource_afterEvent hi noted _ (by rw [hs]; exact nofun)
    · next hs =>
      by_cases match_ : (s.source lane).frameMatches m = true
      · rw [if_pos match_, State.sourceFrame_noted hi m (.inr ⟨.inr (state.trans hs), match_⟩)]
        exact s.setSource_notes lane noted
      · rw [if_neg match_, State.sourceFrame_restarts hi m (.inr ⟨.inl (state.trans hs), Bool.eq_false_iff.mpr match_⟩)]
        exact State.requalify_restarts hi noted m (by rw [hs]; exact nofun)
    · next hs =>
      by_cases match_ : (s.source lane).frameMatches m = true
      · rw [if_pos match_, State.sourceFrame_returns hi m (state.trans hs) match_]
        exact State.changeSource_afterNote true hi noted (by rw [hs]; exact nofun)
      · rw [if_neg match_, State.sourceFrame_restarts hi m (.inr ⟨.inr (.inl (state.trans hs)), Bool.eq_false_iff.mpr match_⟩)]
        exact State.requalify_restarts hi noted m (by rw [hs]; exact nofun)
  · rw [measuredClassOf_inside rate ⟨h1, h2⟩ ⟨h3, h4⟩]
    generalize w * h * rate = p
    refine ⟨fun h => if_pos h, fun h k => ?_, fun h k => ?_, fun h => ?_⟩
    · rw [if_neg (by omega), if_pos k]
    · rw [if_neg (by omega), if_neg (by omega), if_pos k]
    · rw [if_neg (by omega), if_neg (by omega), if_neg (by omega)]

end Sys2Proof.Machine
end

section
-- Many short proofs follow one another: taken one at a time they need one thread's memory, not one's for each.
set_option Elab.async false
/-! PROOF. The rules of a layout: which changes of a window table keep them (R5, R6, R14, R19, R20, R57, R103, R140). -/

namespace Sys2Proof.Machine

variable {s t u : State}

/-! The rules from the whole-layout checks (R57). -/

section checks

variable {g : Geometry} {cls cls' : Nat → Nat} {ws vs : List WindowRec}

theorem scalersExhausted_eq_false : scalersExhausted ws = false ↔
    (ws.filter (fun w => w.scaled)).length ≤ 32 ∧ (ws.filter (fun w => w.scaled && !w.prot)).length ≤ 28 := by
  simp [scalersExhausted]

theorem TableOk.of_check (check : wholeLayoutCheck g cls ws = none)
    (routed : ∀ i, (windowAt ws i).visible = true → (windowAt ws i).routed ≤ 43) : TableOk g cls ws := by
  have passes := (wholeLayoutCheck_eq_none g cls ws).mp check
  have ranks : ∀ i j, (windowAt ws i).visible = true → (windowAt ws j).visible = true →
      (windowAt ws i).rank = (windowAt ws j).rank → i = j := fun i j hi hj rank => by
    by_contra ne
    exact passes .rankClash none ⟨rfl, i, j, ne, hi, hj, rank⟩
  refine ⟨ranks, fun i j ne hi prot hj meets => ?_, fun k hk => ?_, fun k hk => ?_, ?_, routed⟩
  · by_contra above
    have lt : (windowAt ws i).rank < (windowAt ws j).rank :=
      Nat.lt_of_le_of_ne (Nat.le_of_not_lt above) (fun rank => ne (ranks i j hi hj rank))
    exact passes .protectedCover none ⟨rfl, i, j, ne, hi, prot, hj, meets, lt⟩
  · have none : lowestTile g (fun t => decide (8 < tileLayers g ws t)) = none := by
      rw [Option.eq_none_iff_forall_ne_some]
      exact fun j hj => passes .layerBudget (some j) ((breaks_layers g cls ws _).mpr ⟨j, hj, rfl⟩)
    have fits := List.find?_eq_none.mp none k (List.mem_range.mpr hk)
    rw [decide_eq_true_eq, tileLayers_eq] at fits
    exact Nat.le_of_not_lt fits
  · have none : lowestTile g (fun t => decide (16 < tileCharge g cls ws t)) = none := by
      rw [Option.eq_none_iff_forall_ne_some]
      exact fun j hj => passes .fetchBudget (some j) ((breaks_fetch g cls ws _).mpr ⟨j, hj, rfl⟩)
    have fits := List.find?_eq_none.mp none k (List.mem_range.mpr hk)
    rw [decide_eq_true_eq, tileCharge_eq_chargeOn] at fits
    exact Nat.le_of_not_lt fits
  · rw [← scalersExhausted_eq_false, ← Bool.not_eq_true]
    exact fun h => passes .scalerExhausted none ((breaks_pool g cls ws _).mpr ⟨rfl, h⟩)

theorem TableOk.pool_free (ok : TableOk g cls ws) : scalersExhausted ws = false := scalersExhausted_eq_false.mpr ok.pool

/-! Tables with the same visible windows. -/

/-- A window table with the same windows visible, each with its rectangle, rank, nativeness, protection and routed source. -/
structure SameVisible (ws vs : List WindowRec) : Prop where
  length : vs.length = ws.length
  visible : ∀ i, (windowAt vs i).visible = (windowAt ws i).visible
  window : ∀ i, (windowAt ws i).visible = true → (windowAt vs i).rect = (windowAt ws i).rect ∧
    (windowAt vs i).rank = (windowAt ws i).rank ∧ (windowAt vs i).native = (windowAt ws i).native ∧
    (windowAt vs i).prot = (windowAt ws i).prot ∧ (windowAt vs i).routed = (windowAt ws i).routed

theorem SameVisible.touching (h : SameVisible ws vs) (k : Nat) : touching g vs k = touching g ws k := by
  unfold Machine.touching
  rw [h.length]
  refine List.filter_congr fun i _ => ?_
  rw [h.visible]
  cases hv : (windowAt ws i).visible with
  | false => rfl
  | true => rw [(h.window i hv).1]

theorem filter_windows (p : WindowRec → Bool) (ws : List WindowRec) :
    (ws.filter p).length = ((List.range ws.length).filter (fun i => p (windowAt ws i))).length := by
  have list : ws = (List.range ws.length).map (windowAt ws) := by
    refine List.ext_getElem (by simp) (fun i h _ => ?_)
    simp [windowAt, List.getD_eq_getElem?_getD, h]
  conv_lhs => rw [list]
  rw [List.filter_map, List.length_map]
  rfl

theorem filter_windows_congr {p : WindowRec → Bool} (length : vs.length = ws.length)
    (h : ∀ i, p (windowAt vs i) = p (windowAt ws i)) : (vs.filter p).length = (ws.filter p).length := by
  rw [filter_windows, filter_windows, length]
  simp only [h]

/-- The rules but for the fetch budget do not depend on what is shown. -/
theorem TableOk.alike (ok : TableOk g cls ws) (h : SameVisible ws vs) (fetch : ∀ k, k < g.tiles → chargeOn g cls vs k ≤ 16) :
    TableOk g cls vs where
  ranks i j hi hj rank := by
    rw [h.visible] at hi hj
    rw [(h.window i hi).2.1, (h.window j hj).2.1] at rank
    exact ok.ranks i j hi hj rank
  onTop i j ne hi prot hj meets := by
    rw [h.visible] at hi hj
    obtain ⟨recti, ranki, -, proti, -⟩ := h.window i hi
    obtain ⟨rectj, rankj, -, -, -⟩ := h.window j hj
    rw [recti, rectj] at meets
    rw [proti] at prot
    rw [ranki, rankj]
    exact ok.onTop i j ne hi prot hj meets
  layers k hk := by
    rw [h.touching]
    exact ok.layers k hk
  fetch := fetch
  pool := by
    have scaled (i : Nat) : (windowAt vs i).scaled = (windowAt ws i).scaled ∧
        ((windowAt vs i).scaled && !(windowAt vs i).prot) = ((windowAt ws i).scaled && !(windowAt ws i).prot) := by
      unfold WindowRec.scaled
      rw [h.visible]
      cases hv : (windowAt ws i).visible with
      | false => exact ⟨rfl, rfl⟩
      | true =>
        obtain ⟨-, -, native, prot, -⟩ := h.window i hv
        rw [native, prot]
        exact ⟨rfl, rfl⟩
    rw [filter_windows_congr h.length (fun i => (scaled i).1),
      filter_windows_congr (p := fun w => w.scaled && !w.prot) h.length (fun i => (scaled i).2)]
    exact ok.pool
  routed i hi := by
    rw [h.visible] at hi
    rw [(h.window i hi).2.2.2.2]
    exact ok.routed i hi

/-- A charge that is nowhere higher. -/
theorem chargeOn_le (h : SameVisible ws vs) (k : Nat) (le : ∀ i, i ∈ touching g ws k →
    max (cls' (windowAt vs i).routed) (cls' (windowAt vs i).shown) ≤ max (cls (windowAt ws i).routed) (cls (windowAt ws i).shown)) :
    chargeOn g cls' vs k ≤ chargeOn g cls ws k := by
  unfold chargeOn
  rw [h.touching]
  exact List.sum_le_sum le

theorem SameVisible.refl (ws : List WindowRec) : SameVisible ws ws :=
  ⟨rfl, fun _ => rfl, fun _ _ => ⟨rfl, rfl, rfl, rfl, rfl⟩⟩

/-- Lower declared classes keep the rules. -/
theorem TableOk.lower (ok : TableOk g cls ws) (h : ∀ i, cls' i ≤ cls i) : TableOk g cls' ws where
  ranks := ok.ranks
  onTop := ok.onTop
  layers := ok.layers
  fetch k hk := (chargeOn_le (.refl ws) k (fun _ _ => max_le_max (h _) (h _))).trans (ok.fetch k hk)
  pool := ok.pool
  routed := ok.routed

/-- The same windows visible, each showing the same source. -/
theorem TableOk.same (ok : TableOk g cls ws) (h : SameVisible ws vs)
    (shown : ∀ i, (windowAt ws i).visible = true → (windowAt vs i).shown = (windowAt ws i).shown) : TableOk g cls vs := by
  refine ok.alike h fun k hk => (chargeOn_le h k (fun i hi => ?_)).trans (ok.fetch k hk)
  have hv := (mem_touching.mp hi).2.1
  rw [(h.window i hv).2.2.2.2, shown i hv]

theorem SameButContexts.sameVisible (h : SameButContexts ws vs) : SameVisible ws vs :=
  ⟨h.1, fun i => by rw [h.2 i], fun i _ => by rw [h.2 i]; exact ⟨rfl, rfl, rfl, rfl, rfl⟩⟩

end checks

/-! An edit (R103 to R105). -/

/-- What an edit makes a window show: its routed source again, the slate, or a backup that is fit. -/
theorem State.editResult_shown {ws : List WindowRec} {e : Edit} {sub : SubState} {shown : Nat}
    (h : s.editResult ws e = some (sub, shown)) : shown = (windowAt ws e.window).routed ∨ shown = Config.slate ∨
      (sub = .backup ∧ s.fitBackup ws e.window = some shown) := by
  unfold State.editResult at h
  cases hk : e.kind with
  | restore =>
    rw [hk] at h
    dsimp only at h
    unfold State.resolveRestore at h
    dsimp only at h
    split at h
    · cases h
      exact .inl rfl
    · cases h
  | substitute =>
    rw [hk] at h
    dsimp only at h
    unfold State.resolveSubstitute at h
    dsimp only at h
    split at h
    · split at h
      · cases h
      · split at h
        · next b hb =>
          cases h
          exact .inr (.inr ⟨rfl, hb⟩)
        · cases h
          exact .inr (.inl rfl)
    · split at h
      · cases h
        exact .inl rfl
      · split at h
        · cases h
        · cases h
          exact .inr (.inl rfl)
    · cases h

theorem sameVisible_substituted {ws : List WindowRec} {i : Nat} (hi : i < ws.length) (sub : SubState) (shown : Nat) :
    SameVisible ws (ws.set i ((windowAt ws i).substituted sub shown)) := by
  refine ⟨List.length_set, fun j => ?_, fun j _ => ?_⟩ <;> rw [windowAt_set _ hi] <;> split <;>
    simp_all [WindowRec.substituted]

/-- The classes that the resolution of edits relies on: while the wall has a tile, no source has a class below that of the slate
(R19, R75). -/
def State.slateLowest (s : State) : Prop := s.geometry.tiles ≠ 0 → ∀ i, i ≤ 43 → s.classOf Config.slate ≤ s.classOf i

/-- An edit keeps the rules: a backup is fit where it keeps the fetch budget, and neither the routed source nor the slate is
charged more than what was shown (R103, R104). -/
theorem State.resolveEdit_tableOk {ws : List WindowRec} (lowest : s.slateLowest) (ok : TableOk s.geometry s.classOf ws)
    (e : Edit) : TableOk s.geometry s.classOf (s.resolveEdit ws e).1 := by
  by_cases stale : e.stale ws = true
  · rw [State.resolveEdit_of_stale stale]
    exact ok
  · cases result : s.editResult ws e with
    | none =>
      rw [State.resolveEdit_of_none result]
      exact ok
    | some p =>
      obtain ⟨sub, shown⟩ := p
      rw [State.resolveEdit_of_some stale result]
      have visible : (windowAt ws e.window).visible = true := by
        by_contra hidden
        exact stale ((e.stale_iff ws).mpr (.inl (Bool.eq_false_iff.mpr hidden)))
      have hi := lt_of_visible visible
      have alike := sameVisible_substituted hi sub shown
      refine ok.alike alike fun k hk => ?_
      by_cases cheap : max (s.classOf (windowAt ws e.window).routed) (s.classOf shown) ≤
          max (s.classOf (windowAt ws e.window).routed) (s.classOf (windowAt ws e.window).shown)
      · refine (chargeOn_le alike k fun j _ => ?_).trans (ok.fetch k hk)
        rw [windowAt_set _ hi]
        split
        · next hj =>
          rw [hj]
          exact cheap
        · exact Nat.le_refl _
      · have backup : sub = .backup ∧ s.fitBackup ws e.window = some shown := by
          rcases State.editResult_shown result with same | slate | fit
          · rw [same] at cheap
            exact absurd (max_le (le_max_left _ _) (le_max_left _ _)) cheap
          · have low := lowest (Nat.ne_of_gt (Nat.zero_lt_of_lt hk)) _ (ok.routed _ visible)
            rw [slate] at cheap
            exact absurd (max_le (le_max_left _ _) (low.trans (le_max_left _ _))) cheap
          · exact fit
        obtain ⟨rfl, fit⟩ := backup
        by_cases meets : (windowAt ws e.window).rect.overlaps (s.geometry.tileRect k) = true
        · exact ((s.fitBackup_eq_some_iff hi shown).mp fit).2.2.2.2 k hk meets
        · refine (chargeOn_le alike k fun j hj => ?_).trans (ok.fetch k hk)
          have other : j ≠ e.window := fun hj' => meets (hj' ▸ (mem_touching.mp hj).2.2)
          rw [windowAt_set _ hi, if_neg other]

theorem State.resolveEdits_tableOk {ws : List WindowRec} (lowest : s.slateLowest) (ok : TableOk s.geometry s.classOf ws)
    (es : List Edit) : TableOk s.geometry s.classOf (s.resolveEdits ws es).1 := by
  induction es generalizing ws with
  | nil => exact ok
  | cons e es ih =>
    rw [State.resolveEdits_cons]
    exact ih (State.resolveEdit_tableOk lowest ok e)

/-! Entries of a take: the sources they name exist (R55). -/

/-- Every visible window is routed from a source that exists (R75). -/
def RoutedOk (ws : List WindowRec) : Prop := ∀ i, (windowAt ws i).visible = true → (windowAt ws i).routed ≤ 43

/-- A window that an entry leaves visible is routed from the entry's source, or was visible and routed so before. -/
theorem Entry.applyTo_routed (e : Entry) (k : EntryKind) (w : WindowRec) (h : (e.applyTo k w).visible = true) :
    ((k = .show ∨ k = .route) ∧ (e.applyTo k w).routed = e.source) ∨
      (w.visible = true ∧ (e.applyTo k w).routed = w.routed) := by
  cases k with
  | route => exact .inl ⟨.inr rfl, rfl⟩
  | hide => cases h
  | place | rerank | crop | restore | protect | filter => exact .inr ⟨h, rfl⟩
  | _ => exact .inl ⟨.inl rfl, rfl⟩ -- SHOW

theorem Entry.apply_routed {e : Entry} {d : Layout}
    (exist : ∀ k, entryKind e.kind = some k → k = .show ∨ k = .route → e.source ≤ 43)
    (ok : RoutedOk d.windows) : RoutedOk (e.apply d).windows := by
  cases hk : entryKind e.kind with
  | none =>
    unfold Entry.apply
    rw [hk]
    exact ok
  | some k =>
    by_cases hf : k = .filter
    · rw [Entry.apply_filter (hf ▸ hk)]
      split <;> exact ok
    · rw [Entry.apply_window hk hf]
      intro i
      dsimp only
      by_cases hi : e.window < d.windows.length
      · rw [windowAt_set _ hi]
        split
        · intro visible
          rcases e.applyTo_routed k _ visible with ⟨sourced, routed⟩ | ⟨before, routed⟩
          · rw [routed]
            exact exist k hk sourced
          · rw [routed]
            exact ok _ before
        · exact ok i
      · rw [List.set_eq_of_length_le (Nat.le_of_not_lt hi)]
        exact ok i

/-- An entry that passes its checks names a source that exists (R55). -/
theorem Entry.source_of_check {e : Entry} {c : EntryContext} {ws : List WindowRec} (passes : e.check c ws = none) :
    ∀ k, entryKind e.kind = some k → k = .show ∨ k = .route → e.source ≤ 43 := fun _ hk sourced =>
  Nat.le_of_not_lt fun lt => ((Entry.check_of_kind hk c ws).2.mp passes) .badSource ⟨sourced, lt⟩

theorem TakeCheck.next_routed {p : TakeCheck} (c : EntryContext) (e : Entry) (ok : RoutedOk p.draft.windows) :
    RoutedOk (p.next c e).draft.windows := by
  cases hf : p.failed with
  | some r =>
    rw [p.next_failed c e hf]
    exact ok
  | none =>
    rw [TakeCheck.next_open c e hf]
    cases hc : e.check c p.draft.windows with
    | some r => exact ok
    | none => exact Entry.apply_routed (Entry.source_of_check hc) ok

theorem TakeCheck.toEnd_routed {p : TakeCheck} (c : EntryContext) (es : List Entry) (ok : RoutedOk p.draft.windows) :
    RoutedOk (p.toEnd c es).draft.windows := by
  unfold TakeCheck.toEnd
  generalize es.drop p.passed = l
  induction l generalizing p with
  | nil => exact ok
  | cons e l ih => exact ih (TakeCheck.next_routed c e ok)

/-- A take that is applied leaves a draft that keeps the rules, for it has passed the whole-layout checks; another leaves the
draft (R54, R57). -/
theorem TakeCheck.result_tableOk {p : TakeCheck} {g : Geometry} {cls : Nat → Nat} {d : Layout}
    (routed : RoutedOk p.draft.windows) (ok : TableOk g cls d.windows) : TableOk g cls (p.result g cls d).2.windows := by
  cases hf : p.failed with
  | some r =>
    rw [TakeCheck.result_failed g cls d hf]
    exact ok
  | none =>
    cases hw : wholeLayoutCheck g cls p.draft.windows with
    | some r =>
      rw [TakeCheck.result_breaks (r := r.1) (tile := r.2) d hf hw]
      exact ok
    | none =>
      rw [TakeCheck.result_applied d hf hw]
      exact TableOk.of_check hw routed

/-! Tile plans within their budgets (R20). -/

theorem planOf_ok {g : Geometry} {cls : Nat → Nat} {ws : List WindowRec} (area : Nat → Nat × Nat) (ok : TableOk g cls ws) {k : Nat}
    (hk : k < g.tiles) : planOk (planOf g cls area ws k) := by
  have layers := tileLayers_eq g ws k
  have charge := tileCharge_eq_chargeOn g cls ws k
  refine ⟨?_, ?_⟩
  · rw [planOf, List.length_map]
    exact layers.trans_le (ok.layers k hk)
  · rw [planOf, List.map_map]
    exact charge.trans_le (ok.fetch k hk)

theorem State.plansNow_ok {ws : List WindowRec} (ok : TableOk s.geometry s.classOf ws) : ∀ p ∈ s.plansNow ws, planOk p := by
  intro p hp
  obtain ⟨k, hk, rfl⟩ := List.mem_map.mp hp
  exact planOf_ok _ ok (List.mem_range.mp hk)

theorem planOk_nil : planOk [] := ⟨Nat.zero_le _, Nat.zero_le _⟩

theorem planOk_getD {plans : List (List Fragment)} (h : ∀ p ∈ plans, planOk p) (i : Nat) : planOk (plans.getD i []) := by
  rw [List.getD_eq_getElem?_getD]
  cases hp : plans[i]? with
  | none => exact planOk_nil
  | some p => exact h p (List.mem_of_getElem? hp)

/-! The completion of a draft (R59). -/

theorem BuildRecord.stamp_window (b : BuildRecord) (live : List WindowRec) (w : WindowRec) (i : Nat) :
    b.stamp live (w, i) = { w with
      lastCommitFrame := (b.stamp live (w, i)).lastCommitFrame, lastTakeTag := (b.stamp live (w, i)).lastTakeTag } := rfl

/-- The completed draft's windows are those of the assignment, but for their stamps. -/
theorem State.completeDraft_stamps (s : State) (b : BuildRecord) (i : Nat) : ∃ frame tag,
    windowAt (s.completeDraft b).windows i =
      { windowAt (assignContexts s.composer.live.windows b.draft.windows) i with
        lastCommitFrame := frame, lastTakeTag := tag } := by
  by_cases hi : i < b.draft.windows.length
  · exact ⟨_, _, s.completeDraft_window b hi⟩
  · have out : (s.completeDraft b).windows.length ≤ i := by
      rw [s.completeDraft_length]
      exact Nat.le_of_not_lt hi
    have draft : (assignContexts s.composer.live.windows b.draft.windows).length ≤ i := by
      rw [assignContexts_same.1]
      exact Nat.le_of_not_lt hi
    rw [windowAt_of_le out, windowAt_of_le draft]
    exact ⟨_, _, rfl⟩

theorem State.completeDraft_tableOk {g : Geometry} {cls : Nat → Nat} {b : BuildRecord} (ok : TableOk g cls b.draft.windows) :
    TableOk g cls (s.completeDraft b).windows := by
  have given := assignContexts_same (live := s.composer.live.windows) (draft := b.draft.windows)
  have assigned : TableOk g cls (assignContexts s.composer.live.windows b.draft.windows) :=
    ok.same given.sameVisible (fun i _ => by rw [given.2 i])
  refine assigned.same ⟨?_, fun i => ?_, fun i _ => ?_⟩ (fun i _ => ?_)
  · rw [s.completeDraft_length, given.1]
  all_goals obtain ⟨frame, tag, h⟩ := s.completeDraft_stamps b i
  · rw [h]
  · rw [h]
    exact ⟨rfl, rfl, rfl, rfl, rfl⟩
  · rw [h]

theorem ContextsOk.congr {ws vs : List WindowRec} (ok : ContextsOk ws)
    (scaled : ∀ i, (windowAt vs i).scaled = (windowAt ws i).scaled) (ctx : ∀ i, (windowAt vs i).ctx = (windowAt ws i).ctx) :
    ContextsOk vs :=
  ⟨fun i => by rw [scaled, ctx]; exact ok.holder i, fun i c hc => ok.below i c (by rw [← ctx]; exact hc),
    fun i j c hi hj => ok.alone i j c (by rw [← ctx]; exact hi) (by rw [← ctx]; exact hj)⟩

theorem State.completeDraft_contextsOk {b : BuildRecord} (live : ContextsOk s.composer.live.windows)
    (pool : scalersExhausted b.draft.windows = false) : ContextsOk (s.completeDraft b).windows :=
  (live.assign pool).congr (fun i => by obtain ⟨_, _, h⟩ := s.completeDraft_stamps b i; rw [h]; rfl)
    (fun i => by obtain ⟨_, _, h⟩ := s.completeDraft_stamps b i; rw [h])

/-! A plan installed (R136, R140). -/

/-- What a plan leaves of a window, but for its stamps. -/
theorem fallbackWindow_stamps (plan : List WindowRec) (n : Word) (w : WindowRec) (i : Nat) : ∃ frame tag,
    fallbackWindow plan n (w, i) =
      { (if (windowAt plan i).visible then windowAt plan i else { w.hidden with ctx := none }) with
        lastCommitFrame := frame, lastTakeTag := tag } := by
  unfold fallbackWindow
  dsimp only
  generalize (if (windowAt plan i).visible = true then windowAt plan i else { w.hidden with ctx := none }) = v
  by_cases same : v.withStamps w = w
  · rw [if_pos same]
    exact ⟨_, _, same.symm⟩
  · rw [if_neg same]
    exact ⟨_, _, rfl⟩

theorem State.planned_window (s : State) (plan : List WindowRec) (n : Word) {i : Nat} (hi : i < s.composer.live.windows.length) :
    windowAt (s.planned plan n).windows i = fallbackWindow plan n (windowAt s.composer.live.windows i, i) :=
  windowAt_indexed_map _ hi

/-- A plan that keeps the rules leaves a table that keeps them. -/
theorem State.planned_tableOk {g : Geometry} {cls : Nat → Nat} {plan : List WindowRec} (n : Word)
    (length : plan.length = s.composer.live.windows.length) (ok : TableOk g cls plan) (ctx : ContextsOk plan) :
    TableOk g cls (s.planned plan n).windows ∧ ContextsOk (s.planned plan n).windows := by
  have size : (s.planned plan n).windows.length = plan.length := by simp [State.planned, length]
  have shown (i : Nat) (visible : (windowAt plan i).visible = true) : ∃ frame tag, windowAt (s.planned plan n).windows i =
      { windowAt plan i with lastCommitFrame := frame, lastTakeTag := tag } := by
    have hi : i < s.composer.live.windows.length := length ▸ lt_of_visible visible
    obtain ⟨frame, tag, h⟩ := fallbackWindow_stamps plan n (windowAt s.composer.live.windows i) i
    rw [s.planned_window plan n hi, h, if_pos visible]
    exact ⟨frame, tag, rfl⟩
  have hidden (i : Nat) (no : (windowAt plan i).visible = false) : (windowAt (s.planned plan n).windows i).visible = false ∧
      (windowAt (s.planned plan n).windows i).ctx = none := by
    by_cases hi : i < s.composer.live.windows.length
    · obtain ⟨frame, tag, h⟩ := fallbackWindow_stamps plan n (windowAt s.composer.live.windows i) i
      rw [s.planned_window plan n hi, h, if_neg (by rw [no]; decide)]
      exact ⟨rfl, rfl⟩
    · rw [windowAt_of_le (by rw [size, length]; exact Nat.le_of_not_lt hi)]
      exact ⟨rfl, rfl⟩
  have visible (i : Nat) : (windowAt (s.planned plan n).windows i).visible = (windowAt plan i).visible := by
    cases hv : (windowAt plan i).visible with
    | false => exact (hidden i hv).1
    | true =>
      obtain ⟨frame, tag, h⟩ := shown i hv
      rw [h]
      exact hv
  have scaled (i : Nat) : (windowAt (s.planned plan n).windows i).scaled = (windowAt plan i).scaled := by
    cases hv : (windowAt plan i).visible with
    | false =>
      unfold WindowRec.scaled
      rw [hv, (hidden i hv).1, Bool.false_and, Bool.false_and]
    | true =>
      obtain ⟨frame, tag, h⟩ := shown i hv
      rw [h]
      rfl
  have held (i : Nat) : (windowAt (s.planned plan n).windows i).ctx = (windowAt plan i).ctx := by
    cases hv : (windowAt plan i).visible with
    | false =>
      have free : ¬ (windowAt plan i).ctx ≠ none := by
        rw [← ctx.holder i, WindowRec.scaled, hv]
        exact Bool.false_ne_true
      rw [(hidden i hv).2, Classical.not_not.mp free]
    | true =>
      obtain ⟨frame, tag, h⟩ := shown i hv
      rw [h]
  refine ⟨ok.same ⟨size, visible, fun i hv => ?_⟩ (fun i hv => ?_), ctx.congr scaled held⟩
  · obtain ⟨frame, tag, h⟩ := shown i hv
    rw [h]
    exact ⟨rfl, rfl, rfl, rfl, rfl⟩
  · obtain ⟨frame, tag, h⟩ := shown i hv
    rw [h]

end Sys2Proof.Machine
end

section
-- Many short proofs follow one another: taken one at a time they need one thread's memory, not one's for each.
set_option Elab.async false
/-! PROOF. Every step keeps the layouts in order (R5, R6, R14, R20, R24, R77, R139). -/

namespace Sys2Proof.Machine

variable {s t u : State}

/-! What an activation carries (R133, R134). -/

section passed

variable {c : ConfigImage} {old : Option SectionMap}

theorem ConfigImage.fallback_routed (h : c.failure old = none) : RoutedOk c.fallbackWindows := by
  have lowest := c.fallback_lowest old
  rw [show c.badFallback = none from ConfigImage.finding_none h (code := .fallbackEntry) (by decide)] at lowest
  have count : ¬ (c.fallbackCount = 0 ∨ 64 < c.fallbackCount) := fun bad => lowest 0 (.inl ⟨rfl, bad⟩)
  have exist : ∀ e ∈ c.fallbackEntries, e.source ≤ 43 := by
    intro e he
    obtain ⟨n, hn⟩ := List.mem_iff_getElem?.mp he
    by_contra beyond
    exact lowest n (.inr ⟨by omega, by omega, e, hn, .inr (.inr (.inl (Nat.lt_of_not_le beyond)))⟩)
  have applied (l : List Entry) (hl : ∀ e ∈ l, e.source ≤ 43) {d : Layout} (ok : RoutedOk d.windows) :
      RoutedOk (l.foldl (fun d e => e.apply d) d).windows := by
    induction l generalizing d with
    | nil => exact ok
    | cons e l ih =>
      exact ih (fun f hf => hl f (List.mem_cons_of_mem _ hf))
        (Entry.apply_routed (fun _ _ _ => hl e (List.mem_cons_self ..)) ok)
  exact applied _ exist (TableOk.cleared ⟨0, 0⟩ (fun _ => 0)).routed

theorem ConfigImage.fallbackPlan_ok (h : c.failure old = none) :
    TableOk ⟨c.capture.cols, c.capture.rows⟩ c.capture.classOf c.fallbackPlan ∧ ContextsOk c.fallbackPlan := by
  have found : (wholeLayoutCheck c.geometry c.classOf c.fallbackWindows).map (fun r => layoutCheckNumber r.1) = none :=
    ConfigImage.finding_none h (code := .fallbackLayout) (by decide)
  have windows : TableOk c.geometry c.classOf c.fallbackWindows :=
    TableOk.of_check (Option.map_eq_none_iff.mp found) (ConfigImage.fallback_routed h)
  have given := assignContexts_same (live := Layout.cleared.windows) (draft := c.fallbackWindows)
  exact ⟨windows.same given.sameVisible (fun i _ => by rw [ConfigImage.fallbackPlan, given.2 i]),
    ContextsOk.cleared.assign windows.pool_free⟩

theorem ConfigImage.allSettings_class (c : ConfigImage) : ∀ r ∈ c.allSettings, 1 ≤ r.declaredClass := by
  intro r hr
  obtain ⟨p, -, rfl⟩ := List.mem_map.mp hr
  unfold RawSettings.settings
  split
  · next ok =>
    change 1 ≤ p.1.declaredClass
    omega
  · exact Nat.le_refl 1

end passed

/-! The invariant by its parts. -/

/-- The composer's layouts keep the rules of a layout. -/
structure Composer.rulesOk (g : Geometry) (cls : Nat → Nat) (c : Composer) : Prop where
  live : TableOk g cls c.live.windows ∧ ContextsOk c.live.windows
  draft : ∀ b, c.build = some b → TableOk g cls b.draft.windows ∧
    (b.status = .ready → ContextsOk b.draft.windows ∧ ∀ p ∈ b.draft.plans, planOk p) ∧
    (∀ p, b.inTake = some p → RoutedOk p.draft.windows)
  fallback : ∀ p, c.fallbackPlan = some p → TableOk g cls p ∧ ContextsOk p
  plans : ∀ p ∈ c.live.plans, planOk p

theorem State.layoutOk.rules (ok : s.layoutOk) : s.composer.rulesOk s.geometry s.classOf :=
  ⟨ok.live, ok.draft, ok.fallback, ok.plans.1⟩

section rules

variable {g : Geometry} {cls : Nat → Nat} {c d : Composer}

theorem Composer.rulesOk.congr (h : c.rulesOk g cls) (e : d.layouts = c.layouts) : d.rulesOk g cls := by
  obtain ⟨live, build, -, fallback⟩ := Composer.layouts_eq e
  exact ⟨live ▸ h.live, build ▸ h.draft, fallback ▸ h.fallback, live ▸ h.plans⟩

theorem Composer.rulesOk.withoutBuild (h : c.rulesOk g cls) {o : Bool}
    (e : d.layouts = (c.live, none, o, c.fallbackPlan)) : d.rulesOk g cls := by
  obtain ⟨live, build, -, fallback⟩ := Composer.layouts_of e
  exact ⟨live ▸ h.live, by simp [build], fallback ▸ h.fallback, live ▸ h.plans⟩

theorem Composer.rulesOk.withBuild (h : c.rulesOk g cls) {b : BuildRecord} (hd : TableOk g cls b.draft.windows)
    (hr : b.status = .ready → ContextsOk b.draft.windows ∧ ∀ p ∈ b.draft.plans, planOk p)
    (hp : ∀ p, b.inTake = some p → RoutedOk p.draft.windows) (e : d = { c with build := some b }) : d.rulesOk g cls := by
  subst e
  exact ⟨h.live, fun q hq => by cases hq; exact ⟨hd, hr, hp⟩, h.fallback, h.plans⟩

end rules

theorem State.classOf_settings (h : ∀ i, (t.source i).settings = (s.source i).settings) : t.classOf = s.classOf := by
  funext i
  rw [State.classOf, h]
  rfl

theorem State.geometry_captured (h : t.modes.captured = s.modes.captured) : t.geometry = s.geometry := by
  unfold State.geometry
  rw [h]

/-- The invariant from its parts, where the capture and the settings of the sources stay. -/
theorem State.layoutOk.next (ok : s.layoutOk) (captured : t.modes.captured = s.modes.captured)
    (settings : ∀ i, (t.source i).settings = (s.source i).settings) (rules : t.composer.rulesOk s.geometry s.classOf)
    (passed : ∀ c p, t.modes.progress = .passed c p → TableOk ⟨c.cols, c.rows⟩ c.classOf p ∧ ContextsOk p ∧
      ∀ r ∈ c.settings, 1 ≤ r.declaredClass) (ports : ∀ q ∈ t.ports, planOk q.plan)
    (early : t.modes.mode.early = true → t.composer.live = Layout.cleared)
    (owed : t.composer.fallbackOwed = true → t.modes.mode.early = false ∧ t.modes.mode ≠ .quiesced) : t.layoutOk := by
  have cls := State.classOf_settings settings
  have wall := State.geometry_captured captured
  exact {
    live := by rw [wall, cls]; exact rules.live
    draft := by rw [wall, cls]; exact rules.draft
    fallback := by rw [wall, cls]; exact rules.fallback
    passed := passed
    plans := ⟨rules.plans, ports⟩
    external := by rw [captured, cls]; exact ok.external
    settings := by simp only [captured, settings]; exact ok.settings
    internal := by rw [cls]; exact ok.internal
    early := early
    owed := owed }

theorem OnlyChanges.settings {l : List Part} (h : OnlyChanges l s t) (hs : Part.sources ∉ l := by decide) (i : Nat) :
    (t.source i).settings = (s.source i).settings := by
  rw [State.source, h.sources_eq hs]
  rfl

/-- A change that leaves the source table, the ports and the mode controller. -/
theorem State.layoutOk.step {l : List Part} (ok : s.layoutOk) (h : OnlyChanges l s t)
    (rules : t.composer.rulesOk s.geometry s.classOf) (live : t.composer.live = s.composer.live)
    (owed : t.composer.fallbackOwed = true → s.composer.fallbackOwed = true) (hm : Part.modes ∉ l := by decide)
    (hs : Part.sources ∉ l := by decide) (hp : Part.ports ∉ l := by decide) : t.layoutOk := by
  have modes := h.modes_eq hm
  refine ok.next (by rw [modes]) (h.settings hs) rules ?_ ?_ ?_ ?_
  · rw [modes]; exact ok.passed
  · rw [h.ports_eq hp]; exact ok.plans.2
  · rw [modes, live]; exact ok.early
  · rw [modes]; exact fun ho => ok.owed (owed ho)

theorem OnlyChanges.layoutOk {l : List Part} (h : OnlyChanges l s t) (ok : s.layoutOk) (hc : Part.composer ∉ l := by decide)
    (hm : Part.modes ∉ l := by decide) (hs : Part.sources ∉ l := by decide) (hp : Part.ports ∉ l := by decide) : t.layoutOk :=
  have composer := h.composer_eq hc
  ok.step h (by rw [composer]; exact ok.rules) (by rw [composer]) (by rw [composer]; exact id) hm hs hp

/-- A change of the mode controller that leaves the live layout. -/
theorem State.layoutOk.stepModes {l : List Part} (ok : s.layoutOk) (h : OnlyChanges l s t)
    (captured : t.modes.captured = s.modes.captured) (rules : t.composer.rulesOk s.geometry s.classOf)
    (live : t.composer.live = s.composer.live) (early : t.modes.mode.early = true → s.modes.mode.early = true)
    (passed : ∀ c p, t.modes.progress = .passed c p → s.modes.progress = .passed c p)
    (owed : t.composer.fallbackOwed = true → t.modes.mode.early = false ∧ t.modes.mode ≠ .quiesced)
    (hs : Part.sources ∉ l := by decide) (hp : Part.ports ∉ l := by decide) : t.layoutOk :=
  ok.next captured (h.settings hs) rules (fun c p hcp => ok.passed c p (passed c p hcp))
    (by rw [h.ports_eq hp]; exact ok.plans.2) (fun he => live.trans (ok.early (early he))) owed

/-! The requests. -/

theorem State.layoutOk.owed_none (ok : s.layoutOk) (h : s.modes.mode.early = true ∨ s.modes.mode = .quiesced) :
    s.composer.fallbackOwed = false := by
  by_contra owed
  obtain ⟨late, notQuiesced⟩ := ok.owed (Bool.eq_true_of_not_eq_false owed)
  rcases h with h | h
  · rw [late] at h
    cases h
  · exact notQuiesced h

theorem State.moveRun_layoutOk (r : Trigger) (ok : s.layoutOk) : ((s.moveMode .run r).startSupervision).layoutOk := by
  have only := ((s.moveMode_only .run r).mono (by decide)).trans ((State.startSupervision_only _).mono (by decide))
    (l := [.modes, .interrupt, .rings, .causes])
  have modes : ((s.moveMode .run r).startSupervision).modes = { s.modes with
      mode := .run, supervision := (s.moveMode .run r).startedTimer } := by
    rw [State.startSupervision_modes, State.moveMode_modes]
  have composer := only.composer_eq
  refine ok.stepModes only (by rw [modes]) (by rw [composer]; exact ok.rules) (by rw [composer]) ?_ ?_ ?_
  · rw [modes]; exact nofun
  · rw [modes]; exact fun c p => id
  · rw [modes]; exact fun _ => ⟨rfl, nofun⟩

theorem State.startActivation_layoutOk (hm : s.modes.mode = .config) (ok : s.layoutOk) : s.startActivation.layoutOk := by
  have composer := s.startActivation_only.composer_eq
  have modes := s.startActivation_modes
  refine ok.stepModes s.startActivation_only (by rw [modes]) (by rw [composer]; exact ok.rules) (by rw [composer]) ?_ ?_ ?_
  · exact fun _ => by rw [hm]; rfl
  · rw [modes]; exact nofun
  · rw [composer, ok.owed_none (.inl (by rw [hm]; rfl))]
    exact nofun

theorem State.failRequest_layoutOk (ok : s.layoutOk) : s.failRequest.layoutOk := s.failRequest_only.layoutOk ok

theorem State.runRequest_layoutOk (ok : s.layoutOk) : s.runRequest.layoutOk := by
  unfold State.runRequest
  split
  · exact ok
  · next hm => exact State.startActivation_layoutOk hm ok
  · exact State.failRequest_layoutOk ok
  · exact ok
  · exact State.moveRun_layoutOk _ (ok.step (s.modComposer_only _) (ok.rules.congr rfl) rfl id)
  · exact State.moveRun_layoutOk _ ok
  · exact State.failRequest_layoutOk ok
  · exact State.moveRun_layoutOk _ ok

theorem State.holdRequest_layoutOk (ok : s.layoutOk) : s.holdRequest.layoutOk := by
  unfold State.holdRequest
  split
  · exact ok
  · next hm =>
    have composer : ((s.discardBuild none).enterHold .request).composer = { s.composer with build := none } := by
      rw [State.enterHold_composer, State.discardBuild_composer]
    have modes : ((s.discardBuild none).enterHold .request).modes.mode = .hold := by rw [State.enterHold_modes]
    refine ok.stepModes (((s.discardBuild_only none).mono (by decide)).next (State.enterHold_only _ _)
        (k := [.interrupt, .modes, .rings, .causes]) (l := [.interrupt, .takes, .composer, .modes, .rings, .causes, .status])
        (by decide)) ?_ (ok.rules.withoutBuild (by rw [composer]; rfl)) (by rw [composer]) ?_ ?_ ?_
    · rw [State.enterHold_modes, State.discardBuild_modes]
    · rw [modes]; exact nofun
    · rw [State.enterHold_modes, State.discardBuild_modes]; exact fun c p => id
    · rw [modes]; exact fun _ => ⟨rfl, nofun⟩
  · exact ok
  all_goals exact State.failRequest_layoutOk ok

theorem State.enterFallback_layoutOk (r : Trigger) (ok : s.layoutOk) : (s.enterFallback r).layoutOk := by
  have composer := s.enterFallback_composer r
  have modes := s.enterFallback_modes r
  refine ok.stepModes (s.enterFallback_only r) (by rw [modes]) (ok.rules.withoutBuild (by rw [composer]; rfl))
    (by rw [composer]) ?_ ?_ ?_
  · rw [modes]; exact nofun
  · rw [modes]; exact fun c p => id
  · rw [modes]; exact fun _ => ⟨rfl, nofun⟩

theorem State.fallbackRequest_layoutOk (ok : s.layoutOk) : s.fallbackRequest.layoutOk := by
  unfold State.fallbackRequest
  split
  · exact ok
  · exact State.enterFallback_layoutOk _ ok
  · exact State.enterFallback_layoutOk _ ok
  · exact State.enterFallback_layoutOk _ ok
  · exact ok
  all_goals exact State.failRequest_layoutOk ok

theorem State.enterQuiescing_layoutOk (r : Trigger) (ok : s.layoutOk) : (s.enterQuiescing r).layoutOk := by
  have composer := (s.enterQuiescing_only r).composer_eq
  have modes := s.enterQuiescing_modes r
  refine ok.stepModes (s.enterQuiescing_only r) (by rw [modes]) (by rw [composer]; exact ok.rules) (by rw [composer]) ?_ ?_ ?_
  · rw [modes]
    dsimp only
    split <;> exact nofun
  · rw [modes]; exact fun c p => id
  · rw [modes, composer]
    intro ho
    have flight : s.inFlight = true := by simp [State.inFlight, ho]
    rw [flight]
    exact ⟨rfl, nofun⟩

theorem State.quiesceRequest_layoutOk (ok : s.layoutOk) : s.quiesceRequest.layoutOk := by
  unfold State.quiesceRequest
  split
  · exact ok
  · exact State.enterQuiescing_layoutOk _ ok
  · exact State.enterQuiescing_layoutOk _ ok
  · exact State.enterQuiescing_layoutOk _ ok
  · exact ok
  · exact ok
  all_goals exact State.failRequest_layoutOk ok

theorem State.endActivation_layoutOk (r : Trigger) (hm : s.modes.mode = .activating) (ok : s.layoutOk) :
    (s.endActivation r).layoutOk := by
  have composer := (s.endActivation_only r).composer_eq
  have modes := s.endActivation_modes r
  refine ok.stepModes (s.endActivation_only r) (by rw [modes]) (by rw [composer]; exact ok.rules) (by rw [composer]) ?_ ?_ ?_
  · exact fun _ => by rw [hm]; rfl
  · rw [modes]; exact nofun
  · rw [composer, ok.owed_none (.inl (by rw [hm]; rfl))]
    exact nofun

/-- In CONFIG the layout is cleared, and no fallback commit is owed (R25, R131, R139). -/
theorem State.returnToConfig_layoutOk (r : Trigger) (hm : s.modes.mode = .quiesced) (ok : s.layoutOk)
    (noBuild : s.composer.build = none) : ((s.moveMode .config r).clearLayoutForConfig).layoutOk := by
  have moved := s.moveMode_only .config r
  have cleared := (s.moveMode .config r).clearLayoutForConfig_only
  obtain ⟨live, build, owed, fallback⟩ := Composer.layouts_of (s.moveMode .config r).clearLayoutForConfig_layouts
  have composer : (s.moveMode .config r).composer = s.composer := moved.composer_eq
  have modes : ((s.moveMode .config r).clearLayoutForConfig).modes = { s.modes with mode := .config } := by
    rw [cleared.modes_eq, State.moveMode_modes]
  rw [composer] at build owed fallback
  refine ok.next (by rw [modes]) (fun i => ?_) ⟨live ▸ ⟨TableOk.cleared _ _, ContextsOk.cleared⟩, ?_, fallback ▸ ok.fallback, ?_⟩
    ?_ ?_ (fun _ => live) ?_
  · rw [cleared.settings, moved.settings]
  · rw [build, noBuild]
    exact nofun
  · rw [live]
    exact nofun
  · rw [modes]
    exact ok.passed
  · rw [State.clearLayoutForConfig_ports]
    intro q hq
    obtain ⟨p, -, rfl⟩ := List.mem_map.mp hq
    exact planOk_nil
  · rw [owed, ok.owed_none (.inr hm)]
    exact nofun

theorem State.configRequest_layoutOk (ok : s.layoutOk) (noBuild : s.modes.mode = .quiesced → s.composer.build = none) :
    s.configRequest.layoutOk := by
  unfold State.configRequest
  split
  · exact ok
  · exact ok
  · next hm => exact State.endActivation_layoutOk _ hm ok
  · exact State.enterQuiescing_layoutOk _ (State.failRequest_layoutOk ok)
  · exact State.enterQuiescing_layoutOk _ (State.failRequest_layoutOk ok)
  · exact State.enterQuiescing_layoutOk _ (State.failRequest_layoutOk ok)
  · exact State.failRequest_layoutOk ok
  · next hm => exact State.returnToConfig_layoutOk _ hm ok (noBuild hm)

theorem State.checksComplete_layoutOk {image : ConfigImage} (hm : s.modes.mode = .activating) (ok : s.layoutOk) :
    (s.checksComplete image).layoutOk := by
  have composer := (s.checksComplete_only image).composer_eq
  have modes := s.checksComplete_modes image
  have noOwed := ok.owed_none (.inl (by rw [hm]; rfl))
  refine ok.next ?_ (s.checksComplete_only image).settings (by rw [composer]; exact ok.rules) ?_
    (by rw [(s.checksComplete_only image).ports_eq]; exact ok.plans.2) (fun _ => ?_) ?_
  · rw [modes]
    split <;> rfl
  · rw [modes]
    cases hf : image.failure s.map with
    | some f => exact nofun
    | none =>
      intro c p hp
      cases hp
      obtain ⟨table, contexts⟩ := ConfigImage.fallbackPlan_ok hf
      exact ⟨table, contexts, image.allSettings_class⟩
  · rw [composer]
    exact ok.early (by rw [hm]; rfl)
  · rw [composer, noOwed]
    exact nofun

/-! The build. -/

/-- While the wall has a tile a configuration is captured, and no source's class is below the slate's (R19, R75). -/
theorem State.layoutOk.slateLowest (ok : s.layoutOk) : s.slateLowest := by
  intro tiles i hi
  have captured : s.modes.captured ≠ none := fun none => tiles (by rw [State.geometry, none]; rfl)
  have slate : s.classOf Config.slate = 1 := ok.internal Config.slate (by decide) (by decide)
  rw [slate]
  by_cases hext : i < Config.externalSources
  · exact ok.external captured i hext
  · exact (ok.internal i (Nat.le_of_not_lt hext) (Nat.lt_succ_of_le hi)).ge

/-- A new build's draft keeps the rules: edits keep them (R53, R103). -/
theorem State.newBuild_rules {u : State} (ok : s.layoutOk) (composer : u.composer = s.composer) (sources : u.sources = s.sources)
    (wall : u.geometry = s.geometry) (target : Word) (attempt : Nat) (es : List Edit) (l : List Nat) :
    TableOk s.geometry s.classOf (u.newBuild target attempt es l).draft.windows := by
  have classes : u.classOf = s.classOf := State.classOf_congr sources
  have lowest : u.slateLowest := by
    unfold State.slateLowest
    rw [wall, classes]
    exact ok.slateLowest
  have live : TableOk u.geometry u.classOf u.composer.live.windows := by
    rw [wall, classes, composer]
    exact ok.live.1
  rw [← wall, ← classes]
  exact State.resolveEdits_tableOk lowest live es

theorem State.planPoint_layoutOk (ok : s.layoutOk) : s.planPoint.layoutOk := by
  rcases s.planPoint_composer with h | ⟨-, u, l, composer, sources, modes, h⟩
  · exact ok.step s.planPoint_only (by rw [h]; exact ok.rules) (by rw [h]) (by rw [h]; exact id)
  · refine ok.step s.planPoint_only (ok.rules.withBuild (State.newBuild_rules ok composer sources ?_ _ _ _ _) nofun nofun h)
      (by rw [h]) (by rw [h]; exact id)
    exact State.geometry_captured (by rw [modes])

theorem BuildRecord.takeBegun_routed {b : BuildRecord} (draft : RoutedOk b.draft.windows)
    (begun : ∀ p, b.inTake = some p → RoutedOk p.draft.windows) : RoutedOk b.takeBegun.draft.windows := by
  unfold BuildRecord.takeBegun
  cases hp : b.inTake with
  | none => exact draft
  | some p => exact begun p hp

theorem State.checkNext_tableOk (s : State) {b : BuildRecord} (ok : TableOk s.geometry s.classOf b.draft.windows)
    (begun : ∀ p, b.inTake = some p → RoutedOk p.draft.windows) {l : List BuildTake}
    {r : List BuildTake × Layout × List (Nat × Word)} (hr : s.checkNext b l = some r) :
    TableOk s.geometry s.classOf r.2.1.windows := by
  induction l generalizing r with
  | nil => cases hr
  | cons k l ih =>
    unfold State.checkNext at hr
    split at hr
    · obtain ⟨q, hq, rfl⟩ := Option.map_eq_some_iff.1 hr
      exact (ih hq : TableOk s.geometry s.classOf q.2.1.windows)
    · cases hr
      exact TakeCheck.result_tableOk (TakeCheck.toEnd_routed _ _ (BuildRecord.takeBegun_routed ok.routed begun)) ok

theorem State.checkBuildTake_layoutOk {b : BuildRecord} (hb : s.composer.build = some b) (run : b.status = .running)
    (ok : s.layoutOk) : (s.checkBuildTake b).layoutOk := by
  have composer := s.checkBuildTake_composer b
  obtain ⟨draft, -, begun⟩ := ok.draft b hb
  cases hr : s.ctlRead.checkNext b b.takes with
  | none =>
    rw [hr] at composer
    exact ok.step (s.checkBuildTake_only b) (by rw [composer]; exact ok.rules) (by rw [composer]) (by rw [composer]; exact id)
  | some r =>
    rw [hr] at composer
    have wall : s.ctlRead.geometry = s.geometry := State.geometry_captured (by rw [s.ctlRead_only.modes_eq])
    have classes : s.ctlRead.classOf = s.classOf := State.classOf_congr s.ctlRead_only.sources_eq
    have checked : TableOk s.geometry s.classOf r.2.1.windows := by
      rw [← wall, ← classes]
      exact State.checkNext_tableOk _ (by rw [wall, classes]; exact draft) begun hr
    refine ok.step (s.checkBuildTake_only b) (ok.rules.withBuild (b := { b with
      takes := r.1, draft := r.2.1, inTake := none, named := r.2.2 }) checked (fun ready => ?_) nofun composer)
      (by rw [composer]) (by rw [composer]; exact id)
    exact absurd (run.symm.trans ready) nofun

theorem State.buildComplete_layoutOk {b : BuildRecord} (hb : s.composer.build = some b) (ok : s.layoutOk) :
    (s.setBuild (some { b with status := .ready, draft := s.completeDraft b })).layoutOk := by
  obtain ⟨draft, -, begun⟩ := ok.draft b hb
  have table : TableOk s.geometry s.classOf (s.completeDraft b).windows := State.completeDraft_tableOk draft
  refine ok.step (s.setBuild_only _) (ok.rules.withBuild (b := { b with status := .ready, draft := s.completeDraft b }) table
    (fun _ => ⟨State.completeDraft_contextsOk ok.live.2 draft.pool_free, ?_⟩) begun rfl) rfl id
  exact State.plansNow_ok table

theorem State.grantTo_layoutOk (m : Master) (ok : s.layoutOk) : (s.grantTo m).layoutOk := by
  rcases s.grantTo_composer m with h | ⟨b, k, e, hb, h⟩
  · exact ok.step (s.grantTo_only m) (by rw [h]; exact ok.rules) (by rw [h]) (by rw [h]; exact id)
  · obtain ⟨draft, ready, begun⟩ := ok.draft b hb
    refine ok.step (s.grantTo_only m) (ok.rules.withBuild (b := { b with
      inTake := some (b.takeBegun.next (s.entryContext k) e) }) draft ready (fun p hp => ?_) h) (by rw [h]) (by rw [h]; exact id)
    cases hp
    exact TakeCheck.next_routed _ _ (BuildRecord.takeBegun_routed draft.routed begun)

/-! The sources. -/

theorem State.setSource_settings {i : Nat} {r : SourceRec} (hr : r.settings = (s.source i).settings) (j : Nat) :
    ((s.sources.set i r).getD j SourceRec.external).settings = (s.source j).settings := by
  by_cases hi : i < s.sources.length
  · rw [State.source_set _ hi]
    split
    · next hj => rw [hj, hr]
    · rfl
  · rw [List.set_eq_of_length_le (Nat.le_of_not_lt hi)]
    rfl

theorem State.setSource_layoutOk {i : Nat} {r : SourceRec} (hr : r.settings = (s.source i).settings) (ok : s.layoutOk) :
    (s.setSource i r).layoutOk := by
  have only := s.setSource_only i r
  refine ok.next (by rw [only.modes_eq]) (fun j => ?_) (by rw [only.composer_eq]; exact ok.rules)
    (by rw [only.modes_eq]; exact ok.passed) (by rw [only.ports_eq]; exact ok.plans.2)
    (by rw [only.modes_eq, only.composer_eq]; exact ok.early) (by rw [only.modes_eq, only.composer_eq]; exact ok.owed)
  rw [State.source, State.setSource_sources]
  exact State.setSource_settings hr j

theorem State.changeSource_layoutOk {i : Nat} {r : SourceRec} (g a : Bool) (hr : r.settings = (s.source i).settings)
    (ok : s.layoutOk) : (s.changeSource i r g a).layoutOk := by
  have only := s.changeSource_only i r g a
  obtain ⟨live, -, owed, -⟩ := Composer.layouts_eq (s.changeSource_layouts i r g a)
  refine ok.next (by rw [only.modes_eq]) (fun j => ?_) (ok.rules.congr (s.changeSource_layouts i r g a))
    (by rw [only.modes_eq]; exact ok.passed) (by rw [only.ports_eq]; exact ok.plans.2)
    (by rw [only.modes_eq, live]; exact ok.early) (by rw [only.modes_eq, owed]; exact ok.owed)
  rw [State.source, State.changeSource_sources]
  exact State.setSource_settings hr j

end Sys2Proof.Machine
end

section
-- Many short proofs follow one another: taken one at a time they need one thread's memory, not one's for each.
set_option Elab.async false
/-! PROOF. The settings of an activation applied to the sources (R75, R77). -/

namespace Sys2Proof.Machine

variable {s t u : State}

/-! One source. -/

theorem SourceRec.afterSettings_settings (r : SourceRec) (new : SourceSettings) : (r.afterSettings new).settings = new := by
  unfold SourceRec.afterSettings SourceRec.settingMoves
  dsimp only
  split_ifs <;> rfl

/-- The changes of state that new settings bring, one after another (R77). -/
def State.applyMoves (s : State) (i : Nat) (l : List SourceRec) : State := l.foldl (fun s r => s.changeSource i r false true) s

/-- New settings move a source through its records, or are noted where it does not move (R77). -/
theorem State.applySettings_eq (s : State) {i : Nat} (new : SourceSettings) (hi : i < s.sources.length) :
    s.applySettings i new =
      if (s.source i).settingMoves new = [] then s.setSource i { s.source i with settings := new }
      else s.applyMoves i ((s.source i).settingMoves new) := by
  have changed (r : SourceRec) : (s.changeSource i r false true).source i = r := by
    rw [State.source, State.changeSource_sources, State.source_set _ hi, if_pos rfl]
  unfold State.applySettings SourceRec.settingMoves State.andThen
  dsimp only
  cases old : (s.source i).settings.enabled with
  | false =>
    cases on : new.enabled with
    | true =>
      rw [changed]
      cases act : (s.source i).activity <;> rfl
    | false => rfl
  | true =>
    cases on : new.enabled with
    | false => rfl
    | true =>
      cases state : (s.source i).state with
      | locked =>
        cases cls : (s.source i).measuredClass with
        | none => simp
        | some c => by_cases above : new.declaredClass < c <;> simp [above, State.applyMoves]
      | overclass =>
        cases cls : (s.source i).measuredClass with
        | none => simp
        | some c => by_cases fits : c ≤ new.declaredClass <;> simp [fits, State.applyMoves]
      | disabled | absent | acquiring | lossHold => simp

theorem State.applyMoves_sources (s : State) (i : Nat) (l : List SourceRec) :
    (s.applyMoves i l).sources = match l.getLast? with
      | none => s.sources
      | some r => s.sources.set i r := by
  induction l generalizing s with
  | nil => rfl
  | cons r l ih =>
    refine (ih (s.changeSource i r false true)).trans ?_
    rw [List.getLast?_cons, State.changeSource_sources]
    cases hl : l.getLast? with
    | none => rfl
    | some q => exact List.set_set ..

/-- New settings leave the source as R77 says. -/
theorem State.applySettings_sources (s : State) {i : Nat} (new : SourceSettings) (hi : i < s.sources.length) :
    (s.applySettings i new).sources = s.sources.set i ((s.source i).afterSettings new) := by
  rw [State.applySettings_eq s new hi, SourceRec.afterSettings]
  by_cases none : (s.source i).settingMoves new = []
  · rw [if_pos none, none, State.setSource_sources]
    rfl
  · rw [if_neg none, State.applyMoves_sources]
    obtain ⟨r, hr⟩ := Option.ne_none_iff_exists'.mp (mt List.getLast?_eq_none_iff.mp none)
    rw [hr, List.getLastD_eq_getLast?, hr]
    rfl

/-! All external sources, in ascending index (R77). -/

theorem State.applyAllSettings_source (s : State) (i : Nat) (l : List SourceSettings) (hl : i + l.length ≤ s.sources.length)
    (j : Nat) : (s.applyAllSettings i l).source j =
      if i ≤ j ∧ j < i + l.length then (s.source j).afterSettings (l.getD (j - i) ⟨false, 1, none, 0⟩) else s.source j := by
  induction l generalizing s i with
  | nil => exact (if_neg (by simp)).symm
  | cons new l ih =>
    have hi : i < s.sources.length := by
      rw [List.length_cons] at hl
      omega
    have first : (s.applySettings i new).source j = if j = i then (s.source i).afterSettings new else s.source j := by
      rw [State.source, State.applySettings_sources s new hi, State.source_set _ hi]
    refine (ih (s.applySettings i new) (i + 1) ?_).trans ?_
    · rw [s.applySettings_sources_length]
      rw [List.length_cons] at hl
      omega
    · rw [first, List.length_cons]
      by_cases hj : j = i
      · rw [if_pos hj, if_neg (by omega), if_pos (by omega), hj, Nat.sub_self]
        rfl
      · rw [if_neg hj]
        by_cases inside : i + 1 ≤ j ∧ j < i + 1 + l.length
        · rw [if_pos inside, if_pos (by omega)]
          obtain ⟨k, rfl⟩ := Nat.exists_eq_add_of_le inside.1
          rw [show i + 1 + k - (i + 1) = k by omega, show i + 1 + k - i = k + 1 by omega]
          rfl
        · rw [if_neg inside, if_neg (by omega)]

theorem State.setInternalRate_source (s : State) (rate : Nat) (hl : s.sources.length = Config.allSources) (j : Nat) :
    (s.setInternalRate rate).source j =
      if j < Config.externalSources then s.source j
      else if j < Config.allSources then SourceRec.internal rate else SourceRec.external := by
  unfold State.source State.setInternalRate
  rw [setSources_sources, List.getD_eq_getElem?_getD, List.getD_eq_getElem?_getD]
  have size : (s.sources.take Config.externalSources).length = Config.externalSources := by
    rw [List.length_take, hl]
    rfl
  by_cases ext : j < Config.externalSources
  · rw [if_pos ext, List.getElem?_append_left (by rw [size]; exact ext), List.getElem?_take_of_lt ext]
  · rw [if_neg ext, List.getElem?_append_right (by rw [size]; exact Nat.le_of_not_lt ext), List.getElem?_replicate, size]
    have four : Config.allSources = Config.externalSources + 4 := rfl
    by_cases int : j < Config.allSources
    · rw [if_pos int, if_pos (by omega)]
      rfl
    · rw [if_neg int, if_neg (by omega)]
      rfl

/-- The sources once a capture's settings are in force (R75, R77). -/
theorem State.settingsInForce_source (s : State) (c : Captured) (hl : s.sources.length = Config.allSources)
    (hc : c.settings.length = Config.externalSources) (j : Nat) : (s.settingsInForce c).source j =
      if j < Config.externalSources then (s.source j).afterSettings (c.settings.getD j ⟨false, 1, none, 0⟩)
      else if j < Config.allSources then SourceRec.internal c.rate.millihertz else SourceRec.external := by
  have sources : (s.rateInForce c).sources = s.sources := (s.rateInForce_only c).sources_eq
  have before (k : Nat) : (s.rateInForce c).source k = s.source k := by rw [State.source, sources]; rfl
  have size : 0 + c.settings.length ≤ (s.rateInForce c).sources.length := by
    rw [sources, hl, hc]
    decide
  unfold State.settingsInForce State.andThen
  rw [State.setInternalRate_source _ _ (by rw [State.applyAllSettings_sources_length, sources, hl])]
  by_cases ext : j < Config.externalSources
  · rw [if_pos ext, if_pos ext, State.applyAllSettings_source _ _ _ size, if_pos (by rw [hc]; omega), before]
    rfl
  · rw [if_neg ext, if_neg ext]

end Sys2Proof.Machine
end

section
-- Many short proofs follow one another: taken one at a time they need one thread's memory, not one's for each.
set_option Elab.async false
/-! PROOF. Every step keeps the layouts in order, continued: the boundary and the resets (R61, R65, R135, R136, R140, R146, R188). -/

namespace Sys2Proof.Machine

variable {s t u : State}

/-! The boundary. -/

theorem Captured.startPlan_ok {c : Captured} {g : Geometry} {cls : Nat → Nat} {plan : List WindowRec}
    (ok : TableOk g cls plan ∧ ContextsOk plan) : TableOk g cls (c.startPlan plan) ∧ ContextsOk (c.startPlan plan) := by
  unfold Captured.startPlan
  split
  · exact ok
  · exact ⟨TableOk.cleared _ _, ContextsOk.cleared⟩

theorem Captured.startPlan_length {c : Captured} {plan : List WindowRec} (h : plan.length = Config.windowCount) :
    (c.startPlan plan).length = Config.windowCount := by
  unfold Captured.startPlan
  split
  · exact h
  · rfl

theorem State.planned_plans (s : State) (plan : List WindowRec) (n : Word) :
    (s.planned plan n).plans = s.plansNow (s.planned plan n).windows := rfl

/-- The ports take plans that are within the budgets. -/
theorem State.layoutReplaced_ports_ok (h : ∀ p ∈ s.composer.live.plans, planOk p) : ∀ q ∈ s.layoutReplaced.ports, planOk q.plan := by
  rw [State.layoutReplaced_ports]
  intro q hq
  obtain ⟨p, -, rfl⟩ := List.mem_map.mp hq
  exact planOk_getD h p.2

theorem State.fallbackCommit_layoutOk (n : Word) (tables : s.tablesOk) (owed : s.composer.fallbackOwed = true)
    (ok : s.layoutOk) : (s.fallbackCommit n).layoutOk ∧ (s.fallbackCommit n).composer.fallbackOwed = false := by
  have only := s.fallbackCommit_only n
  obtain ⟨live, build, free, fallback⟩ := Composer.layouts_of (s.fallbackCommit_layouts n)
  have late := (ok.owed owed).1
  have plan : (s.composer.fallbackPlan.getD Layout.cleared.windows).length = s.composer.live.windows.length ∧
      TableOk s.geometry s.classOf (s.composer.fallbackPlan.getD Layout.cleared.windows) ∧
      ContextsOk (s.composer.fallbackPlan.getD Layout.cleared.windows) := by
    cases hp : s.composer.fallbackPlan with
    | none => exact ⟨tables.live.1.symm, TableOk.cleared _ _, ContextsOk.cleared⟩
    | some p => exact ⟨(tables.fallback p hp).trans tables.live.1.symm, ok.fallback p hp⟩
  obtain ⟨table, contexts⟩ := s.planned_tableOk n plan.1 plan.2.1 plan.2.2
  have plans := State.plansNow_ok table
  refine ⟨ok.next (by rw [only.modes_eq]) only.settings ⟨live ▸ ⟨table, contexts⟩, build ▸ ok.draft, fallback ▸ ok.fallback,
    live ▸ plans⟩ (by rw [only.modes_eq]; exact ok.passed) ?_ ?_ ?_, free⟩
  · exact State.layoutReplaced_ports_ok plans
  · rw [only.modes_eq, late]
    exact nofun
  · rw [free]
    exact nofun

theorem State.commitBuild_layoutOk {b : BuildRecord} (n : Word) (hb : s.composer.build = some b) (ready : b.status = .ready)
    (late : s.modes.mode.early = false) (owed : s.composer.fallbackOwed = false) (ok : s.layoutOk) :
    (s.commitBuild b n).layoutOk ∧ (s.commitBuild b n).composer.fallbackOwed = false := by
  have only := s.commitBuild_only b n
  obtain ⟨live, build, free, fallback⟩ := Composer.layouts_of (s.commitBuild_layouts b n)
  obtain ⟨table, complete, -⟩ := ok.draft b hb
  obtain ⟨contexts, plans⟩ := complete ready
  refine ⟨ok.next (by rw [only.modes_eq]) only.settings ⟨live ▸ ⟨table, contexts⟩, by rw [build]; exact nofun,
    fallback ▸ ok.fallback, live ▸ plans⟩ (by rw [only.modes_eq]; exact ok.passed) ?_ ?_ ?_, free.trans owed⟩
  · rw [State.commitBuild_ports]
    intro q hq
    obtain ⟨p, -, rfl⟩ := List.mem_map.mp hq
    exact planOk_getD plans p.2
  · rw [only.modes_eq, late]
    exact nofun
  · rw [free, owed]
    exact nofun

theorem State.overrunBuild_layoutOk (b : BuildRecord) (n : Word) (owed : s.composer.fallbackOwed = false) (ok : s.layoutOk) :
    (s.overrunBuild b n).layoutOk ∧ (s.overrunBuild b n).composer.fallbackOwed = false := by
  have only := s.overrunBuild_only b n
  obtain ⟨live, -, free, -⟩ := Composer.layouts_of (s.overrunBuild_layouts b n)
  have none : (s.overrunBuild b n).composer.fallbackOwed = false := free.trans owed
  have rules := ok.rules.withoutBuild (s.overrunBuild_layouts b n)
  refine ⟨?_, none⟩
  rcases s.overrunBuild_modes b n with h | ⟨-, timer, h⟩
  · exact ok.stepModes only (by rw [h]) rules live (by rw [h]; exact id) (by rw [h]; exact fun c p => id)
      (by rw [none]; exact nofun)
  · exact ok.stepModes only (by rw [h]) rules live (by rw [h]; exact nofun) (by rw [h]; exact fun c p => id)
      (by rw [none]; exact nofun)

/-- A capture brings its settings and its start layout into force (R77, R135, R136). -/
theorem State.captureConfig_layoutOk {c : Captured} {plan : List WindowRec} (n : Word)
    (hp : s.modes.progress = .passed c plan) (noBuild : s.composer.build = none) (tables : s.tablesOk) (ok : s.layoutOk) :
    (s.captureConfig c plan n).layoutOk ∧ (s.captureConfig c plan n).composer.fallbackOwed = false := by
  obtain ⟨timer, modes⟩ := s.captureConfig_modes c plan n
  obtain ⟨live, build, free, fallback⟩ := Composer.layouts_of (s.captureConfig_layouts c plan n)
  obtain ⟨-, settingsLength, planLength⟩ : (Progress.passed c plan).sized := hp ▸ tables.progress
  obtain ⟨planTable, planContexts, classes⟩ := ok.passed c plan hp
  have sources := s.captureConfig_sources c plan n
  have source (j : Nat) : (s.captureConfig c plan n).source j = (s.settingsInForce c).source j := by
    rw [State.source, sources]; rfl
  have captured : (s.captureConfig c plan n).modes.captured = some c := by rw [modes]
  have wall : (s.captureConfig c plan n).geometry = ⟨c.cols, c.rows⟩ := by rw [State.geometry, captured]
  have settings (i : Nat) (hi : i < Config.externalSources) : ((s.captureConfig c plan n).source i).settings =
      c.settings.getD i ⟨false, 1, none, 0⟩ := by
    rw [source, State.settingsInForce_source _ _ tables.sources settingsLength, if_pos hi, SourceRec.afterSettings_settings]
  have internal (i : Nat) (low : Config.externalSources ≤ i) (high : i < Config.allSources) :
      (s.captureConfig c plan n).classOf i = 1 := by
    rw [State.classOf, source, State.settingsInForce_source _ _ tables.sources settingsLength, if_neg (Nat.not_lt.mpr low),
      if_pos high]
    rfl
  have lower (i : Nat) : (s.captureConfig c plan n).classOf i ≤ c.classOf i := by
    unfold Captured.classOf
    by_cases ext : i < Config.externalSources
    · rw [if_pos ext, State.classOf, settings i ext]
    · rw [if_neg ext]
      by_cases int : i < Config.allSources
      · exact (internal i (Nat.le_of_not_lt ext) int).le
      · rw [State.classOf, source, State.settingsInForce_source _ _ tables.sources settingsLength, if_neg ext, if_neg int]
        exact Nat.zero_le 1
  have before := s.beforeStart_only c plan
  have beforeCaptured : (s.beforeStart c plan).modes.captured = some c := by
    rw [before.modes_eq, (s.settingsInForce_only c).modes_eq, State.rateInForce_modes]
  have beforeWall : (s.beforeStart c plan).geometry = ⟨c.cols, c.rows⟩ := by rw [State.geometry, beforeCaptured]
  have beforeClass : (s.beforeStart c plan).classOf = (s.captureConfig c plan n).classOf :=
    State.classOf_congr (before.sources_eq.trans sources.symm)
  obtain ⟨found, -, -, -⟩ := Composer.layouts_of (s.beforeStart_layouts c plan)
  have length : (c.startPlan plan).length = (s.beforeStart c plan).composer.live.windows.length := by
    rw [Captured.startPlan_length planLength, found]
    exact tables.live.1.symm
  obtain ⟨startTable, startContexts⟩ := Captured.startPlan_ok (c := c) ⟨planTable.lower lower, planContexts⟩
  obtain ⟨table, contexts⟩ := (s.beforeStart c plan).planned_tableOk n length startTable startContexts
  have plans : ∀ p ∈ ((s.beforeStart c plan).planned (c.startPlan plan) n).plans, planOk p := by
    refine State.plansNow_ok ?_
    rw [beforeWall, beforeClass]
    exact table
  refine ⟨?_, free⟩
  exact {
    live := by rw [wall, live]; exact ⟨table, contexts⟩
    draft := by rw [build, noBuild]; exact nofun
    fallback := by
      rw [wall, fallback]
      intro p hp
      cases hp
      exact ⟨planTable.lower lower, planContexts⟩
    passed := by rw [modes]; exact nofun
    plans := by
      rw [live, (s.captureConfig_ends_only c plan n).ports_eq]
      exact ⟨plans, State.layoutReplaced_ports_ok plans⟩
    external := fun _ i hi => by
      have get : c.settings[i]? = some c.settings[i] := List.getElem?_eq_getElem (by rw [settingsLength]; exact hi)
      rw [State.classOf, settings i hi, List.getD_eq_getElem?_getD, get]
      exact classes _ (List.mem_of_getElem? get)
    settings := fun d hd i hi => by
      cases captured.symm.trans hd
      exact settings i hi
    internal := internal
    early := by rw [modes]; exact nofun
    owed := by rw [free]; exact nofun }

theorem State.quiesceDone_layoutOk (owed : s.composer.fallbackOwed = false) (ok : s.layoutOk) : s.quiesceDone.layoutOk := by
  have only := s.quiesceDone_only
  have modes := s.quiesceDone_modes
  have composer := only.composer_eq
  refine ok.stepModes only (by rw [modes]) (by rw [composer]; exact ok.rules) (by rw [composer]) (by rw [modes]; exact nofun)
    (by rw [modes]; exact fun c p => id) ?_
  rw [composer, owed]
  exact nofun

/-- A build stands only in a mode that has left CONFIG and ACTIVATING (R48). -/
def State.buildLate (s : State) : Prop := s.composer.build ≠ none → s.modes.mode.mayBuild = true

theorem Mode.not_early_of_mayBuild {m : Mode} (h : m.mayBuild = true) : m.early = false ∧ m ≠ .activating := by
  cases m <;> simp_all [Mode.mayBuild, Mode.early]

theorem State.composerBoundary_layoutOk (n : Word) (tables : s.tablesOk) (build : s.buildLate) (ok : s.layoutOk) :
    (s.composerBoundary n).layoutOk ∧ (s.composerBoundary n).composer.fallbackOwed = false := by
  refine s.composerBoundary_cases (P := fun t => t.layoutOk ∧ t.composer.fallbackOwed = false) n
    (fun owed => State.fallbackCommit_layoutOk n tables owed ok) (fun c plan _ hm hp => ?_)
    (fun b owed hb ready => ?_) (fun b owed _ _ => State.overrunBuild_layoutOk b n owed ok) (fun owed _ => ⟨ok, owed⟩)
  · refine State.captureConfig_layoutOk n hp ?_ tables ok
    by_contra hb
    exact (Mode.not_early_of_mayBuild (build hb)).2 hm
  · have late := (Mode.not_early_of_mayBuild (build (by rw [hb]; exact nofun))).1
    exact State.commitBuild_layoutOk n hb ready late owed ok

theorem State.boundary_layoutOk (tables : s.tablesOk) (build : s.buildLate) (ok : s.layoutOk) : s.boundary.layoutOk := by
  have acted := s.boundary_from (P := fun u => u.layoutOk ∧ u.tablesOk ∧ u.buildLate)
    (Q := fun u => u.layoutOk ∧ u.composer.fallbackOwed = false)
    ⟨(s.setTiming_only _).layoutOk ok, (s.setTiming_only _).tablesOk tables, build⟩
    (fun u n ⟨ok, tables, build⟩ => State.composerBoundary_layoutOk n tables build ok)
    (fun u _ ⟨ok, owed⟩ => ⟨State.quiesceDone_layoutOk owed ok, by rw [u.quiesceDone_only.composer_eq]; exact owed⟩)
    (fun u v only _ ports ⟨ok, owed⟩ => ?_)
  · exact acted.1
  · have composer := only.composer_eq
    refine ⟨ok.next (by rw [only.modes_eq]) only.settings (by rw [composer]; exact ok.rules)
      (by rw [only.modes_eq]; exact ok.passed) ?_ (by rw [only.modes_eq, composer]; exact ok.early)
      (by rw [only.modes_eq, composer]; exact ok.owed), by rw [composer]; exact owed⟩
    rw [ports]
    intro q hq
    obtain ⟨p, hp, rfl⟩ := List.mem_map.mp hq
    exact ok.plans.2 p.1 (List.fst_mem_of_mem_zipIdx hp)

/-! Every move. -/

theorem Work.layoutOk (h : Work s t) (journal : s.journalOk) (tables : s.tablesOk) (ok : s.layoutOk) : t.layoutOk := by
  have build : s.buildLate := fun hb => (journal.build hb).1
  cases h with
  | pending q => exact (s.setPending_only q).layoutOk ok
  | clock t => exact (s.setNow_only t).layoutOk ok
  | freeIdx n => exact (s.setFreeIdx_only n).layoutOk ok
  | completed bs => exact (s.complete_only bs).layoutOk ok
  | raise c => exact (s.raise_only c).layoutOk ok
  | event e => exact (s.handEvent_only e).layoutOk ok
  | serve =>
    have modes := s.serve_modes
    have composer := s.serve_only.composer_eq
    exact ok.stepModes s.serve_only (by rw [modes]) (by rw [composer]; exact ok.rules) (by rw [composer])
      (by rw [modes]; exact id) (by rw [modes]; exact fun c p => id) (by rw [modes, composer]; exact ok.owed)
  | runRequest => exact State.runRequest_layoutOk ok
  | holdRequest => exact State.holdRequest_layoutOk ok
  | fallbackRequest => exact State.fallbackRequest_layoutOk ok
  | quiesceRequest => exact State.quiesceRequest_layoutOk ok
  | configRequest =>
    refine State.configRequest_layoutOk ok fun hm => ?_
    by_contra hb
    have may := build hb
    rw [hm] at may
    cases may
  | posts mask h => exact (s.handlePosts_only _).layoutOk ok
  | cancels mask => exact (s.cancelSlots_only _).layoutOk ok
  | continuePosts h => exact s.continuePosts_only.layoutOk ok
  | release r n => exact (s.releaseRing_only r n).layoutOk ok
  | ctlRead => exact s.ctlRead_only.layoutOk ok
  | commitDone => exact s.commitDone_only.layoutOk ok
  | readingDone => exact ok.next rfl (fun _ => rfl) ok.rules ok.passed ok.plans.2 ok.early ok.owed
  | checksComplete image h hc =>
    refine State.checksComplete_layoutOk ((journal.mode.progress).mp ?_) ok
    rw [h]
    exact nofun
  | checkBuildTake b h hr =>
    obtain ⟨⟨d, hd, run, -⟩, -⟩ := s.readsBuild_iff.mp hr
    cases h.symm.trans hd
    exact State.checkBuildTake_layoutOk h run ok
  | buildComplete b h hr hc => exact State.buildComplete_layoutOk h ok
  | writeSection n => exact (s.writeSection_only n).layoutOk ok
  | completeMirror m => exact (s.completeMirror_only m).layoutOk ok
  | publishSource m i => exact (s.publishSource_only m i).layoutOk ok
  | copySlotPart m p => exact (s.copySlotPart_only m p).layoutOk ok
  | writeEntry r => exact (s.writeEntry_only r).layoutOk ok
  | flushRing r => exact (s.flushRing_only r).layoutOk ok
  | grant m => exact State.grantTo_layoutOk m ok
  | planPoint h => exact State.planPoint_layoutOk ok
  | boundary => exact State.boundary_layoutOk tables build ok
  | timing v h => exact (s.setTiming_only v).layoutOk ok
  | setSource i r hr hs => exact State.setSource_layoutOk hs ok
  | changeSource i r g hr hs => exact State.changeSource_layoutOk g false hs ok
  | supervisionFallback h => exact State.enterFallback_layoutOk _ ok

theorem State.softReset_layoutOk (ok : s.layoutOk) : s.softReset.layoutOk := by
  have composer := s.softReset_composer
  have modes := s.softReset_modes
  refine ok.next (by rw [modes]; rfl) s.softReset_only.settings ?_ (by rw [modes]; exact nofun) ?_ (fun _ => by rw [composer]; rfl)
    (by rw [composer]; exact nofun)
  · rw [composer]
    exact ⟨⟨TableOk.cleared _ _, ContextsOk.cleared⟩, nofun, nofun, nofun⟩
  · rw [s.softReset_ports]
    intro q hq
    obtain ⟨p, -, rfl⟩ := List.mem_map.mp hq
    exact planOk_nil

theorem State.powerOn_layoutOk (s : State) : s.powerOn.layoutOk :=
  State.reset_layoutOk.next rfl (fun _ => rfl) State.reset_layoutOk.rules nofun State.reset_layoutOk.plans.2 (fun _ => rfl) nofun

theorem State.linkReset_layoutOk (ok : s.layoutOk) : s.linkReset.layoutOk := by
  have modes := s.linkReset_modes
  have rules : s.linkReset.composer.rulesOk s.geometry s.classOf ∧ s.linkReset.composer.live = s.composer.live ∧
      s.linkReset.composer.fallbackOwed = s.composer.fallbackOwed := by
    rcases s.linkReset_composer with ⟨-, h⟩ | ⟨b, u, -, composer, sources, wall, h⟩
    · rw [h]
      exact ⟨ok.rules, rfl, rfl⟩
    · refine ⟨ok.rules.withBuild (State.newBuild_rules ok composer sources wall.symm _ _ _ _) nofun nofun h, ?_, ?_⟩ <;> rw [h]
  refine ok.stepModes s.linkReset_only (by rw [modes]) rules.1 rules.2.1 (by rw [modes]; exact id)
    (by rw [modes]; exact fun c p => id) ?_
  rw [modes, rules.2.2]
  exact ok.owed

theorem Move.layoutOk (h : Move s t) (journal : s.journalOk) (tables : s.tablesOk) (ok : s.layoutOk) : t.layoutOk := by
  cases h with
  | work w => exact w.layoutOk journal tables ok
  | queue q h => exact (s.setWaiting_only q).layoutOk ok
  | taken i h => exact (takeRamAccess_only i _).layoutOk ((s.setWaiting_only []).layoutOk ok)
  | part first rest r h => exact (State.setWaiting_only _ _).layoutOk ((servePart_only first s).layoutOk ok)
  | causes v => exact (s.setCauses_only v).layoutOk ok
  | enables v => exact (s.takeCauseenWrite_only v).layoutOk ok
  | fields p i => exact ok.stepModes (s.modectl_only false p i) rfl ok.rules rfl id (fun c p => id) ok.owed
  | softReset h => exact State.softReset_layoutOk ok
  | powerOn => exact s.powerOn_layoutOk
  | clearDone h =>
    exact ok.next rfl (fun _ => rfl) ok.rules ok.passed ok.plans.2 (fun _ => ok.early (by rw [h]; rfl)) (fun owed => by
      have none := ok.owed_none (.inl (by rw [h]; rfl))
      exact absurd (none.symm.trans owed) Bool.false_ne_true)
  | linkReset => exact State.linkReset_layoutOk ok
  | switches p h => exact (s.setSwitches_only p).layoutOk ok
  | linkReturn => exact ok.next rfl (fun _ => rfl) ok.rules ok.passed ok.plans.2 ok.early ok.owed

end Sys2Proof.Machine
end

section
-- Many short proofs follow one another: taken one at a time they need one thread's memory, not one's for each.
set_option Elab.async false
/-! PROOF. O43: the scaler contexts are exclusive and every step keeps the layouts in order. -/

namespace Sys2Proof.Machine

/-- Settles O43: the assignment from its own lemmas, and the rules of the layouts through every move of a step. -/
theorem scalerContextsAreExclusive : Obligations.ScalerContextsAreExclusive := by
  unfold Obligations.ScalerContextsAreExclusive
  refine ⟨?_, fun w => rfl, scalersExhausted_iff, ?_⟩
  · intro live draft same pool below holds alone
    have h : ContextsApart live := ⟨below, alone⟩
    exact ⟨assignContexts_same.1, fun i _ kept => assignContexts_kept holds kept.1 kept.2,
      fun i hi hd new => assignContexts_new h pool hi hd new, fun i _ => assignContexts_holder h holds pool i,
      h.assigned.below, h.assigned.alone⟩
  · intro s t journal tables layout move
    have keeps : ∀ u v : State, Move u v → u.journalOk ∧ u.tablesOk ∧ u.layoutOk → v.journalOk ∧ v.tablesOk ∧ v.layoutOk :=
      fun u v m ⟨j, k, l⟩ => ⟨m.journalOk j, m.tablesOk k, m.layoutOk j k l⟩
    exact (step_keeps keeps s t ⟨journal, tables, layout⟩ move).2.2

end Sys2Proof.Machine
end

section
-- Many short proofs follow one another: taken one at a time they need one thread's memory, not one's for each.
set_option Elab.async false
/-! PROOF. A boundary in its parts, and how it ends: the output frames, the header write and the schedule (R24, R114). -/

namespace Sys2Proof.Machine

variable {s t u : State}

/-! Output frames (R23, R24). -/

theorem SourceRec.activeArea_eq (r : SourceRec) :
    r.activeArea = ((r.qualified.map (·.width)).getD 1920, (r.qualified.map (·.height)).getD 1080) := by
  unfold SourceRec.activeArea
  cases r.qualified <;> rfl

theorem pictureOf_slate_area (s : State) (f : Fragment) (pic : Picture) :
    (if pic = .slate then (1920, 1080) else s.areaOf f.shown) =
      (if pic = .slate then 1920 else ((s.source f.shown).qualified.map (·.width)).getD 1920,
        if pic = .slate then 1080 else ((s.source f.shown).qualified.map (·.height)).getD 1080) := by
  split
  · rfl
  · exact (s.source f.shown).activeArea_eq

/-- A port shows a fragment as the state of its shown source asks, in every state with the same sources, layout and wall. -/
theorem State.showFragment_shows (s : State) (i : Nat) (f : Fragment) (sources : t.sources = s.sources)
    (composer : t.composer = s.composer) (geometry : t.geometry = s.geometry) :
    ShowsFragment t i (s.showFragment i (s.geometry.tileRect i) f) := by
  have source : t.source = s.source := by unfold State.source; rw [sources]
  refine ⟨?_, ?_, rfl, ?_, ?_, ?_⟩
  · rw [source]; rfl
  · rw [source]; rfl
  · rw [composer]; exact ⟨rfl, rfl⟩
  · rw [source, composer]
    have region := (windowAt s.composer.live.windows f.window).region_over
      (if pictureOf (s.source f.shown).state = .slate then (1920, 1080) else s.areaOf f.shown)
      (decide (pictureOf (s.source f.shown).state = .slate) || f.shown == Config.slate)
    rw [pictureOf_slate_area] at region
    simp only [Bool.or_eq_true, decide_eq_true_eq, beq_iff_eq] at region
    unfold State.showFragment
    simp only [pictureOf_slate_area]
    exact region
  · rw [geometry]
    exact sourceRect_part ..

theorem State.beginOutputFrames_port (s : State) (i : Nat) : s.beginOutputFrames.ports[i]? =
    s.ports[i]?.map (fun p => { p with output := p.plan.map (s.showFragment i (s.geometry.tileRect i)) }) := by
  simp [State.beginOutputFrames, Function.comp_def]

/-! Plans and header writes of the boundary (R16, R21, R185). -/

theorem State.planOfPort_takePlans (s : State) {i : Nat} (hi : i < s.ports.length) :
    s.takePlans.planOfPort i = s.composer.live.plans.getD i [] := by
  simp [State.planOfPort, State.takePlans, List.getD_eq_getElem?_getD, hi]

theorem State.handHeaders_status (s : State) (l : List HeaderWrite) : (s.handHeaders l).status =
    if s.map = none then s.status else { s.status with headerWrites := s.status.headerWrites ++ l } := by
  unfold State.handHeaders
  cases s.map <;> rfl

/-! How a boundary ends. -/

/-- The ports begin their frames, the current frame is handed on and the next boundary is scheduled (R24, R114, R185). -/
def State.framesBegun (s : State) : State := s.beginOutputFrames.writeFrame.andThen fun s => s.setTiming s.timing.next

/-- The part of a boundary after the composer's: QUIESCING ends, and the frames begin (R114, R142). -/
def State.boundaryRest (s : State) : State := (if s.modes.mode = .quiescing then s.quiesceDone else s).framesBegun

/-- The boundary is taken: the clock has reached it and the counter advanced (R114). -/
abbrev State.counted (s : State) : State :=
  { s with now := max s.now s.timing.nextBoundary, timing := s.timing.atBoundary }

theorem exec_boundary (s : State) :
    exec .boundary s = .next (s.counted.composerBoundary (s.timing.frame + 1)).boundaryRest := rfl

theorem State.counted_only (s : State) : OnlyChanges [.now, .timing] s s.counted :=
  ((s.reach_only s.timing.nextBoundary).mono (by decide)).next (State.setTiming_only _ s.timing.taken) (by decide)

theorem Timing.next_atBoundary (t : Timing) : t.atBoundary.next = t.afterBoundary := rfl

theorem State.framesBegun_only (s : State) : OnlyChanges [.ports, .timing, .status] s s.framesBegun :=
  ((s.beginOutputFrames_only.mono (by decide)).next (State.writeFrame_only _) (by decide)).next
    (State.setTiming_only _ _) (by decide)

theorem State.framesBegun_timing (s : State) : s.framesBegun.timing = s.timing.next := by
  change (State.writeFrame _).timing.next = _
  rw [(State.writeFrame_only _).timing_eq, s.beginOutputFrames_only.timing_eq]

theorem State.framesBegun_ports (s : State) : s.framesBegun.ports = s.beginOutputFrames.ports :=
  (State.writeFrame_only _).ports_eq

theorem State.framesBegun_status (s : State) : s.framesBegun.status = if s.map = none then s.status
    else { s.status with headerWrites := s.status.headerWrites ++ [.frame s.timing.frame] } :=
  s.beginOutputFrames.handHeaders_status _

theorem State.framesBegun_begins (s : State) {plans : Nat → List Fragment} (length : s.ports.length = Config.tilePorts)
    (held : ∀ i, i < Config.tilePorts → s.planOfPort i = plans i) : BeginsFrames plans s.framesBegun := by
  have only := s.framesBegun_only
  intro i hi
  have port : s.ports[i]? = some s.ports[i] := List.getElem?_eq_getElem (by rw [length]; exact hi)
  have plan : s.ports[i].plan = plans i := by
    rw [← held i hi, State.planOfPort, List.getD_eq_getElem?_getD, port]
    rfl
  have begun := s.framesBegun_ports ▸ s.beginOutputFrames_port i
  rw [port] at begun
  refine ⟨_, begun, plan, ?_, ?_⟩
  · rw [List.map_map]
    exact List.map_id _
  · intro f hf
    obtain ⟨g, -, rfl⟩ := List.mem_map.1 hf
    exact State.showFragment_shows s i g only.sources_eq only.composer_eq (State.geometry_congr only.modes_eq)

theorem State.planOfPort_congr (h : t.ports = s.ports) (i : Nat) : t.planOfPort i = s.planOfPort i := by
  unfold State.planOfPort
  rw [h]

/-- How a boundary ends, from the state `u` in which the composer has acted (R24, R114, R142, R185). -/
theorem State.boundaryEnds {plans : Nat → List Fragment} (timing : u.timing = s.timing.atBoundary)
    (now : u.now = max s.now s.timing.nextBoundary) (mode : u.modes.mode = .quiescing ↔ s.modes.mode = .quiescing)
    (map : u.map = s.map) (length : u.ports.length = Config.tilePorts)
    (held : ∀ i, i < Config.tilePorts → u.planOfPort i = plans i) : BoundaryEnds plans s u u.boundaryRest := by
  have rest : u.boundaryRest = (if s.modes.mode = .quiescing then u.quiesceDone else u).framesBegun := by
    unfold State.boundaryRest
    simp only [mode]
  rw [rest]
  by_cases hm : s.modes.mode = .quiescing
  · rw [if_pos hm]
    have only := u.quiesceDone_only
    have mapped : u.quiesceDone.map = s.map := (State.map_congr (by rw [u.quiesceDone_modes])).trans map
    have done : u.quiesceDone.status = u.journalDone.status := (u.quiesceDone_spec (mode.2 hm)).frame.status_eq
    refine ⟨⟨timing, now⟩, ?_, ?_, fun _ => ⟨_, u.quiesceDone_spec (mode.2 hm), u.quiesceDone.framesBegun_only⟩,
      fun h => absurd hm h, ?_⟩
    · rw [State.framesBegun_timing, only.timing_eq, timing, Timing.next_atBoundary]
    · refine u.quiesceDone.framesBegun_begins (by rw [only.ports_eq]; exact length) (fun i hi => ?_)
      rw [State.planOfPort_congr only.ports_eq, held i hi]
    · dsimp only
      rw [State.framesBegun_status, if_pos hm, mapped, done, only.timing_eq, timing]
      rfl
  · rw [if_neg hm]
    refine ⟨⟨timing, now⟩, ?_, u.framesBegun_begins length held, fun h => absurd h hm, fun _ => u.framesBegun_only, ?_⟩
    · rw [State.framesBegun_timing, timing, Timing.next_atBoundary]
    · dsimp only
      rw [State.framesBegun_status, if_neg hm, map, timing]
      rfl

end Sys2Proof.Machine
end

section
-- Many short proofs follow one another: taken one at a time they need one thread's memory, not one's for each.
set_option Elab.async false
/-! PROOF. O44: a boundary with nothing to commit, and the commit writer's grants (R114, R184, R185). -/

namespace Sys2Proof.Machine

variable {s t u : State}

/-! What the composer does at a boundary (R61, R65, R135, R140). -/

section composer

variable {n : Word} (owed : s.composer.fallbackOwed = false)
  (quiet : s.modes.mode = .activating → ∀ c p, s.modes.progress ≠ .passed c p)

include owed quiet

theorem State.composerBoundary_idle (none : s.composer.build = none) : s.composerBoundary n = s := by
  refine s.composerBoundary_cases (P := fun t => t = s) n (fun h => ?_) (fun c p _ hm hp => ?_) (fun b _ hb _ => ?_)
    (fun b _ hb _ => ?_) (fun _ _ => rfl)
  · rw [owed] at h; cases h
  · exact absurd hp (quiet hm c p)
  · rw [none] at hb; cases hb
  · rw [none] at hb; cases hb

theorem State.composerBoundary_ready {b : BuildRecord} (build : s.composer.build = some b) (ready : b.status = .ready) :
    s.composerBoundary n = s.commitBuild b n := by
  refine s.composerBoundary_cases (P := fun t => t = s.commitBuild b n) n (fun h => ?_) (fun c p _ hm hp => ?_)
    (fun d _ hd _ => ?_) (fun d _ hd hr => ?_) (fun _ h => ?_)
  · rw [owed] at h; cases h
  · exact absurd hp (quiet hm c p)
  · rw [Option.some.inj (build.symm.trans hd)]
  · rw [← Option.some.inj (build.symm.trans hd), ready] at hr; cases hr
  · rw [build] at h; cases h

theorem State.composerBoundary_running {b : BuildRecord} (build : s.composer.build = some b) (running : b.status = .running) :
    s.composerBoundary n = s.overrunBuild b n := by
  refine s.composerBoundary_cases (P := fun t => t = s.overrunBuild b n) n (fun h => ?_) (fun c p _ hm hp => ?_)
    (fun d _ hd hr => ?_) (fun d _ hd _ => ?_) (fun _ h => ?_)
  · rw [owed] at h; cases h
  · exact absurd hp (quiet hm c p)
  · rw [← Option.some.inj (build.symm.trans hd), running] at hr; cases hr
  · rw [Option.some.inj (build.symm.trans hd)]
  · rw [build] at h; cases h

end composer

theorem State.composerBoundary_owed (owed : s.composer.fallbackOwed = true) (n : Word) :
    s.composerBoundary n = s.fallbackCommit n := by
  unfold State.composerBoundary
  rw [if_pos owed]

theorem State.composerBoundary_activates (owed : s.composer.fallbackOwed = false) (mode : s.modes.mode = .activating)
    {c : Captured} {plan : List WindowRec} (progress : s.modes.progress = .passed c plan) (n : Word) :
    s.composerBoundary n = s.captureConfig c plan n := by
  unfold State.composerBoundary
  rw [owed, mode, progress]
  rfl

/-! The commit writer (R184, R185). -/

theorem State.sectionArea_of_map {m : SectionMap} (h : s.map = some m) (n : Nat) : s.sectionArea n = sectionOf m n := by
  unfold State.sectionArea
  rw [h]

theorem State.commitDone_eq (s : State) : s.commitDone =
    { s.ctlWrites (s.status.headerWrites.map s.headerBlock) with status := { s.status with headerWrites := [] } } := by
  have status := (s.ctlWrites_only (s.status.headerWrites.map s.headerBlock)).status_eq
  unfold State.commitDone State.modStatus
  rw [status]
  rfl

theorem State.commitDone_nothing (h : s.status.headerWrites = []) : s.commitDone = s := by
  unfold State.commitDone
  rw [h]
  change { s with status := { s.status with headerWrites := [] } } = s
  rw [← h]

theorem State.commitGrant_nothing (h : s.status.headerWrites = []) :
    s.grantTo .commitWriter = { s with lastServed := .controller } := by
  change s.commitGrant = _
  unfold State.commitGrant
  rw [h]
  rfl

theorem State.commitGrant_next {h : HeaderWrite} {l : List HeaderWrite} (next : s.status.headerWrites = h :: l) :
    s.grantTo .commitWriter = { s with
      ram := Memory.write s.ram (s.headerBlock h).1 (s.headerBlock h).2, lastServed := .controller
      status := { s.status with headerWrites := l } } := by
  change s.commitGrant = _
  unfold State.commitGrant
  rw [next]
  rfl

theorem StatusWriter.frameWaits_iff (w : StatusWriter) : w.frameWaits = true ↔ ∃ n, .frame n ∈ w.headerWrites := by
  unfold StatusWriter.frameWaits
  rw [List.any_eq_true]
  constructor
  · rintro ⟨h, mem, is⟩
    cases h with
    | frame n => exact ⟨n, mem⟩
    | marker m => cases is
  · rintro ⟨n, mem⟩
    exact ⟨_, mem, rfl⟩

/-- The frame's write is made alone where the status writer has no slot table header to write (R184, R185). -/
theorem exec_slotTableWritten_frame {m : SectionMap} (map : s.map = some m) (frame : s.status.frameWaits = true)
    (granted : s.readerGranted = true)
    (alone : s.writerGranted = false ∨ (3 ∉ s.status.toRewrite ∧ s.status.slotHeaderDirty = false)) :
    exec (.slotTableWritten .header) s = .next s.commitDone.resume := by
  change execSlotTableWritten .header s = _
  unfold execSlotTableWritten
  rw [map]
  dsimp only
  have whole : (s.writerGranted && s.status.toRewrite.contains 3) = false := by
    rcases alone with h | ⟨h, -⟩
    · rw [h]; rfl
    · simp [h]
  have header : (s.writerGranted && s.status.slotWork .header) = false := by
    rcases alone with h | ⟨-, h⟩
    · rw [h]; rfl
    · change (s.writerGranted && s.status.slotHeaderDirty) = false
      rw [h, Bool.and_false]
  rw [whole, header, granted, frame]
  rfl

/-- Settles O44: the boundary in its parts, the composer idle; and the commit writer's grants. -/
theorem boundaryWithoutBuildOnlyAdvances : Obligations.BoundaryWithoutBuildOnlyAdvances := by
  unfold Obligations.BoundaryWithoutBuildOnlyAdvances
  refine ⟨fun s none owed calm quiet length => ?_, fun s m map => ⟨fun n => ?_, fun k => ?_, s.commitDone_eq, fun h l => State.commitGrant_next⟩,
    fun s h => ⟨State.commitDone_nothing h, State.commitGrant_nothing h⟩, StatusWriter.frameWaits_iff,
    fun s m => exec_slotTableWritten_frame⟩
  · have ends : BoundaryEnds s.planOfPort s s.counted s.counted.boundaryRest :=
      State.boundaryEnds rfl rfl Iff.rfl rfl length (fun _ _ => rfl)
    refine ⟨s.counted.boundaryRest, ?_, ends.timing, ?_, ends.ports, ?_, ?_⟩
    · rw [exec_boundary, State.composerBoundary_idle (s := s.counted) owed quiet none]
    · exact (ends.otherwise calm).now_eq
    · have status := ends.status
      rw [if_neg calm] at status
      exact status
    · exact (s.counted_only.mono (by decide)).next (ends.otherwise calm) (by decide)
  · change ((s.sectionArea 3).start, bytesWord n) = _
    rw [State.sectionArea_of_map map]
  · change (s.markerPlace k, bytesBool true) = _
    unfold State.markerPlace State.mirrorArea
    rw [map]
    rfl

end Sys2Proof.Machine
end

section
-- Many short proofs follow one another: taken one at a time they need one thread's memory, not one's for each.
set_option Elab.async false
/-! PROOF. A layout replaced at a boundary (R21, R22, R61 to R64, R136, R140): O45 and O47. -/

namespace Sys2Proof.Machine

variable {s t u : State}

/-! The check after a commit changes the edits alone (R101). -/

/-- The composer but for its pending edits and their numbering. -/
def Composer.besideEdits (c : Composer) : Composer := { c with pendingEdits := [], editSerial := 0 }

theorem foldl_besideEdits {α : Type} {step : Composer → α → Composer} (h : ∀ c a, (step c a).besideEdits = c.besideEdits)
    (l : List α) (c : Composer) : (l.foldl step c).besideEdits = c.besideEdits := by
  induction l generalizing c with
  | nil => rfl
  | cons a l ih => exact (ih _).trans (h c a)

theorem Composer.commitCheck_besideEdits (c : Composer) (st : Nat → SourceState) :
    (c.commitCheck st).besideEdits = c.besideEdits := by
  refine foldl_besideEdits (fun c p => ?_) _ c
  split
  · rfl
  · split <;> rfl

/-! A replaced layout (R21, R22, R101, R185). -/

/-- The layout is replaced up to the check that follows. -/
theorem State.layoutReplaced_before (s : State) : ∃ w : State, s.layoutReplaced = w.commitCheck ∧ w.composer = s.composer ∧
    w.status = (if s.map = none then s.status else s.status.replaced) := by
  refine ⟨_, rfl, ?_, ?_⟩
  · rw [(State.beginRewrites_only _).composer_eq, (State.handHeaders_only _ _).composer_eq, s.takePlans_only.composer_eq]
  · have map : (s.takePlans.handHeaders [.marker .windowTable, .marker .tilePlans, .marker .filterList]).map = s.map :=
      State.map_congr (by rw [(State.handHeaders_only _ _).modes_eq, s.takePlans_only.modes_eq])
    have rewrites := State.beginRewrites_rewrites
      (s.takePlans.handHeaders [.marker .windowTable, .marker .tilePlans, .marker .filterList])
    unfold RewritesBegin at rewrites
    rw [map, State.handHeaders_status] at rewrites
    rw [rewrites]
    change (if s.map = none then if s.map = none then _ else _ else _) = _
    cases h : s.map with
    | none => rfl
    | some m =>
      have headers : s.takePlans.map ≠ none := by rw [State.map_congr (s := s) (by rw [s.takePlans_only.modes_eq]), h]; nofun
      rw [if_neg headers]
      rfl

theorem State.layoutReplaced_besideEdits (s : State) : s.layoutReplaced.composer.besideEdits = s.composer.besideEdits := by
  obtain ⟨w, eq, composer, -⟩ := s.layoutReplaced_before
  rw [eq, ← composer]
  exact Composer.commitCheck_besideEdits _ _

theorem State.layoutReplaced_edits (s : State) :
    EditsAfterCheck s.composer.pendingEdits s.composer.editSerial s.layoutReplaced := by
  obtain ⟨w, eq, composer, -⟩ := s.layoutReplaced_before
  rw [eq, ← composer]
  exact w.commitCheck_edits

theorem State.layoutReplaced_status (s : State) :
    s.layoutReplaced.status = if s.map = none then s.status else s.status.replaced := by
  obtain ⟨w, eq, -, status⟩ := s.layoutReplaced_before
  rw [eq, w.commitCheck_only.status_eq, status]

theorem State.layoutReplaced_live (s : State) : s.layoutReplaced.composer.live = s.composer.live :=
  (congrArg Composer.live s.layoutReplaced_besideEdits : _)

/-- Every port holds its plan of the layout (R16, R21). -/
theorem State.layoutReplaced_planOfPort (s : State) {i : Nat} (hi : i < s.ports.length) :
    s.layoutReplaced.planOfPort i = s.composer.live.plans.getD i [] := by
  rw [← s.planOfPort_takePlans hi]
  exact State.planOfPort_congr s.layoutReplaced_ports i

/-! A plan installed (R13, R136, R140). -/

theorem fallbackWindow_spec (plan : List WindowRec) (n : Word) (w : WindowRec) (i : Nat) :
    let new := fallbackWindow plan n (w, i)
    let goal := if (windowAt plan i).visible then windowAt plan i
      else { w with visible := false, sub := .none, shown := w.routed, ctx := none }
    new = { goal with lastCommitFrame := new.lastCommitFrame, lastTakeTag := new.lastTakeTag } ∧
    (new.lastCommitFrame, new.lastTakeTag) =
      if { goal with lastCommitFrame := w.lastCommitFrame, lastTakeTag := w.lastTakeTag } = w
      then (w.lastCommitFrame, w.lastTakeTag) else (n, 0) := by
  dsimp only
  have new : fallbackWindow plan n (w, i) = (let v := (if (windowAt plan i).visible then windowAt plan i
      else { w with visible := false, sub := .none, shown := w.routed, ctx := none })
    if { v with lastCommitFrame := w.lastCommitFrame, lastTakeTag := w.lastTakeTag } = w then w
    else { v with lastCommitFrame := n, lastTakeTag := 0 }) := rfl
  rw [new]
  generalize (if (windowAt plan i).visible = true then windowAt plan i
    else { w with visible := false, sub := .none, shown := w.routed, ctx := none }) = v
  dsimp only
  by_cases same : { v with lastCommitFrame := w.lastCommitFrame, lastTakeTag := w.lastTakeTag } = w
  · rw [if_pos same, if_pos same]
    exact ⟨same.symm, rfl⟩
  · rw [if_neg same, if_neg same]
    exact ⟨rfl, rfl⟩

theorem State.installsPlan {plan : List WindowRec} {n : Word} (live : t.composer.live = s.planned plan n)
    (plans : t.plansNow = s.plansNow) : InstallsPlan plan s.composer.live.windows n t where
  length := by rw [live]; simp [State.planned]
  window i hi := by
    dsimp only
    rw [live, s.planned_window plan n hi]
    exact fallbackWindow_spec plan n _ i
  plans := by rw [live, plans]; rfl

theorem State.plansNow_congr (sources : t.sources = s.sources) (captured : t.modes.captured = s.modes.captured) :
    t.plansNow = s.plansNow := by
  unfold State.plansNow State.geometry State.classOf State.areaOf State.source
  rw [sources, captured]

/-- Settles O47: the plan installed, the layout replaced, and the boundary's end. -/
theorem boundaryMakesFallbackCommit : Obligations.BoundaryMakesFallbackCommit := by
  intro s plan owed held mode length
  let v := s.counted.installPlan plan (s.timing.frame + 1)
  have commit : s.counted.composerBoundary (s.timing.frame + 1) = v.layoutReplaced := by
    rw [State.composerBoundary_owed (s := s.counted) owed]
    change (s.counted.installPlan (s.composer.fallbackPlan.getD _) _).layoutReplaced = _
    rw [held]
    rfl
  have installed : OnlyChanges [.composer] s.counted v := s.counted.installPlan_only plan _
  have only : OnlyChanges [.composer, .ports, .status] s.counted v.layoutReplaced :=
    (installed.mono (by decide)).next v.layoutReplaced_only (by decide)
  have beside := v.layoutReplaced_besideEdits
  have live : v.layoutReplaced.composer.live = s.planned plan (s.timing.frame + 1) := v.layoutReplaced_live
  refine ⟨v.layoutReplaced, v.layoutReplaced.boundaryRest, ?_, State.installsPlan live ?_, ?_, ?_, ?_, ?_, ?_, ?_, ?_, ?_, ?_, ?_⟩
  · rw [exec_boundary, commit]
  · exact State.plansNow_congr only.sources_eq (by rw [only.modes_eq])
  · rw [live]; rfl
  · exact (congrArg Composer.epoch beside : _)
  · exact (congrArg Composer.overruns beside : _)
  · exact (congrArg Composer.fallbackOwed beside : _)
  · exact (congrArg Composer.fallbackPlan beside : _).trans held
  · exact (congrArg Composer.build beside : _)
  · exact v.layoutReplaced_edits
  · exact v.layoutReplaced_status
  · exact (s.counted_only.mono (by decide)).next only (by decide)
  · refine State.boundaryEnds only.timing_eq only.now_eq (by rw [only.modes_eq]) (State.map_congr (by rw [only.modes_eq])) ?_
      (fun i hi => ?_)
    · rw [State.layoutReplaced_ports_length]; exact length
    · rw [v.layoutReplaced_live]
      exact v.layoutReplaced_planOfPort (by rw [show v.ports.length = Config.tilePorts from length]; exact hi)

end Sys2Proof.Machine
end

section
-- Many short proofs follow one another: taken one at a time they need one thread's memory, not one's for each.
set_option Elab.async false
/-! PROOF. O45: the boundary that commits a READY build (R61 to R64, R107). -/

namespace Sys2Proof.Machine

variable {s t u : State}

theorem BuildRecord.events_nil (b : BuildRecord) (n : Word) : ({ b with edits := [] } : BuildRecord).events n = [] := rfl

theorem settleEdits_eq (pending : List Edit) (edits : List (Edit × EditOutcome)) : settleEdits pending edits =
    pending.filter (fun e => decide (∀ p ∈ edits, p.1.serial ≠ e.serial)) := by
  unfold settleEdits
  refine List.filter_congr (fun e _ => ?_)
  rw [Bool.eq_iff_iff]
  simp

theorem State.handEvents_journal (s : State) (es : List Event) :
    (s.handEvents es).report.journalPart = s.report.journalPart := by
  induction es generalizing s with
  | nil => rfl
  | cons e es ih => exact (ih _).trans (s.handEvent_journal e)

theorem SubState.code_eq (x : SubState) : x.code = subStatesInOrder.idxOf x := by cases x <;> rfl

theorem EditCause.code_eq (c : EditCause) : c.code = editCausesInOrder.idxOf c + 1 := by cases c <;> rfl

theorem editEvent_eq (e : Edit) (old new : SubState) (shown : Nat) (n : Word) :
    editEvent e old new shown n = appliedEvent e old new shown n := by
  unfold editEvent appliedEvent
  rw [old.code_eq, new.code_eq, e.cause.code_eq]
  rfl

theorem BuildRecord.events_dropped (b : BuildRecord) (n : Word) (e : Edit) (es : List (Edit × EditOutcome)) :
    ({ b with edits := (e, .dropped) :: es } : BuildRecord).events n = ({ b with edits := es } : BuildRecord).events n := rfl

theorem BuildRecord.events_applied (b : BuildRecord) (n : Word) (e : Edit) (old new : SubState) (shown : Nat)
    (es : List (Edit × EditOutcome)) : ({ b with edits := (e, .applied old new shown) :: es } : BuildRecord).events n =
      appliedEvent e old new shown n :: ({ b with edits := es } : BuildRecord).events n := by
  rw [← editEvent_eq]
  rfl

section commit

variable (s) (b : BuildRecord) (n : Word)

/-- A commit up to its events: the composer's part, and the entries of the build's takes handed on (R61, R62). -/
def State.committed : State :=
  (s.setComposer (s.composer.committed b)).handAll (b.takes.map (s.takes.builtEntry n))

theorem State.commitBuild_eq : s.commitBuild b n = ((s.committed b n).handEvents (b.events n)).layoutReplaced := by
  unfold State.commitBuild State.andThen
  dsimp only
  rw [State.finishBuilt_foldl]
  rfl

theorem State.committed_only : OnlyChanges [.composer, .rings] s (s.committed b n) :=
  ((s.setComposer_only _).mono (by decide)).next (State.setReport_rings _ _ rfl) (by decide)

theorem State.commitBuild_before : ((s.committed b n).handEvents (b.events n)).composer = s.composer.committed b :=
  ((s.committed b n).handEvents_only _).composer_eq

theorem State.commitBuild_besideEdits : (s.commitBuild b n).composer.besideEdits = (s.composer.committed b).besideEdits := by
  rw [State.commitBuild_eq, State.layoutReplaced_besideEdits, State.commitBuild_before]

theorem State.commitBuild_edits : EditsAfterCheck
    (s.composer.pendingEdits.filter (fun e => decide (∀ p ∈ b.edits, p.1.serial ≠ e.serial))) s.composer.editSerial
    (s.commitBuild b n) := by
  have edits := ((s.committed b n).handEvents (b.events n)).layoutReplaced_edits
  rw [State.commitBuild_before] at edits
  rw [State.commitBuild_eq, ← settleEdits_eq]
  exact edits

theorem State.commitBuild_journal : (s.commitBuild b n).report.journalPart =
    (s.report.handed (b.takes.map (s.takes.builtEntry n))).journalPart := by
  rw [State.commitBuild_eq, (State.layoutReplaced_only _).journalPart_eq, State.handEvents_journal]
  rfl

theorem State.commitBuild_status : (s.commitBuild b n).status = if s.map = none then s.status else s.status.replaced := by
  have only : OnlyChanges [.composer, .rings, .interrupt, .causes] s ((s.committed b n).handEvents (b.events n)) :=
    ((s.committed_only b n).mono (by decide)).next (State.handEvents_only _ _) (by decide)
  rw [State.commitBuild_eq, State.layoutReplaced_status, State.map_congr (s := s) (by rw [only.modes_eq]), only.status_eq]

theorem State.committed_ports : ((s.committed b n).handEvents (b.events n)).ports = s.ports := by
  rw [(State.handEvents_only _ _).ports_eq, (s.committed_only b n).ports_eq]

theorem State.commitBuild_ports_length : (s.commitBuild b n).ports.length = s.ports.length := by
  rw [State.commitBuild_eq, State.layoutReplaced_ports_length, State.committed_ports]

theorem State.commitBuild_planOfPort {i : Nat} (hi : i < s.ports.length) :
    (s.commitBuild b n).planOfPort i = b.draft.plans.getD i [] := by
  rw [State.commitBuild_eq, State.layoutReplaced_planOfPort _ (by rw [State.committed_ports]; exact hi),
    State.commitBuild_before]
  rfl

/-- The edits' events are handed on under the filter list of the layout committed, from a state that differs from the one before
the commit in the clock, the timing and the composer's other fields alone. -/
theorem State.commitBuild_hands {r : State} (before : OnlyChanges [.now, .timing, .composer] r s)
    (filters : r.composer.live.filters = b.draft.filters) :
    HandsOn r (s.commitBuild b n) (b.events n) (fun _ => false) := by
  have start : Hands r (s.committed b n) [] (fun _ => false) :=
    .of_frame ((before.mono (by decide)).next (s.committed_only b n) (by decide) : OnlyChanges [.now, .timing, .composer, .rings] _ _)
      before.eventPart_eq (by rw [(s.committed_only b n).modes_eq, before.modes_eq])
      (by rw [(s.committed_only b n).modes_eq, before.modes_eq]) filters.symm
  have done : Hands ((s.committed b n).handEvents (b.events n)) (s.commitBuild b n) [] (fun _ => false) := by
    rw [State.commitBuild_eq]
    have only := ((s.committed b n).handEvents (b.events n)).layoutReplaced_only
    exact .of_frame only only.eventPart_eq (by rw [only.modes_eq]) (by rw [only.modes_eq]) (by rw [State.layoutReplaced_live])
  exact ((((s.committed b n).handEvents_handed (b.events n)).after start).before done).hands

end commit

/-- Settles O45: the composer's part, the entries and events handed on, the layout replaced, and the boundary's end. -/
theorem boundaryCommitsReadyBuild : Obligations.BoundaryCommitsReadyBuild := by
  unfold Obligations.BoundaryCommitsReadyBuild
  refine ⟨fun b n e o es => ⟨b.events_nil n, ?_⟩, fun s b build ready owed calm mode length => ?_⟩
  · cases o with
    | dropped => exact b.events_dropped n e es
    | applied old new shown => exact b.events_applied n e old new shown es
  let n := s.timing.frame + 1
  let u := s.counted.commitBuild b n
  have commit : s.counted.composerBoundary n = u :=
    State.composerBoundary_ready (s := s.counted) owed (fun h => absurd h calm) build ready
  have only : OnlyChanges [.interrupt, .composer, .ports, .rings, .causes, .status] s.counted u :=
    s.counted.commitBuild_only b n
  have beside : u.composer.besideEdits = (s.composer.committed b).besideEdits := s.counted.commitBuild_besideEdits b n
  have live : u.composer.live = b.draft := (congrArg Composer.live beside : _)
  refine ⟨u, u.boundaryRest, by rw [exec_boundary, commit], live, ?_, ?_, ?_, ?_, ?_, s.counted.commitBuild_edits b n,
    s.counted.commitBuild_journal b n, ?_, s.counted.commitBuild_status b n, ?_, ?_⟩
  · exact (congrArg Composer.epoch beside : _)
  · exact (congrArg Composer.overruns beside : _)
  · exact (congrArg Composer.build beside : _)
  · exact (congrArg Composer.fallbackOwed beside : _).trans owed
  · exact (congrArg Composer.fallbackPlan beside : _)
  · refine State.commitBuild_hands _ b n (by constructor <;> simp) rfl
  · exact (s.counted_only.mono (by decide)).next only (by decide)
  · exact State.boundaryEnds only.timing_eq only.now_eq (by rw [only.modes_eq]) (State.map_congr (by rw [only.modes_eq]))
      ((s.counted.commitBuild_ports_length b n).trans length)
      (fun i hi => s.counted.commitBuild_planOfPort b n (length.symm ▸ hi))

end Sys2Proof.Machine
end

section
-- Many short proofs follow one another: taken one at a time they need one thread's memory, not one's for each.
set_option Elab.async false
/-! PROOF. O46: the boundary at which a running build overruns (R65, R66). -/

namespace Sys2Proof.Machine

variable {s t u v : State}

/-! The build is discarded: its takes return, or finish where the mode is QUIESCING. -/

/-- The build of an overrun at boundary `n` is discarded (R65, R142). -/
def State.overrunDropped (s : State) (n : Word) : State :=
  if s.modes.mode = .quiescing then (s.cancelTakes s.buildSlots (some n)).setBuild none else s.discardBuild (some n)

/-- A take of the build finishes at an overrun rather than return (R65, R142). -/
abbrev State.overrunEnds (s : State) (i : Nat) : Bool := decide (s.modes.mode = .quiescing) || (s.slot i).cancelRequested

/-- What discarding the build does: the slots, the entries and the composer (R43, R65). -/
structure DropsBuild (n : Word) (s v : State) : Prop where
  slots : ∀ i, v.slot i = if i ∈ s.buildSlots ∧ s.overrunEnds i = false then { s.slot i with state := .posted } else s.slot i
  takes : v.takes = { s.takes with slots := v.takes.slots }
  copies : AsksCopies s.status s v
  report : v.report = s.report.handed ((s.buildSlots.filter s.overrunEnds).map
    (fun i => s.entryOf i (plainOutcome .cancelled) false (some n)))
  composer : v.composer = { s.composer with build := none }
  only : OnlyChanges [.takes, .composer, .rings, .status] s v

theorem State.overrunDropped_drops (n : Word) (length : s.takes.slots.length = Config.slotCount) (once : s.buildSlots.Nodup)
    (below : ∀ i ∈ s.buildSlots, i < Config.slotCount) : DropsBuild n s (s.overrunDropped n) := by
  unfold State.overrunDropped
  by_cases hm : s.modes.mode = .quiescing
  · have ends (i : Nat) : s.overrunEnds i = true := by simp [State.overrunEnds, hm]
    rw [if_pos hm, State.cancelTakes_eq]
    have entries := State.setReport_rings s (s.report.handed (s.buildSlots.map
      (fun i => s.entryOf i (plainOutcome .cancelled) false (some n)))) rfl
    have only := (entries.mono (k := [.composer, .rings]) (by decide)).next (State.setBuild_only _ none) (by decide)
    refine ⟨fun i => ?_, only.takes_eq, only.asksCopies, ?_, rfl, only.mono (by decide)⟩
    · rw [only.slot_eq, ends i]
      simp
    · have all : s.buildSlots.filter s.overrunEnds = s.buildSlots := List.filter_eq_self.2 (fun i _ => ends i)
      rw [all]
      rfl
  · have ends (i : Nat) : s.overrunEnds i = (s.slot i).cancelRequested := by simp [State.overrunEnds, hm]
    have returned := s.discardBuild_end (some n) once (fun i hi => by rw [length]; exact below i hi)
    rw [if_neg hm]
    refine ⟨fun i => by rw [ends]; exact returned.slots i, returned.rest, State.discardBuild_asks _ length once below, ?_,
      s.discardBuild_composer _, s.discardBuild_only _⟩
    rw [returned.report, show s.overrunEnds = fun i => (s.slot i).cancelRequested from funext ends]

/-! The count, the flag and the event (R66). -/

/-- The overrun count rises, OVERRUN is set and its event handed on (R66). -/
def State.overrunCounted (s : State) (b : BuildRecord) (k : Nat) : State :=
  ((s.modComposer (fun co => { co with overruns := k })).handEvent (overrunEvent b.target k)).raise .overrun

theorem State.overrunCounted_only (s : State) (b : BuildRecord) (k : Nat) :
    OnlyChanges [.composer, .rings, .interrupt, .causes] s (s.overrunCounted b k) :=
  (((s.modComposer_only _).mono (by decide)).next (State.handEvent_only _ _) (by decide)).next (State.raise_only _ _) (by decide)

theorem State.overrunCounted_composer (s : State) (b : BuildRecord) (k : Nat) :
    (s.overrunCounted b k).composer = { s.composer with overruns := k } := by
  unfold State.overrunCounted
  rw [(State.raise_only _ _).composer_eq, (State.handEvent_only _ _).composer_eq]
  rfl

theorem State.overrunCounted_journal (s : State) (b : BuildRecord) (k : Nat) :
    (s.overrunCounted b k).report.journalPart = s.report.journalPart :=
  (State.raise_only _ _).journalPart_eq.trans (State.handEvent_journal _ _)

theorem State.overrunCounted_handed (s : State) (b : BuildRecord) (k : Nat) :
    Hands s (s.overrunCounted b k) [overrunEvent b.target k] (fun c => decide (c = .overrun)) := by
  have counted := (State.handEvent_handed _ (overrunEvent b.target k)).after
    (s.modComposer_handed (fun co => { co with overruns := k }) rfl)
  exact (counted.trans (State.raise_handed _ .overrun)).congr (List.append_nil _) (fun c => Bool.false_or _)

theorem State.overrunBuild_eq (s : State) (b : BuildRecord) (n : Word) : s.overrunBuild b n =
    let k := min 255 ((s.overrunDropped n).composer.overruns + 1)
    let w := (s.overrunDropped n).overrunCounted b k
    if w.modes.mode = .run ∧ 3 ≤ k then w.enterHold .overrunLimit else w := rfl

/-! The third overrun in RUN enters HOLD (R66, R138). -/

/-- HOLD is entered where `holds`. -/
def State.holdIf (s : State) (holds : Prop) [Decidable holds] : State := if holds then s.enterHold .overrunLimit else s

section hold

variable {holds : Prop} [Decidable holds]

theorem State.holdIf_only (s : State) : OnlyChanges [.modes, .rings, .interrupt, .causes] s (s.holdIf holds) := by
  unfold State.holdIf
  split
  · exact (s.enterHold_only _).mono (by decide)
  · exact OnlyChanges.refl _ _

theorem State.holdIf_modes (s : State) : (s.holdIf holds).modes =
    if holds then { s.modes with mode := .hold, supervision := s.startedTimer } else s.modes := by
  unfold State.holdIf
  split
  · exact s.enterHold_modes _
  · rfl

theorem State.holdIf_journal (s : State) : (s.holdIf holds).report.journalPart = s.report.journalPart := by
  unfold State.holdIf
  split
  · exact s.enterHold_journal _
  · rfl

theorem State.holdIf_handed (s : State) (run : holds → s.modes.mode = .run) : Hands s (s.holdIf holds)
    (if holds then [modeEvent .run .hold .overrunLimit] else []) (fun c => decide (c = .holdEntered) && decide holds) := by
  unfold State.holdIf
  by_cases h : holds
  · rw [if_pos h, if_pos h]
    exact (s.enterHold_handed _).congr (by rw [run h]) (fun c => by simp [h])
  · rw [if_neg h, if_neg h]
    exact (Hands.refl s).congr rfl (fun c => by simp [h])

end hold

theorem State.startedTimer_congr (modes : t.modes = s.modes) (now : t.now = s.now) : t.startedTimer = s.startedTimer := by
  unfold State.startedTimer
  rw [modes, now]

/-- An overrun in its parts: the build discarded, the overrun counted, and HOLD entered at the third in RUN. -/
theorem State.overrunBuild_parts {n : Word} {b : BuildRecord} (drops : DropsBuild n s (s.overrunDropped n)) :
    let k := min 255 (s.composer.overruns + 1)
    s.overrunBuild b n = ((s.overrunDropped n).overrunCounted b k).holdIf (s.modes.mode = .run ∧ 3 ≤ k) := by
  dsimp only
  rw [State.overrunBuild_eq, drops.composer]
  dsimp only
  rw [(State.overrunCounted_only _ b _).modes_eq, drops.only.modes_eq]
  rfl

/-- Settles O46: the build discarded, the overrun counted, HOLD at the third in RUN, and the boundary's end. -/
theorem boundaryOverrunsRunningBuild : Obligations.BoundaryOverrunsRunningBuild := by
  intro s b build running owed calm length once below slots
  have list : s.counted.buildSlots = b.takes.map (·.slot) := by unfold State.buildSlots; rw [build]
  have drops : DropsBuild (s.timing.frame + 1) s.counted (s.counted.overrunDropped (s.timing.frame + 1)) :=
    State.overrunDropped_drops _ slots (by rw [list]; exact once)
      (by rw [list]; simpa using below)
  have commit := State.composerBoundary_running (s := s.counted) (n := s.timing.frame + 1) owed (fun h => absurd h calm)
    build running
  rw [State.overrunBuild_parts drops] at commit
  generalize s.counted.overrunDropped (s.timing.frame + 1) = v at drops commit
  dsimp only at commit ⊢
  generalize min 255 (s.composer.overruns + 1) = k at commit ⊢
  obtain ⟨reads, takes, copies, report, composer, dropped⟩ := drops
  rw [list] at reads report
  have marked := v.overrunCounted_only b k
  have composer' := v.overrunCounted_composer b k
  have journal := v.overrunCounted_journal b k
  have handed := v.overrunCounted_handed b k
  generalize v.overrunCounted b k = w at marked composer' journal handed commit
  have modes : w.modes = s.modes := by rw [marked.modes_eq, dropped.modes_eq]
  have held := w.holdIf_only (holds := s.modes.mode = .run ∧ 3 ≤ k)
  have only : OnlyChanges [.interrupt, .takes, .composer, .modes, .rings, .causes, .status] s.counted
      (w.holdIf (s.modes.mode = .run ∧ 3 ≤ k)) :=
    ((dropped.mono (by decide)).next marked (by decide)).next held (by decide)
  have handed' := handed.trans (w.holdIf_handed (holds := s.modes.mode = .run ∧ 3 ≤ k) (fun h => by rw [modes]; exact h.1))
  have journal' := w.holdIf_journal (holds := s.modes.mode = .run ∧ 3 ≤ k)
  have modes' := w.holdIf_modes (holds := s.modes.mode = .run ∧ 3 ≤ k)
  generalize w.holdIf (s.modes.mode = .run ∧ 3 ≤ k) = u at held only handed' journal' modes' commit
  have before : OnlyChanges [.now, .timing, .takes, .composer, .rings, .status] s v :=
    (s.counted_only.mono (by decide)).next dropped (by decide)
  have slot (i : Nat) : u.slot i = v.slot i := ((held.slot_eq) i).trans ((marked.slot_eq) i)
  have takes' : u.takes = v.takes := held.takes_eq.trans marked.takes_eq
  refine ⟨u, u.boundaryRest, by rw [exec_boundary, commit], ?_, fun i => (slot i).trans (reads i), ?_, ?_, ?_, ?_, ?_, ?_, ?_⟩
  · rw [held.composer_eq, composer', composer]
  · rw [takes']; exact takes
  · exact copies.around (fun _ => rfl) rfl rfl rfl slot (by rw [takes']) (held.status_eq.trans marked.status_eq)
  · rw [journal', journal, report]
    rfl
  · have start : Hands s v [] (fun _ => false) :=
      .of_frame before (by rw [report]; rfl) (by rw [before.modes_eq]) (by rw [before.modes_eq]) (by rw [composer])
    exact (handed'.after start).hands
  · rw [modes', modes, State.startedTimer_congr (s := s.atBoundary) modes ((marked.now_eq).trans dropped.now_eq)]
  · exact (s.counted_only.mono (by decide)).next only (by decide)
  · refine State.boundaryEnds only.timing_eq only.now_eq ?_ (State.map_congr ?_) (by rw [only.ports_eq]; exact length)
      (fun i _ => State.planOfPort_congr only.ports_eq i)
    · rw [modes', modes]
      by_cases h : s.modes.mode = .run ∧ 3 ≤ k
      · rw [if_pos h, h.1]
        exact ⟨nofun, nofun⟩
      · rw [if_neg h]
    · rw [modes', modes]
      split <;> rfl

end Sys2Proof.Machine
end

section
-- Many short proofs follow one another: taken one at a time they need one thread's memory, not one's for each.
set_option Elab.async false
/-! PROOF. What the settings of an activation hand on, and what they leave (R75, R77, R91). -/

namespace Sys2Proof.Machine

variable {s t u : State}

/-! Kept by every change of a source. -/

theorem State.applyMoves_keeps {P : State → Prop} (change : ∀ u i r, P u → P (u.changeSource i r false true)) (h : P s) (i : Nat)
    (l : List SourceRec) : P (s.applyMoves i l) := by
  induction l generalizing s with
  | nil => exact h
  | cons r l ih => exact ih (change s i r h)

theorem State.applyAllSettings_keeps {P : State → Prop} (note : ∀ u i r, P u → P (u.setSource i r))
    (change : ∀ u i r, P u → P (u.changeSource i r false true)) (h : P s) (i : Nat) (l : List SourceSettings)
    (hl : i + l.length ≤ s.sources.length) : P (s.applyAllSettings i l) := by
  induction l generalizing s i with
  | nil => exact h
  | cons new l ih =>
    rw [List.length_cons] at hl
    refine ih ?_ (i + 1) (by rw [s.applySettings_sources_length]; omega)
    rw [State.applySettings_eq s new (by omega)]
    split
    · exact note _ _ _ h
    · exact State.applyMoves_keeps change h i _

/-! With no window visible, no change of a source calls for an edit (R97 to R100). -/

theorem editCall_hidden (i : Nat) (new : SourceState) {w : WindowRec} (h : w.visible = false) : editCall i new w = none := by
  simp [editCall, h]

theorem fst_mem_of_indexed {ws : List WindowRec} {p : WindowRec × Nat} (h : p ∈ indexed ws) : p.1 ∈ ws := by
  have h := (List.mem_zipIdx' h).2
  exact h ▸ List.getElem_mem _

theorem Composer.sourceChanged_hidden {c : Composer} (hidden : ∀ w ∈ c.live.windows, w.visible = false) (i : Nat)
    (new : SourceState) : c.sourceChanged i new = c := by
  have none : callsOf (fun p => editCall i new p.1) (indexed c.live.windows) = [] :=
    List.filterMap_eq_nil_iff.2 (fun p hp => by
      dsimp only
      rw [editCall_hidden i new (hidden p.1 (fst_mem_of_indexed hp))]
      rfl)
  rw [Composer.sourceChanged_eq, none]
  rfl

theorem State.applyAllSettings_hidden (hidden : ∀ w ∈ s.composer.live.windows, w.visible = false) (i : Nat)
    (l : List SourceSettings) (hl : i + l.length ≤ s.sources.length) : (s.applyAllSettings i l).composer = s.composer := by
  refine s.applyAllSettings_keeps (P := fun u => u.composer = s.composer) (fun u i r h => ?_) (fun u i r h => ?_) rfl i l hl
  · rw [(u.setSource_only i r).composer_eq, h]
  · rw [State.changeSource_eq, (State.handEvent_only _ _).composer_eq, setComposer_composer, h]
    exact Composer.sourceChanged_hidden hidden i r.state

theorem State.applyAllSettings_journal (i : Nat) (l : List SourceSettings) (hl : i + l.length ≤ s.sources.length) :
    (s.applyAllSettings i l).report.journalPart = s.report.journalPart := by
  refine s.applyAllSettings_keeps (P := fun u => u.report.journalPart = s.report.journalPart) (fun u i r h => ?_)
    (fun u i r h => ?_) rfl i l hl
  · rw [u.setSource_report i r, h]
  · rw [State.changeSource_eq, State.handEvent_journal]
    exact (congrArg Report.journalPart (u.setSource_report i r)).trans h

/-! The SOURCE events (R77, R91). -/

theorem State.applyMoves_handed {i : Nat} (hi : i < s.sources.length) (l : List SourceRec) :
    Hands s (s.applyMoves i l) (settingEvents i (s.source i) l) (fun _ => false) := by
  induction l generalizing s with
  | nil => exact Hands.refl s
  | cons r l ih =>
    have moved : (s.changeSource i r false true).source i = r := by
      rw [State.source, State.changeSource_sources, State.source_set s hi, if_pos rfl]
    have rest := ih (s := s.changeSource i r false true) (by rw [State.changeSource_sources, List.length_set]; exact hi)
    rw [moved] at rest
    exact ((s.changeSource_handed i r false true).trans rest).congr rfl (fun _ => rfl)

theorem State.applySettings_handed {i : Nat} (hi : i < s.sources.length) (new : SourceSettings) :
    Hands s (s.applySettings i new) (settingEvents i (s.source i) ((s.source i).settingMoves new)) (fun _ => false) := by
  rw [State.applySettings_eq s new hi]
  by_cases none : (s.source i).settingMoves new = []
  · rw [if_pos none, none]
    exact s.setSource_handed i _
  · rw [if_neg none]
    exact State.applyMoves_handed hi _

theorem State.applyAllSettings_handed (i : Nat) (l : List SourceSettings) (hl : i + l.length ≤ s.sources.length) :
    Hands s (s.applyAllSettings i l) ((List.range l.length).flatMap (fun k => settingEvents (i + k) (s.source (i + k))
      ((s.source (i + k)).settingMoves (l.getD k ⟨false, 1, none, 0⟩)))) (fun _ => false) := by
  induction l generalizing s i with
  | nil => exact Hands.refl s
  | cons new l ih =>
    rw [List.length_cons] at hl
    have hi : i < s.sources.length := by omega
    have later (k : Nat) : (s.applySettings i new).source (i + 1 + k) = s.source (i + 1 + k) := by
      rw [State.source, State.applySettings_sources s new hi, State.source_set s hi, if_neg (by omega)]
    have rest := ih (s := s.applySettings i new) (i + 1) (by rw [s.applySettings_sources_length]; omega)
    refine ((State.applySettings_handed hi new).trans rest).congr ?_ (fun _ => rfl)
    rw [List.length_cons, List.range_succ_eq_map, List.flatMap_cons, List.flatMap_map]
    simp only [later]
    have next (k : Nat) : i + 1 + k = i + k.succ := by omega
    simp only [next]
    rfl

end Sys2Proof.Machine
end

section
-- Many short proofs follow one another: taken one at a time they need one thread's memory, not one's for each.
set_option Elab.async false
/-! PROOF. O48: the boundary that ends an activation (R75, R77, R125, R135, R136). -/

namespace Sys2Proof.Machine

variable {s t u e k : State} {c : Captured} {plan : List WindowRec} {n : Word}

/-! The parts of a capture, once the ring writer has ended its work (R135, R149). -/

/-- The captured record, the rings, the filter list and the refusal reasons (R135, steps 1 to 3). -/
def State.captureBegun (e : State) (c : Captured) : State := { e with
  modes := { e.modes with captured := some c, progress := .none }
  report := { e.report with
    journal := Ring.initial c.journal, urgent := Ring.initial c.urgent, routine := Ring.initial c.routine
    journalQueue := [], urgentQueue := [], routineQueue := [], ringJob := none }
  composer := { e.composer with live := { e.composer.live with filters := c.filters } }
  takes := e.takes.clearRefusals }

/-- The captured rate, lead and settings (R135, step 4). -/
def State.captureSet (e : State) (c : Captured) : State :=
  (((e.captureBegun c).applyRate c.rate c.lead).applyAllSettings 0 c.settings).setInternalRate c.rate.millihertz

/-- The sections left to be rewritten, the fallback plan and the start layout (R135, R136). -/
def State.startedLayout (k : State) (c : Captured) (plan : List WindowRec) (n : Word) : State :=
  (k.rewriteSections.modComposer (fun co => { co with fallbackPlan := some plan })).startLayout c plan n

/-- RUN is reached, with supervision started (R135, R144). -/
def State.runReached (s : State) : State := ((s.raise .modeReached).moveMode .run .activationDone).startSupervision

theorem State.settingsInForce_eq (s : State) (c : Captured) : s.settingsInForce c = s.ringsDone.captureSet c := by
  unfold State.settingsInForce State.rateInForce State.captureSet State.andThen
  generalize s.ringsDone = e
  rfl

theorem State.captureConfig_parts (s : State) (c : Captured) (plan : List WindowRec) (n : Word) :
    s.captureConfig c plan n = ((s.ringsDone.captureSet c).startedLayout c plan n).runReached := by
  rw [s.captureConfig_eq c plan n, ← s.settingsInForce_eq c]
  unfold State.layoutInForce State.andThen
  generalize s.settingsInForce c = k
  rfl

/-! The rate (R112, R113, R125). -/

theorem State.applyRate_same {rate : WallRate} (h : rate = s.timing.rate) (lead : Nat) :
    s.applyRate rate lead = s.setTiming { s.timing with lead := lead } := by
  unfold State.applyRate
  dsimp only
  rw [if_pos h]

theorem State.applyRate_new {rate : WallRate} (h : rate ≠ s.timing.rate) (lead : Nat) : s.applyRate rate lead =
    let s1 := s.setTiming { s.timing with
      lead := lead, rate := rate, ref := .freerun, goodRun := 0, missingRun := 0, measured := none, intervals := [],
      runIntervals := [], prediction := none, afterNext := none, holdoverStart := none }
    if s.timing.ref = .freerun then s1 else s1.timingChange s.timing.ref .freerun 0 false false true := by
  unfold State.applyRate State.andThen
  dsimp only
  rw [if_neg h]

theorem State.setTiming_handed (s : State) (v : Timing) : Hands s (s.setTiming v) [] (fun _ => false) :=
  .of_frame (s.setTiming_only v) rfl rfl rfl rfl

theorem State.timingChange_handed (s : State) (old new : RefState) (amount : Nat) (r h a : Bool) :
    Hands s (s.timingChange old new amount r h a) [timingEvent old new amount r h a] (fun k => decide (k = .timingChange)) :=
  ((s.handEvent_handed (timingEvent old new amount r h a)).trans (State.raise_handed _ .timingChange)).congr
    (List.append_nil _) (fun _ => Bool.false_or _)

theorem State.timingChange_journal (s : State) (old new : RefState) (amount : Nat) (r h a : Bool) :
    (s.timingChange old new amount r h a).report.journalPart = s.report.journalPart :=
  (State.raise_only _ _).journalPart_eq.trans (State.handEvent_journal _ _)

section rate

variable (s) (rate : WallRate) (lead : Nat)

theorem State.applyRate_timing : (s.applyRate rate lead).timing = if rate ≠ s.timing.rate then { s.timing with
      lead := lead, rate := rate, ref := .freerun, goodRun := 0, missingRun := 0, measured := none, intervals := [],
      runIntervals := [], prediction := none, afterNext := none, holdoverStart := none }
    else { s.timing with lead := lead } := by
  by_cases h : rate = s.timing.rate
  · rw [State.applyRate_same h, if_neg (fun k => k h)]
    rfl
  · rw [State.applyRate_new h, if_pos h]
    dsimp only
    split
    · rfl
    · exact (State.timingChange_only _ _ _ _ _ _ _).timing_eq

theorem State.applyRate_journal : (s.applyRate rate lead).report.journalPart = s.report.journalPart := by
  by_cases h : rate = s.timing.rate
  · rw [State.applyRate_same h]
    rfl
  · rw [State.applyRate_new h]
    dsimp only
    split
    · rfl
    · exact State.timingChange_journal _ _ _ _ _ _ _

theorem State.applyRate_handed : Hands s (s.applyRate rate lead)
    (if rate ≠ s.timing.rate ∧ s.timing.ref ≠ .freerun then [timingEvent s.timing.ref .freerun 0 false false true] else [])
    (fun k => decide (k = .timingChange) && decide (rate ≠ s.timing.rate ∧ s.timing.ref ≠ .freerun)) := by
  by_cases h : rate = s.timing.rate
  · rw [State.applyRate_same h, if_neg (fun k => k.1 h)]
    exact (s.setTiming_handed _).congr rfl (fun k => by simp [h])
  · rw [State.applyRate_new h]
    dsimp only
    by_cases free : s.timing.ref = .freerun
    · rw [if_pos free, if_neg (fun k => k.2 free)]
      exact (s.setTiming_handed _).congr rfl (fun k => by simp [free])
    · rw [if_neg free, if_pos ⟨h, free⟩]
      exact ((State.timingChange_handed _ _ _ _ _ _ _).after (s.setTiming_handed _)).congr rfl (fun k => by simp [h, free])

end rate

/-! The settings. -/

theorem State.setInternalRate_handed (s : State) (rate : Nat) : Hands s (s.setInternalRate rate) [] (fun _ => false) :=
  .of_frame (s.setInternalRate_only rate) rfl rfl rfl rfl

section settings

variable (size : e.sources.length = Config.allSources) (settings : c.settings.length = Config.externalSources)

include size settings

theorem State.captureSet_fits : 0 + c.settings.length ≤ ((e.captureBegun c).applyRate c.rate c.lead).sources.length := by
  rw [(State.applyRate_only _ _ _).sources_eq, settings]
  change _ ≤ e.sources.length
  rw [size]
  decide

theorem State.captureSet_journal : (e.captureSet c).report.journalPart = (Ring.initial c.journal, [], none) := by
  unfold State.captureSet
  rw [(State.setInternalRate_only _ _).journalPart_eq, State.applyAllSettings_journal _ _ (State.captureSet_fits size settings),
    State.applyRate_journal]
  rfl

/-- In the empty layout the settings call for no edits. -/
theorem State.captureSet_composer (live : e.composer.live = Layout.cleared) : (e.captureSet c).composer =
    { e.composer with live := { e.composer.live with filters := c.filters } } := by
  have composer : ((e.captureBegun c).applyRate c.rate c.lead).composer =
      { e.composer with live := { e.composer.live with filters := c.filters } } := (State.applyRate_only _ _ _).composer_eq
  unfold State.captureSet
  rw [(State.setInternalRate_only _ _).composer_eq, State.applyAllSettings_hidden _ _ _ (State.captureSet_fits size settings),
    composer]
  rw [composer, live]
  exact fun w hw => (List.eq_of_mem_replicate hw) ▸ rfl

theorem State.captureSet_handed : Hands (e.captureBegun c) (e.captureSet c)
    ((if c.rate ≠ e.timing.rate ∧ e.timing.ref ≠ .freerun then [timingEvent e.timing.ref .freerun 0 false false true] else []) ++
      (List.range Config.externalSources).flatMap (fun i => settingEvents i (e.source i)
        ((e.source i).settingMoves (c.settings.getD i ⟨false, 1, none, 0⟩))))
    (fun k => decide (k = .timingChange) && decide (c.rate ≠ e.timing.rate ∧ e.timing.ref ≠ .freerun)) := by
  have source (i : Nat) : ((e.captureBegun c).applyRate c.rate c.lead).source i = e.source i := by
    rw [State.source, (State.applyRate_only _ _ _).sources_eq]
    rfl
  have moved := State.applyAllSettings_handed (s := (e.captureBegun c).applyRate c.rate c.lead) 0 c.settings
    (State.captureSet_fits size settings)
  simp only [source, Nat.zero_add, settings] at moved
  exact ((((e.captureBegun c).applyRate_handed c.rate c.lead).trans moved).before (State.setInternalRate_handed _ _)).congr rfl
    (fun k => Bool.or_false _)

end settings

theorem State.captureSet_modes : (e.captureSet c).modes = { e.modes with captured := some c, progress := .none } := by
  unfold State.captureSet
  rw [(State.setInternalRate_only _ _).modes_eq, (State.applyAllSettings_only _ _ _).modes_eq, (State.applyRate_only _ _ _).modes_eq]
  rfl

theorem State.captureSet_takes : (e.captureSet c).takes = e.takes.clearRefusals := by
  unfold State.captureSet
  rw [(State.setInternalRate_only _ _).takes_eq, (State.applyAllSettings_only _ _ _).takes_eq, (State.applyRate_only _ _ _).takes_eq]
  rfl

theorem State.captureSet_timing : (e.captureSet c).timing = if c.rate ≠ e.timing.rate then { e.timing with
      lead := c.lead, rate := c.rate, ref := .freerun, goodRun := 0, missingRun := 0, measured := none, intervals := [],
      runIntervals := [], prediction := none, afterNext := none, holdoverStart := none }
    else { e.timing with lead := c.lead } := by
  unfold State.captureSet
  rw [(State.setInternalRate_only _ _).timing_eq, (State.applyAllSettings_only _ _ _).timing_eq, State.applyRate_timing]
  rfl

theorem State.captureBegun_only : OnlyChanges [.takes, .composer, .modes, .rings] e (e.captureBegun c) := by
  constructor <;> simp [State.captureBegun, Report.causePart]

theorem State.captureSet_only : OnlyChanges [.interrupt, .takes, .composer, .sources, .timing, .modes, .rings, .causes, .status]
    e (e.captureSet c) :=
  (((State.captureBegun_only.mono (by decide)).next (State.applyRate_only _ _ _) (by decide)).next
    (State.applyAllSettings_only _ _ _) (by decide)).next (State.setInternalRate_only _ _) (by decide)

end Sys2Proof.Machine
end

section
-- Many short proofs follow one another: taken one at a time they need one thread's memory, not one's for each.
set_option Elab.async false
/-! PROOF. O48, second half: the start layout, the end of the activation, and the boundary (R135, R136, R185). -/

namespace Sys2Proof.Machine

variable {s t u e k : State} {c : Captured} {plan : List WindowRec} {n : Word}

/-! The start layout (R136). -/

/-- The state before the start layout's replacement of the old one. -/
def State.planInstalled (k : State) (c : Captured) (plan : List WindowRec) (n : Word) : State :=
  (k.rewriteSections.modComposer (fun co => { co with fallbackPlan := some plan })).installPlan (c.startPlan plan) n

theorem State.startedLayout_eq (k : State) (c : Captured) (plan : List WindowRec) (n : Word) :
    k.startedLayout c plan n = (k.planInstalled c plan n).layoutReplaced := rfl

theorem State.planInstalled_only (k : State) (c : Captured) (plan : List WindowRec) (n : Word) :
    OnlyChanges [.composer, .status] k (k.planInstalled c plan n) :=
  ((k.rewriteSections_only.mono (by decide)).next (State.modComposer_only _ _) (by decide)).next
    (State.installPlan_only _ _ _) (by decide)

theorem State.planned_congr (live : t.composer.live = s.composer.live) (plans : t.plansNow = s.plansNow) (plan : List WindowRec)
    (n : Word) : t.planned plan n = s.planned plan n := by
  unfold State.planned
  rw [live, plans]

theorem State.planInstalled_composer (k : State) (c : Captured) (plan : List WindowRec) (n : Word) :
    (k.planInstalled c plan n).composer = { k.composer with
      live := k.planned (c.startPlan plan) n, epoch := k.composer.epoch + 1, overruns := 0, fallbackOwed := false
      fallbackPlan := some plan, pendingEdits := [] } := by
  have only := (k.rewriteSections_only.mono (k := [.status, .composer]) (by decide)).next
    (State.modComposer_only _ (fun co => { co with fallbackPlan := some plan })) (by decide)
  have before : (k.rewriteSections.modComposer (fun co => { co with fallbackPlan := some plan })).composer =
      { k.composer with fallbackPlan := some plan } := by
    rw [modComposer_composer, k.rewriteSections_only.composer_eq]
  have planned := State.planned_congr (s := k) (t := k.rewriteSections.modComposer (fun co => { co with fallbackPlan := some plan }))
    (by rw [before]) (State.plansNow_congr only.sources_eq (by rw [only.modes_eq])) (c.startPlan plan) n
  unfold State.planInstalled
  generalize k.rewriteSections.modComposer (fun co => { co with fallbackPlan := some plan }) = w at before planned
  change { w.composer with
    live := w.planned (c.startPlan plan) n, epoch := w.composer.epoch + 1, overruns := 0, fallbackOwed := false
    pendingEdits := [] } = _
  rw [planned, before]

theorem State.planInstalled_status (map : k.map ≠ none) (c : Captured) (plan : List WindowRec) (n : Word) :
    (k.planInstalled c plan n).status = { StatusWriter.reset with toRewrite := [3, 4, 5, 6, 7] } := by
  unfold State.planInstalled
  rw [(State.installPlan_only _ _ _).status_eq, modComposer_status, State.rewriteSections,
    if_pos (Option.isSome_iff_ne_none.2 map)]
  rfl

section layout

variable (k c plan n)

theorem State.startedLayout_only : OnlyChanges [.composer, .status, .ports] k (k.startedLayout c plan n) :=
  ((k.planInstalled_only c plan n).mono (by decide)).next (State.layoutReplaced_only _) (by decide)

theorem State.startedLayout_besideEdits : (k.startedLayout c plan n).composer.besideEdits =
    ({ k.composer with
      live := k.planned (c.startPlan plan) n, epoch := k.composer.epoch + 1, overruns := 0, fallbackOwed := false
      fallbackPlan := some plan, pendingEdits := [] } : Composer).besideEdits := by
  rw [State.startedLayout_eq, State.layoutReplaced_besideEdits, State.planInstalled_composer]

theorem State.startedLayout_edits : EditsAfterCheck [] k.composer.editSerial (k.startedLayout c plan n) := by
  have edits := (k.planInstalled c plan n).layoutReplaced_edits
  rw [State.planInstalled_composer] at edits
  exact edits

theorem State.startedLayout_ports_length : (k.startedLayout c plan n).ports.length = k.ports.length := by
  rw [State.startedLayout_eq, State.layoutReplaced_ports_length, (k.planInstalled_only c plan n).ports_eq]

theorem State.startedLayout_planOfPort {i : Nat} (hi : i < k.ports.length) : (k.startedLayout c plan n).planOfPort i =
    (k.startedLayout c plan n).composer.live.plans.getD i [] := by
  rw [State.startedLayout_eq, State.layoutReplaced_live,
    State.layoutReplaced_planOfPort _ (by rw [(k.planInstalled_only c plan n).ports_eq]; exact hi)]

theorem State.startedLayout_status (map : k.map ≠ none) : (k.startedLayout c plan n).status = { StatusWriter.reset with
      windowsPending := true, plansPending := true, filtersPending := true, toRewrite := [3, 4, 5, 6, 7]
      headerWrites := [.marker .windowTable, .marker .tilePlans, .marker .filterList] } := by
  have mapped : (k.planInstalled c plan n).map ≠ none := by
    rw [State.map_congr (s := k) (by rw [(k.planInstalled_only c plan n).modes_eq])]
    exact map
  rw [State.startedLayout_eq, State.layoutReplaced_status, if_neg mapped, State.planInstalled_status map]
  rfl

end layout

/-! RUN reached (R126, R144). -/

theorem State.runReached_only (s : State) : OnlyChanges [.modes, .rings, .interrupt, .causes] s s.runReached :=
  (((s.raise_only .modeReached).mono (by decide)).next (State.moveMode_only _ _ _) (by decide)).next
    (State.startSupervision_only _) (by decide)

theorem State.runReached_modes (s : State) :
    s.runReached.modes = { s.modes with mode := .run, supervision := s.startedTimer } := by
  unfold State.runReached
  rw [State.startSupervision_modes, State.moveMode_modes]
  have timer : ((s.raise .modeReached).moveMode .run .activationDone).startedTimer = s.startedTimer := by
    unfold State.startedTimer
    rw [State.moveMode_modes, (State.moveMode_only _ _ _).now_eq]
    rfl
  rw [timer]
  rfl

theorem State.runReached_handed (s : State) :
    Hands s s.runReached [modeEvent s.modes.mode .run .activationDone] (fun c => decide (c = .modeReached)) :=
  (((s.raise_handed .modeReached).trans (State.moveMode_handed _ .run .activationDone)).before
    (State.startSupervision_handed _)).congr rfl (fun _ => Bool.or_false _)

theorem State.runReached_journal (s : State) : s.runReached.report.journalPart = s.report.journalPart :=
  (State.startSupervision_only _).journalPart_eq.trans
    ((State.moveMode_journal _ _ _).trans (State.raise_only _ _).journalPart_eq)

end Sys2Proof.Machine
end

section
-- Many short proofs follow one another: taken one at a time they need one thread's memory, not one's for each.
set_option Elab.async false
/-! PROOF. O48: the parts of an activation's end put together. -/

namespace Sys2Proof.Machine

variable {s e : State} {c : Captured} {plan : List WindowRec} {n : Word}

/-- The part once an activation has ended, before the frames begin (R135). -/
def State.activated (e : State) (c : Captured) (plan : List WindowRec) (n : Word) : State :=
  ((e.captureSet c).startedLayout c plan n).runReached

section activated

variable (e c plan n)

theorem State.activated_only : OnlyChanges [.interrupt, .takes, .composer, .ports, .sources, .timing, .modes, .rings, .causes, .status]
    e (e.activated c plan n) :=
  ((State.captureSet_only.mono (by decide)).next ((e.captureSet c).startedLayout_only c plan n) (by decide)).next
    (State.runReached_only _) (by decide)

theorem State.activated_after : OnlyChanges [.composer, .ports, .status, .modes, .rings, .interrupt, .causes] (e.captureSet c)
    (e.activated c plan n) :=
  (((e.captureSet c).startedLayout_only c plan n).mono (by decide)).next (State.runReached_only _) (by decide)

theorem State.startedLayout_modes : ((e.captureSet c).startedLayout c plan n).modes =
    { e.modes with captured := some c, progress := .none } := by
  rw [(State.startedLayout_only _ c plan n).modes_eq, State.captureSet_modes]

theorem State.activated_modes : (e.activated c plan n).modes = { e.modes with
    mode := .run, progress := .none, captured := some c
    supervision := if c.supervision = 0 then none else some e.now } := by
  have now : ((e.captureSet c).startedLayout c plan n).now = e.now := by
    rw [(State.startedLayout_only _ c plan n).now_eq, State.captureSet_only.now_eq]
  unfold State.activated
  rw [State.runReached_modes, State.startedTimer, State.startedLayout_modes, now]
  rfl

theorem State.activated_status : (e.activated c plan n).status = { StatusWriter.reset with
    windowsPending := true, plansPending := true, filtersPending := true, toRewrite := [3, 4, 5, 6, 7]
    headerWrites := [.marker .windowTable, .marker .tilePlans, .marker .filterList] } := by
  have map : (e.captureSet c).map ≠ none := by
    unfold State.map
    rw [State.captureSet_modes]
    exact Option.some_ne_none _
  rw [State.activated, (State.runReached_only _).status_eq, State.startedLayout_status _ _ _ _ map]

theorem State.activated_takes : (e.activated c plan n).takes = e.takes.clearRefusals := by
  rw [(State.activated_after e c plan n).takes_eq, State.captureSet_takes]

theorem State.activated_composer : (e.activated c plan n).composer = ((e.captureSet c).startedLayout c plan n).composer :=
  (State.runReached_only _).composer_eq

theorem State.activated_planOfPort (length : e.ports.length = Config.tilePorts) {i : Nat} (hi : i < Config.tilePorts) :
    (e.activated c plan n).planOfPort i = (e.activated c plan n).composer.live.plans.getD i [] := by
  rw [State.activated_composer, ← State.startedLayout_planOfPort (e.captureSet c) c plan n
    (by rw [State.captureSet_only.ports_eq, length]; exact hi)]
  exact State.planOfPort_congr (State.runReached_only _).ports_eq i

theorem State.activated_ports_length : (e.activated c plan n).ports.length = e.ports.length := by
  rw [State.activated, (State.runReached_only _).ports_eq, State.startedLayout_ports_length, State.captureSet_only.ports_eq]

variable {e c} (size : e.sources.length = Config.allSources) (settings : c.settings.length = Config.externalSources)

include size settings

theorem State.activated_journal : (e.activated c plan n).report.journalPart = (Ring.initial c.journal, [], none) := by
  rw [State.activated, State.runReached_journal, (State.startedLayout_only _ _ _ _).journalPart_eq,
    State.captureSet_journal size settings]

theorem State.activated_handed : Hands (e.captureBegun c) (e.activated c plan n)
    ((if c.rate ≠ e.timing.rate ∧ e.timing.ref ≠ .freerun then [timingEvent e.timing.ref .freerun 0 false false true] else []) ++
      (List.range Config.externalSources).flatMap (fun i => settingEvents i (e.source i)
        ((e.source i).settingMoves (c.settings.getD i ⟨false, 1, none, 0⟩))) ++
      [modeEvent e.modes.mode .run .activationDone])
    (fun k => decide (k = .modeReached) ||
      (decide (k = .timingChange) && decide (c.rate ≠ e.timing.rate ∧ e.timing.ref ≠ .freerun))) := by
  have started : Hands (e.captureSet c) ((e.captureSet c).startedLayout c plan n) [] (fun _ => false) := by
    have only := State.startedLayout_only (e.captureSet c) c plan n
    refine .of_frame only only.eventPart_eq (by rw [only.modes_eq]) (by rw [only.modes_eq]) ?_
    have beside := State.startedLayout_besideEdits (e.captureSet c) c plan n
    exact (congrArg (fun co => co.live.filters) beside : _)
  have reached := State.runReached_handed ((e.captureSet c).startedLayout c plan n)
  rw [State.startedLayout_modes] at reached
  exact (((State.captureSet_handed size settings).before started).trans reached).congr rfl (fun k => Bool.or_comm _ _)

variable (live : e.composer.live = Layout.cleared)

include live

theorem State.activated_besideEdits : (e.activated c plan n).composer.besideEdits = ({ e.composer with
    live := (e.captureSet c).planned (c.startPlan plan) n, epoch := e.composer.epoch + 1, overruns := 0
    fallbackOwed := false, fallbackPlan := some plan, pendingEdits := [] } : Composer).besideEdits := by
  rw [State.activated_composer, State.startedLayout_besideEdits, State.captureSet_composer size settings live]

theorem State.activated_edits : EditsAfterCheck [] e.composer.editSerial (e.activated c plan n) := by
  have edits := State.startedLayout_edits (e.captureSet c) c plan n
  rw [State.captureSet_composer size settings live] at edits
  have only := State.runReached_only ((e.captureSet c).startedLayout c plan n)
  have calls : (e.activated c plan n).checkCalls [] = ((e.captureSet c).startedLayout c plan n).checkCalls [] := by
    unfold State.checkCalls State.source
    rw [State.activated, only.composer_eq, only.sources_eq]
  refine ⟨?_, ?_⟩
  · rw [calls, State.activated_composer]
    exact edits.edits
  · rw [calls, State.activated_composer]
    exact edits.next

theorem State.activated_installs : InstallsPlan (c.startPlan plan) Layout.cleared.windows n (e.activated c plan n) := by
  have after := State.activated_after e c plan n
  have plans : (e.activated c plan n).plansNow = (e.captureSet c).plansNow :=
    State.plansNow_congr after.sources_eq (by rw [State.activated_modes, State.captureSet_modes])
  have composer := State.captureSet_composer size settings live
  have installs := State.installsPlan (s := e.captureSet c) (t := e.activated c plan n) (plan := c.startPlan plan) (n := n)
    (congrArg Composer.live (State.activated_besideEdits plan n size settings live) : _) plans
  have windows : (e.captureSet c).composer.live.windows = Layout.cleared.windows := by rw [composer, live]
  rw [windows] at installs
  exact installs

end activated

/-- The frames begun after an activation. -/
theorem State.activated_boundaryRest (e : State) (c : Captured) (plan : List WindowRec) (n : Word) :
    (e.activated c plan n).boundaryRest = (e.activated c plan n).framesBegun := by
  unfold State.boundaryRest
  rw [State.activated_modes]
  exact congrArg State.framesBegun (if_neg nofun)

theorem exec_boundary_activates (owed : s.composer.fallbackOwed = false) (mode : s.modes.mode = .activating)
    (progress : s.modes.progress = .passed c plan) : exec .boundary s =
      .next (s.counted.ringsDone.activated c plan (s.timing.frame + 1)).framesBegun := by
  rw [exec_boundary, State.composerBoundary_activates (s := s.counted) owed mode progress, State.captureConfig_parts,
    ← State.activated_boundaryRest]
  rfl

theorem State.activated_source (size : s.sources.length = Config.allSources)
    (settings : c.settings.length = Config.externalSources) (j : Nat) :
    (s.ringsDone.activated c plan n).source j =
      if j < Config.externalSources then (s.source j).afterSettings (c.settings.getD j ⟨false, 1, none, 0⟩)
      else if j < Config.allSources then SourceRec.internal c.rate.millihertz else SourceRec.external := by
  rw [← s.settingsInForce_source c size settings j, s.settingsInForce_eq, State.source,
    (State.activated_after s.ringsDone c plan n).sources_eq]
  rfl

theorem State.activated_sized (size : s.sources.length = Config.allSources) :
    (s.ringsDone.activated c plan n).sources.length = Config.allSources := by
  rw [(State.activated_after s.ringsDone c plan n).sources_eq, ← s.settingsInForce_eq, s.settingsInForce_sources_length c size]
  exact size

/-- The state from which the events of an activation's end are handed on. -/
theorem State.captureBegun_handed (e : State) (c : Captured) (m : ModeCtl) (co : Composer) (master : m.intEnable = e.modes.intEnable) :
    Hands ({ e with
      modes := { m with captured := some c }
      composer := { co with live := { Layout.cleared with filters := c.filters } }
      report := { e.report with
        journal := Ring.initial c.journal, urgent := Ring.initial c.urgent, routine := Ring.initial c.routine
        journalQueue := [], urgentQueue := [], routineQueue := [] } } : State) (e.captureBegun c) [] (fun _ => false) :=
  .of_frame (l := [.takes, .composer, .modes, .rings]) (by constructor <;> simp [State.captureBegun, Report.causePart]) rfl rfl
    master.symm rfl

/-- Settles O48: the capture, the settings, the start layout and the end of the activation, then the frames. -/
theorem boundaryEndsActivation : Obligations.BoundaryEndsActivation := by
  intro s c plan mode progress ok tables layout
  refine ⟨fun p => rfl, fun rate => rfl, ⟨rfl, rfl, rfl⟩, ?_⟩
  have owed := layout.owed_none (.inl (by rw [mode]; rfl))
  have live := layout.early (by rw [mode]; rfl)
  have settings : c.settings.length = Config.externalSources := by
    have sized := tables.progress
    rw [progress] at sized
    exact sized.2.1
  have exec := exec_boundary_activates owed mode progress
  have source := State.activated_source (s := s.counted) (c := c) (plan := plan) (n := s.timing.frame + 1) tables.sources settings
  have sized := State.activated_sized (s := s.counted) (c := c) (plan := plan) (n := s.timing.frame + 1) tables.sources
  have done := s.counted.ringsDone_only
  have composer : s.counted.ringsDone.composer = s.composer := done.composer_eq
  have modes : s.counted.ringsDone.modes = s.modes := done.modes_eq
  have sources : s.counted.ringsDone.sources = s.sources := done.sources_eq
  have ports : s.counted.ringsDone.ports = s.ports := done.ports_eq
  have timing : s.counted.ringsDone.timing = s.timing.atBoundary := done.timing_eq
  have now : s.counted.ringsDone.now = max s.now s.timing.nextBoundary := done.now_eq
  clear done
  refine ⟨_, exec, ?_⟩
  dsimp only
  generalize s.counted.ringsDone = e at *
  have size : e.sources.length = Config.allSources := by rw [sources]; exact tables.sources
  have length : e.ports.length = Config.tilePorts := by rw [ports]; exact tables.ports
  have cleared : e.composer.live = Layout.cleared := by rw [composer]; exact live
  have frames := (e.activated c plan (s.timing.frame + 1)).framesBegun_only
  have only := e.activated_only c plan (s.timing.frame + 1)
  have beside := State.activated_besideEdits plan (s.timing.frame + 1) size settings cleared
  have modes' := e.activated_modes c plan (s.timing.frame + 1)
  have timing' : (e.activated c plan (s.timing.frame + 1)).timing = _ :=
    (State.activated_after e c plan (s.timing.frame + 1)).timing_eq.trans State.captureSet_timing
  have journal := State.activated_journal plan (s.timing.frame + 1) size settings
  have handed := State.activated_handed plan (s.timing.frame + 1) size settings
  have edits := State.activated_edits plan (s.timing.frame + 1) size settings cleared
  have installs := State.activated_installs plan (s.timing.frame + 1) size settings cleared
  have status := e.activated_status c plan (s.timing.frame + 1)
  have takes := e.activated_takes c plan (s.timing.frame + 1)
  have begins := State.framesBegun_begins (e.activated c plan (s.timing.frame + 1))
    (by rw [State.activated_ports_length]; exact length) (fun i hi => e.activated_planOfPort c plan _ length hi)
  have filters := congrArg (fun co => co.live.filters) (State.captureSet_composer size settings cleared)
  have started := e.captureBegun_handed c s.modes s.composer (congrArg (fun m : ModeCtl => m.intEnable) modes.symm)
  rw [timing, modes, mode] at handed
  simp only [show e.source = s.source by unfold State.source; rw [sources]] at handed
  have handed := (handed.after started).before (.of_frame (e.activated c plan (s.timing.frame + 1)).framesBegun_only
    frames.eventPart_eq (by rw [frames.modes_eq]) (by rw [frames.modes_eq]) (by rw [frames.composer_eq]))
  rw [composer] at beside
  have scheduled := (e.activated c plan (s.timing.frame + 1)).framesBegun_timing
  have framed := (e.activated c plan (s.timing.frame + 1)).framesBegun_status
  generalize e.activated c plan (s.timing.frame + 1) = u at *
  rw [← frames.composer_eq] at beside
  have source' (i : Nat) : u.framesBegun.source i = u.source i := by rw [State.source, frames.sources_eq]; rfl
  have plans : u.framesBegun.plansNow = u.plansNow := State.plansNow_congr frames.sources_eq (by rw [frames.modes_eq])
  generalize u.framesBegun = t at *
  refine ⟨?_, ?_, ?_, ?_, ?_, ?_, ?_, ?_, ?_, ?_, ?_, ?_, ?_, ?_, ?_, ?_, ?_, ?_, ?_, ?_⟩
  · rw [frames.now_eq, only.now_eq, now]
  · rw [frames.modes_eq, modes', modes, now]
  · rw [frames.journalPart_eq, journal]
  · exact handed.hands
  · rw [frames.takes_eq, takes]
    rfl
  · rw [frames.sources_eq, sized]
  · intro i hi
    have reads : t.source i = _ := (source' i).trans ((source i).trans (if_pos hi))
    have given : (t.source i).settings = c.settings.getD i ⟨false, 1, none, 0⟩ := by
      rw [reads]
      exact SourceRec.afterSettings_settings _ _
    exact ⟨reads, given, congrArg SourceSettings.declaredClass given⟩
  · intro i out inside
    have reads : t.source i = _ := (source' i).trans ((source i).trans ((if_neg (Nat.not_lt.2 out)).trans (if_pos inside)))
    exact ⟨reads, by unfold State.classOf; rw [reads]; rfl⟩
  · rw [scheduled, timing', timing]
    change Timing.next (if c.rate ≠ s.timing.rate then _ else _) = _
    split <;> rfl
  · have windows : s.composer.live.windows = Layout.cleared.windows := by rw [live]
    rw [windows]
    have live := frames.composer_eq
    refine ⟨by rw [live]; exact installs.length, fun i hi => by rw [live]; exact installs.window i hi, ?_⟩
    rw [plans, live]
    exact installs.plans
  · exact (congrArg (fun co => co.live.filters) beside : _).trans filters
  · exact (congrArg Composer.fallbackPlan beside : _)
  · exact (congrArg Composer.overruns beside : _)
  · exact (congrArg Composer.epoch beside : _)
  · exact (congrArg Composer.build beside : _)
  · exact (congrArg Composer.fallbackOwed beside : _)
  · have calls : t.checkCalls [] = u.checkCalls [] := by
      unfold State.checkCalls State.source
      rw [frames.composer_eq, frames.sources_eq]
    rw [composer] at edits
    refine ⟨?_, ?_⟩
    · rw [calls, frames.composer_eq]
      exact edits.edits
    · rw [calls, frames.composer_eq]
      exact edits.next
  · rw [frames.composer_eq]
    exact begins
  · have map : u.map ≠ none := by
      unfold State.map
      rw [modes']
      exact Option.some_ne_none _
    have frame : u.timing.frame = s.timing.frame + 1 := by
      rw [timing', timing]
      split <;> rfl
    rw [framed, if_neg map, status, frame]
    rfl
  · exact only.next frames (by decide)

end Sys2Proof.Machine
end

section
-- Many short proofs follow one another: taken one at a time they need one thread's memory, not one's for each.
set_option Elab.async false
/-! PROOF. What a controller master's writes leave of the rest, in one normal form (R184). -/

namespace Sys2Proof.Machine

variable {s t u : State}

/-- The state once a controller master has written blocks, each at its turn, and its own record is `w` (R184). -/
def State.wrote (s : State) (l : Blocks) (w : StatusWriter) : State := { s.ctlWrites l with status := w }

/-- The rings and what waits for them, as `withWork` takes them. -/
def Report.work (r : Report) : (Ring × Ring × Ring) × List JournalEntry × List Event × List Event × Option (RingJob × Nat) :=
  ((r.journal, r.urgent, r.routine), r.journalQueue, r.urgentQueue, r.routineQueue, r.ringJob)

theorem Report.work_congr {r q : Report} (h : r.ringPart = q.ringPart) : r.work = q.work := by
  obtain ⟨journal, -, -, queue, job⟩ := Report.ringPart_parts h .journal
  obtain ⟨urgent, urgentQueue, -⟩ := Report.ringPart_parts h .urgent
  obtain ⟨routine, routineQueue, -⟩ := Report.ringPart_parts h .routine
  unfold Report.work
  rw [show r.journal = q.journal from journal, show r.urgent = q.urgent from urgent, show r.routine = q.routine from routine,
    queue, show r.urgentQueue = q.urgentQueue from urgentQueue, show r.routineQueue = q.routineQueue from routineQueue, job]

theorem State.withWork_status (s : State) (w : StatusWriter) : s.withWork w s.report.work = { s with status := w } := rfl

/-- What the status writer's record holds is nothing to the writes. -/
theorem State.ctlWrites_withStatus (s : State) (l : Blocks) (w : StatusWriter) :
    ({ s with status := w } : State).ctlWrites l = s.wrote l w := by
  rw [← s.withWork_status w, State.ctlWrites_withWork,
    ← Report.work_congr (OnlyChanges.rings_eq (State.ctlWrites_only s l)), State.withWork_status]
  rfl

section wrote

variable (s) (l : Blocks) (w : StatusWriter)

theorem State.wrote_only : OnlyChanges [.ram, .lastServed, .waiting, .blocks, .completion, .interrupt, .causes, .status] s
    (s.wrote l w) :=
  ((s.ctlWrites_only l).mono (by decide)).next ((s.ctlWrites l).setStatus_only w) (by decide)

theorem State.wrote_ctlWrites (k : Blocks) : (s.wrote l w).ctlWrites k = s.wrote (l ++ k) w := by
  rw [State.wrote, State.ctlWrites_withStatus, State.wrote, State.wrote, State.ctlWrites_append]

theorem State.wrote_ctlWrite (a : Nat) (bs : List Byte) : (s.wrote l w).ctlWrite a bs = s.wrote (l ++ [(a, bs)]) w :=
  s.wrote_ctlWrites l w [(a, bs)]

theorem State.wrote_modStatus (f : StatusWriter → StatusWriter) : (s.wrote l w).modStatus f = s.wrote l (f w) := rfl

end wrote

theorem State.commitDone_wrote (s : State) :
    s.commitDone = s.wrote (s.status.headerWrites.map s.headerBlock) { s.status with headerWrites := [] } := s.commitDone_eq

/-! The status writer's blocks read nothing that the writes change. -/

theorem State.statusBlocks_congr (takes : t.takes = s.takes) (composer : t.composer = s.composer) (sources : t.sources = s.sources)
    (modes : t.modes = s.modes) (now : t.now = s.now) (counts : t.status.updateCounts = s.status.updateCounts) (j : StatusJob) :
    t.statusBlocks j = s.statusBlocks j := by
  have map : t.map = s.map := State.map_congr (by rw [modes])
  have geometry : t.geometry = s.geometry := State.geometry_congr modes
  have source : t.source = s.source := by unfold State.source; rw [sources]
  have area (n : Nat) : t.sectionArea n = s.sectionArea n := by unfold State.sectionArea; rw [map]
  have mirror (m : Mirror) : t.mirrorArea m = s.mirrorArea m := by unfold State.mirrorArea; rw [map]
  have records (n : Nat) : t.sectionRecords n = s.sectionRecords n := by
    unfold State.sectionRecords
    rw [takes, composer, sources, geometry, now]
  cases j with
  | wholeSection n =>
    unfold State.statusBlocks
    simp only [area, records]
  | mirror m =>
    unfold State.statusBlocks State.markerPlace
    simp only [mirror, composer, geometry]
  | source i =>
    unfold State.statusBlocks
    simp only [map, source, counts, now]

theorem State.wrote_statusLeft (s : State) (l : Blocks) {w : StatusWriter} (counts : w.updateCounts = s.status.updateCounts)
    (job : w.job = s.status.job) (j : StatusJob) : (s.wrote l w).statusLeft j = s.statusLeft j := by
  have only := s.wrote_only l w
  have written : (s.wrote l w).status.written j = s.status.written j := by
    unfold StatusWriter.written
    rw [show (s.wrote l w).status.job = s.status.job from job]
  unfold State.statusLeft
  rw [State.statusBlocks_congr only.takes_eq only.composer_eq only.sources_eq only.modes_eq only.now_eq counts, written]

/-- The status writer's record once the commit writer's are made and a work is no longer in hand. -/
abbrev StatusWriter.ended (w : StatusWriter) (j : StatusJob) : StatusWriter :=
  { w with headerWrites := [], job := w.job.filter (fun k => decide (k.1 ≠ j)) }

/-- The blocks of the commit writer, and those of a work that still have to be written. -/
abbrev State.headersThen (s : State) (j : StatusJob) : Blocks := s.status.headerWrites.map s.headerBlock ++ s.statusLeft j

/-- Every block of a work stands, after the commit writer's. -/
theorem State.doStatusJob_commitDone (s : State) (j : StatusJob) : s.commitDone.doStatusJob j =
    s.wrote (s.headersThen j) (s.status.ended j) := by
  have tests : (fun k : StatusJob × Nat => !decide (k.1 = j)) = fun k => decide (k.1 ≠ j) := funext (fun k => by simp)
  unfold State.doStatusJob
  rw [State.commitDone_wrote, State.wrote_statusLeft, State.wrote_ctlWrites, State.wrote_modStatus]
  · unfold StatusWriter.setAside
    dsimp only
    rw [tests]
  · rfl
  · rfl

end Sys2Proof.Machine
end

section
-- Many short proofs follow one another: taken one at a time they need one thread's memory, not one's for each.
set_option Elab.async false
/-! PROOF. The status writer's commands: the writes that end its works (R21, R22, R27, R93). -/

namespace Sys2Proof.Machine

variable {s t u : State} {m : SectionMap}

theorem ne_test (a : Nat) : (fun k => k != a) = fun k => decide (k ≠ a) :=
  funext (fun k => by by_cases h : k = a <;> simp [h])

/-! The writes that end a work, after the commit writer's (R184, R185). -/

theorem State.writeSection_commitDone (map : s.map = some m) (n : Nat) : s.commitDone.writeSection n =
    s.wrote (s.headersThen (.wholeSection n) ++ [((sectionOf m n).start, s.sectionHeader n)])
      ((s.status.ended (.wholeSection n)).sectionDone n) := by
  have only := s.wrote_only (s.headersThen (.wholeSection n)) (s.status.ended (.wholeSection n))
  have header : (s.wrote (s.headersThen (.wholeSection n)) (s.status.ended (.wholeSection n))).sectionHeader n =
      s.sectionHeader n := by
    unfold State.sectionHeader
    rw [only.takes_eq, only.timing_eq, only.composer_eq]
  have area := State.sectionArea_of_map ((State.map_congr (by rw [only.modes_eq])).trans map) n
  unfold State.writeSection State.andThen
  rw [State.doStatusJob_commitDone]
  dsimp only
  rw [header, area, State.wrote_ctlWrite, State.wrote_modStatus]

theorem State.mirrorArea_of_map (map : s.map = some m) (k : Mirror) : s.mirrorArea k = sectionOf m (mirrorSection k) := by
  unfold State.mirrorArea
  rw [map]

theorem State.completeMirror_commitDone (map : s.map = some m) (k : Mirror) : s.commitDone.completeMirror k =
    s.wrote (s.headersThen (.mirror k) ++ [((sectionOf m (mirrorSection k)).start, mirrorHeaderBytes s.composer.epoch false)])
      ((s.status.ended (.mirror k)).rewritten k) := by
  have only := s.wrote_only (s.headersThen (.mirror k)) (s.status.ended (.mirror k))
  have area := State.mirrorArea_of_map ((State.map_congr (by rw [only.modes_eq])).trans map) k
  unfold State.completeMirror State.andThen
  rw [State.doStatusJob_commitDone]
  dsimp only
  rw [area, only.composer_eq, State.wrote_ctlWrite, State.wrote_modStatus]

theorem State.publishSource_commitDone (s : State) (m : SectionMap) (i : Nat) : s.commitDone.publishSource m i =
    let update := s.status.updateCounts.getD i 0 + 1
    s.wrote (s.headersThen (.source i) ++
      [((sectionOf m 6).start + 64 + 32 * i, sourceRecordBytes false (s.source i) update s.now),
        ((sectionOf m 6).start, bytesWord (s.status.changeCount + 1))])
      { s.status.ended (.source i) with
        sourceDirty := s.status.sourceDirty &&& ~~~(1#44 <<< i), updateCounts := s.status.updateCounts.set i update
        changeCount := s.status.changeCount + 1 } := by
  have only := s.commitDone_only
  have status : s.commitDone.status = { s.status with headerWrites := [] } := by rw [State.commitDone_wrote]; rfl
  have source : s.commitDone.source i = s.source i := by rw [State.source, only.sources_eq]; rfl
  unfold State.publishSource State.andThen
  rw [State.doStatusJob_commitDone]
  dsimp only
  rw [status, source, only.now_eq, State.wrote_ctlWrite, State.wrote_ctlWrite,
    State.wrote_modStatus, List.append_assoc]
  rfl

theorem State.copySlotPart_header (s : State) (m : SectionMap) : s.commitDone.copySlotPart m .header =
    s.wrote (s.status.headerWrites.map s.headerBlock ++ [((sectionOf m 3).start + 4, bytesHalf s.takes.nextSeq)])
      { s.status with slotHeaderDirty := false, headerWrites := [] } := by
  unfold State.copySlotPart
  dsimp only
  rw [s.commitDone_only.takes_eq, State.commitDone_wrote, State.wrote_ctlWrite, State.wrote_modStatus]

theorem State.copySlotPart_record (s : State) (m : SectionMap) (i : Fin 16) : s.commitDone.copySlotPart m (.record i) =
    s.wrote (s.status.headerWrites.map s.headerBlock ++
      [((sectionOf m 3).start + 64 + 16 * i.val, slotRecordBytes (s.slot i.val))])
      { s.status with slotDirty := s.status.slotDirty &&& ~~~(1#16 <<< i.val), headerWrites := [] } := by
  unfold State.copySlotPart
  dsimp only
  rw [(s.commitDone_only.slot_eq) i.val, State.commitDone_wrote, State.wrote_ctlWrite, State.wrote_modStatus]

/-! The record once a section is done. -/

theorem StatusWriter.sectionDone_mirror (w : StatusWriter) (k : Mirror) : w.sectionDone (mirrorSection k) =
    { w.rewritten k with toRewrite := w.toRewrite.filter (fun j => decide (j ≠ mirrorSection k)) } := by
  unfold StatusWriter.sectionDone
  rw [ne_test]
  cases k <;> rfl

theorem StatusWriter.sectionDone_sources (w : StatusWriter) : w.sectionDone 6 =
    { w with
      toRewrite := w.toRewrite.filter (fun j => decide (j ≠ 6)), sourceDirty := 0, updateCounts := List.replicate 44 0
      changeCount := 0 } := by
  unfold StatusWriter.sectionDone
  rw [ne_test]
  rfl

theorem StatusWriter.sectionDone_slots (w : StatusWriter) : w.sectionDone 3 =
    { w with
      toRewrite := w.toRewrite.filter (fun j => decide (j ≠ 3)), slotDirty := 0, slotHeaderDirty := false } := by
  unfold StatusWriter.sectionDone
  rw [ne_test]
  rfl

theorem mirrorSection_header (s : State) (k : Mirror) :
    s.sectionHeader (mirrorSection k) = mirrorHeaderBytes s.composer.epoch false := by
  cases k <;> rfl

/-! The commands when the status writer is granted (R184). -/

section granted

variable (map : s.map = some m) (granted : s.writerGranted = true)

include map granted

theorem exec_mirrorRewriteDone_whole {k : Mirror} (h : mirrorSection k ∈ s.status.toRewrite) :
    exec (.mirrorRewriteDone k) s = .next (s.commitDone.writeSection (mirrorSection k)).resume := by
  change execMirrorRewriteDone k s = _
  unfold execMirrorRewriteDone
  rw [if_pos (by rw [map, granted]; rfl), if_pos (List.contains_iff_mem.2 h)]

theorem exec_mirrorRewriteDone_mirror {k : Mirror} (h : mirrorSection k ∉ s.status.toRewrite)
    (rewriting : s.status.rewriting k = true) :
    exec (.mirrorRewriteDone k) s = .next (s.commitDone.completeMirror k).resume := by
  change execMirrorRewriteDone k s = _
  unfold execMirrorRewriteDone
  rw [if_pos (by rw [map, granted]; rfl), if_neg (by simp [h]), if_pos rewriting]

theorem exec_sourceRecordPublished_whole (i : Fin 44) (h : 6 ∈ s.status.toRewrite) :
    exec (.sourceRecordPublished i) s = .next (s.commitDone.writeSection 6).resume := by
  change execSourceRecordPublished i s = _
  unfold execSourceRecordPublished
  rw [map]
  dsimp only
  rw [if_pos granted, if_pos (List.contains_iff_mem.2 h)]

theorem exec_sourceRecordPublished_record {i : Fin 44} (h : 6 ∉ s.status.toRewrite)
    (dirty : s.status.sourceDirty.getLsbD i.val = true) (next : s.status.nextSource = some i.val) :
    exec (.sourceRecordPublished i) s = .next (s.commitDone.publishSource m i.val).resume := by
  change execSourceRecordPublished i s = _
  unfold execSourceRecordPublished
  rw [map]
  dsimp only
  rw [if_pos granted, if_neg (by simp [h]), if_pos (by rw [dirty, next]; simp)]

theorem exec_slotTableWritten_whole (p : SlotTablePart) (h : 3 ∈ s.status.toRewrite) :
    exec (.slotTableWritten p) s = .next (s.commitDone.writeSection 3).resume := by
  change execSlotTableWritten p s = _
  unfold execSlotTableWritten
  rw [map]
  dsimp only
  rw [if_pos (by rw [granted, List.contains_iff_mem.2 h]; rfl)]

theorem exec_slotTableWritten_part {p : SlotTablePart} (h : 3 ∉ s.status.toRewrite) (work : s.status.slotWork p = true) :
    exec (.slotTableWritten p) s = .next (s.commitDone.copySlotPart m p).resume := by
  change execSlotTableWritten p s = _
  unfold execSlotTableWritten
  rw [map]
  dsimp only
  rw [if_neg (by simp [h]), if_pos (by rw [granted, work]; rfl)]

end granted

/-! The commands that have nothing to write (R184). -/

theorem exec_mirrorRewriteDone_idle {k : Mirror}
    (h : s.map = none ∨ s.writerGranted = false ∨ (mirrorSection k ∉ s.status.toRewrite ∧ s.status.rewriting k = false)) :
    exec (.mirrorRewriteDone k) s = .next s := by
  change execMirrorRewriteDone k s = _
  unfold execMirrorRewriteDone
  rcases h with h | h | ⟨h, r⟩
  · rw [h]; rfl
  · rw [h, Bool.and_false]; rfl
  · simp [h, r]

theorem exec_sourceRecordPublished_idle {i : Fin 44} (h : s.map = none ∨ s.writerGranted = false ∨ (6 ∉ s.status.toRewrite ∧
      (s.status.sourceDirty.getLsbD i.val = false ∨ s.status.nextSource ≠ some i.val))) :
    exec (.sourceRecordPublished i) s = .next s := by
  change execSourceRecordPublished i s = _
  unfold execSourceRecordPublished
  cases map : s.map with
  | none => rfl
  | some m =>
    dsimp only
    rcases h with h | h | ⟨h, r⟩
    · rw [map] at h; cases h
    · rw [h]; rfl
    · have skip : (s.status.sourceDirty.getLsbD i.val && decide (s.status.nextSource = some i.val)) = false := by
        rcases r with r | r
        · rw [r]; rfl
        · simp [r]
      rw [skip]
      simp [h]

theorem exec_slotTableWritten_header_idle (h : s.map = none ∨ s.readerGranted = false ∨ (s.status.frameWaits = false ∧
      (s.writerGranted = false ∨ (3 ∉ s.status.toRewrite ∧ s.status.slotHeaderDirty = false)))) :
    exec (.slotTableWritten .header) s = .next s := by
  change execSlotTableWritten .header s = _
  unfold execSlotTableWritten
  cases map : s.map with
  | none => rfl
  | some m =>
    dsimp only
    rcases h with h | h | ⟨frame, h⟩
    · rw [map] at h; cases h
    · have writer : s.writerGranted = false := by unfold State.writerGranted; rw [h]; rfl
      rw [h, writer]
      rfl
    · rw [frame, Bool.and_false]
      rcases h with h | ⟨h, r⟩
      · rw [h]; rfl
      · simp [h, StatusWriter.slotWork, r]

theorem exec_slotTableWritten_record_idle {i : Fin 16} (h : s.map = none ∨ s.writerGranted = false ∨
      (3 ∉ s.status.toRewrite ∧ s.status.slotDirty.getLsbD i.val = false)) :
    exec (.slotTableWritten (.record i)) s = .next s := by
  change execSlotTableWritten (.record i) s = _
  unfold execSlotTableWritten
  cases map : s.map with
  | none => rfl
  | some m =>
    dsimp only
    rcases h with h | h | ⟨h, r⟩
    · rw [map] at h; cases h
    · simp [h]
    · have skip : s.status.slotWork (.record i) = false := r
      simp [h, skip]

end Sys2Proof.Machine
end

section
-- Many short proofs follow one another: taken one at a time they need one thread's memory, not one's for each.
set_option Elab.async false
/-! PROOF. O49: the status writer's blocks, its grants and the order of its works (R22, R93, R184). -/

namespace Sys2Proof.Machine

variable {s t u : State} {m : SectionMap}

/-! The blocks of a work. -/

theorem State.statusBlocks_mirror (map : s.map = some m) (k : Mirror) : s.statusBlocks (.mirror k) =
    ((sectionOf m (mirrorSection k)).start + 4, [1]) ::
      blocksOf ((sectionOf m (mirrorSection k)).start + 64) (mirrorRecords s.composer.live s.geometry.tiles k) := by
  unfold State.statusBlocks State.markerPlace
  dsimp only
  rw [State.mirrorArea_of_map map]
  rfl

theorem State.statusBlocks_source (map : s.map = some m) (i : Nat) : s.statusBlocks (.source i) =
    [((sectionOf m 6).start + 64 + 32 * i, [1]),
      ((sectionOf m 6).start + 64 + 32 * i,
        sourceRecordBytes true (s.source i) (s.status.updateCounts.getD i 0) s.now)] := by
  unfold State.statusBlocks
  dsimp only
  rw [map]
  rfl

/-- The records of one of the status writer's sections. -/
theorem State.sectionRecords_eq {n : Nat} {bs : List Byte} (h : (n = 3 ∧ bs = s.takes.slots.flatMap slotRecordBytes) ∨
      (n = 6 ∧ bs = s.sources.flatMap (fun r => sourceRecordBytes false r 0 s.now)) ∨
      (∃ k, n = mirrorSection k ∧ bs = mirrorRecords s.composer.live s.geometry.tiles k)) : s.sectionRecords n = bs := by
  rcases h with ⟨rfl, rfl⟩ | ⟨rfl, rfl⟩ | ⟨k, rfl, rfl⟩
  · rfl
  · rfl
  · cases k <;> rfl

theorem State.statusBlocks_wholeSection (map : s.map = some m) (n : Nat) : s.statusBlocks (.wholeSection n) =
    (if n = 3 ∨ n = 6 then [] else [((sectionOf m n).start + 4, [1])]) ++ blocksOf ((sectionOf m n).start + 64)
      (s.sectionRecords n ++ List.replicate ((sectionOf m n).size - 64 - (s.sectionRecords n).length) 0) := by
  unfold State.statusBlocks
  dsimp only
  rw [State.sectionArea_of_map map]
  rfl

/-! How far a work stands. -/

theorem StatusWriter.written_job {w : StatusWriter} {j : StatusJob} {n : Nat} (h : w.job = some (j, n)) : w.written j = n := by
  unfold StatusWriter.written
  rw [h]
  exact if_pos rfl

theorem StatusWriter.written_other {w : StatusWriter} {j : StatusJob} (h : ∀ n, w.job ≠ some (j, n)) : w.written j = 0 := by
  unfold StatusWriter.written
  cases hj : w.job with
  | none => rfl
  | some p =>
    refine if_neg (fun e => h p.2 ?_)
    rw [hj, ← e]

theorem StatusWriter.written_next {w : StatusWriter} {j : StatusJob} {n : Nat}
    (h : w.job = some (j, n) ∨ (w.job = none ∧ w.next = some j ∧ n = 0)) : w.workNext = some j ∧ w.written j = n := by
  rcases h with h | ⟨h, next, rfl⟩
  · exact ⟨by rw [StatusWriter.workNext, h]; rfl, StatusWriter.written_job h⟩
  · exact ⟨by rw [StatusWriter.workNext, h, next]; rfl, StatusWriter.written_other (by rw [h]; nofun)⟩

/-! A grant without a command (R184). -/

theorem State.statusGrant_writes {j : StatusJob} {b : Nat × List Byte} (next : s.status.workNext = some j)
    (block : (s.statusBlocks j)[s.status.written j]? = some b) : s.grantTo .statusWriter = { s with
      ram := Memory.write s.ram b.1 b.2, lastServed := .controller
      status := { s.status with job := some (j, s.status.written j + 1) } } := by
  change s.statusGrant = _
  unfold State.statusGrant State.statusLeft
  rw [next]
  dsimp only
  obtain ⟨h, rfl⟩ := List.getElem?_eq_some_iff.1 block
  rw [List.drop_eq_getElem_cons h]
  rfl

theorem State.statusGrant_ended {j : StatusJob} (next : s.status.workNext = some j)
    (block : (s.statusBlocks j)[s.status.written j]? = none) : s.grantTo .statusWriter = { s with lastServed := .controller } := by
  change s.statusGrant = _
  unfold State.statusGrant State.statusLeft
  rw [next]
  dsimp only
  rw [List.drop_eq_nil_of_le (List.getElem?_eq_none_iff.1 block)]
  rfl

theorem State.statusGrant_nothing (next : s.status.workNext = none) :
    s.grantTo .statusWriter = { s with lastServed := .controller } := by
  change s.statusGrant = _
  unfold State.statusGrant
  rw [next]
  rfl

/-! The order of the works (R93; log 44). -/

theorem StatusWriter.next_section {w : StatusWriter} {n : Nat} {l : List Nat} (h : w.toRewrite = n :: l) :
    w.next = some (.wholeSection n) := by
  unfold StatusWriter.next
  rw [h]

theorem StatusWriter.next_rest {w : StatusWriter} (h : w.toRewrite = []) : w.next =
    if w.windowsPending then some (.mirror .windowTable)
    else if w.plansPending then some (.mirror .tilePlans)
    else if w.filtersPending then some (.mirror .filterList)
    else if w.slotHeaderDirty = true ∨ w.slotDirty ≠ 0 then none else w.nextSource.map .source := by
  unfold StatusWriter.next
  rw [h]
  simp only [Bool.or_eq_true, bne_iff_ne]

theorem StatusWriter.nextSource_job {w : StatusWriter} {i n : Nat} (h : w.job = some (.source i, n)) : w.nextSource = some i := by
  unfold StatusWriter.nextSource
  rw [h]

theorem StatusWriter.nextSource_lowest {w : StatusWriter} (h : ∀ i n, w.job ≠ some (.source i, n)) (i : Nat) :
    w.nextSource = some i ↔ i < 44 ∧ w.sourceDirty.getLsbD i = true ∧ ∀ k, k < i → w.sourceDirty.getLsbD k = false := by
  have find : w.nextSource = (List.range Config.allSources).find? (fun i => w.sourceDirty.getLsbD i) := by
    unfold StatusWriter.nextSource
    split
    · next i n hj => exact absurd hj (h i n)
    · rfl
  rw [find, List.find?_range_eq_some]
  simp only [List.mem_range, Bool.not_eq_eq_eq_not, Bool.not_true]
  exact ⟨fun ⟨dirty, lt, lower⟩ => ⟨lt, dirty, lower⟩, fun ⟨lt, dirty, lower⟩ => ⟨dirty, lt, lower⟩⟩

/-- The source record next is that of the work, where none is in hand. -/
theorem StatusWriter.next_source {w : StatusWriter} {i : Nat} (h : w.next = some (.source i)) : w.nextSource = some i := by
  cases whole : w.toRewrite with
  | cons n l =>
    rw [StatusWriter.next_section whole] at h
    cases h
  | nil =>
    rw [StatusWriter.next_rest whole] at h
    split_ifs at h
    · cases h
    · cases h
    · cases h
    · obtain ⟨k, hk, e⟩ := Option.map_eq_some_iff.1 h
      rw [hk, ← StatusJob.source.inj e]

/-- Settles O49: the commands by the writes that end their works, the blocks, the grants and the order of the works. -/
theorem statusWriterWritesRecords : Obligations.StatusWriterWritesRecords := by
  unfold Obligations.StatusWriterWritesRecords
  refine ⟨fun s m n c head w map granted h which => ?_, fun s m k map granted h rewriting => ?_,
    fun s m i map granted h dirty next => ?_, fun s m map granted h => ⟨fun dirty => ?_, fun i dirty => ?_⟩,
    fun s m map => ⟨State.statusBlocks_mirror map, State.statusBlocks_source map, fun n bs which => ?_, fun j n job => ?_,
      fun j job => ?_⟩, fun s j n b which block => ?_, fun s which => ?_, ⟨rfl, rfl, rfl⟩,
    fun w => ⟨⟨rfl, rfl⟩, ⟨rfl, rfl⟩, ⟨rfl, rfl⟩, fun n l => StatusWriter.next_section, fun h => ?_⟩,
    fun w => ⟨fun i n => StatusWriter.nextSource_job, StatusWriter.nextSource_lowest, fun _ i => StatusWriter.next_source⟩,
    fun s => ⟨fun k => exec_mirrorRewriteDone_idle, fun i => exec_sourceRecordPublished_idle,
      exec_slotTableWritten_header_idle, fun i => exec_slotTableWritten_record_idle⟩⟩
  · rcases which with ⟨k, rfl, rfl, rfl, rfl⟩ | ⟨i, rfl, rfl, rfl, rfl⟩ | ⟨p, rfl, rfl, rfl, rfl⟩
    · rw [exec_mirrorRewriteDone_whole map granted h, State.writeSection_commitDone map, mirrorSection_header,
        StatusWriter.sectionDone_mirror]
      cases k <;> rfl
    · rw [exec_sourceRecordPublished_whole map granted i h, State.writeSection_commitDone map,
        StatusWriter.sectionDone_sources]
      rfl
    · rw [exec_slotTableWritten_whole map granted p h, State.writeSection_commitDone map, StatusWriter.sectionDone_slots]
      rfl
  · rw [exec_mirrorRewriteDone_mirror map granted h rewriting, State.completeMirror_commitDone map]
    cases k <;> rfl
  · rw [exec_sourceRecordPublished_record map granted h dirty next, State.publishSource_commitDone]
    rfl
  · rw [exec_slotTableWritten_part map granted h (p := .header) dirty, State.copySlotPart_header]
    rfl
  · rw [exec_slotTableWritten_part map granted h (p := .record i) dirty, State.copySlotPart_record]
    rfl
  · rw [State.statusBlocks_wholeSection map, State.sectionRecords_eq which]
  · rw [State.statusLeft, StatusWriter.written_job job]
  · rw [State.statusLeft, StatusWriter.written_other job, List.drop_zero]
  · obtain ⟨next, rfl⟩ := StatusWriter.written_next which
    exact State.statusGrant_writes next block
  · rcases which with ⟨job, next⟩ | ⟨j, n, which, block⟩
    · exact State.statusGrant_nothing (by rw [StatusWriter.workNext, job, next]; rfl)
    · obtain ⟨next, rfl⟩ := StatusWriter.written_next which
      exact State.statusGrant_ended next block
  · rw [StatusWriter.next_rest h]
    exact ⟨fun a => by rw [if_pos a], fun a b => by rw [a, b]; rfl, fun a b c => by rw [a, b, c]; rfl,
      fun a b c => by rw [a, b, c]; rfl⟩

end Sys2Proof.Machine
end

section
-- Many short proofs follow one another: taken one at a time they need one thread's memory, not one's for each.
set_option Elab.async false
/-! PROOF. The ring writer's changes of the rings, beside the writes of a controller master (R149, R184). -/

namespace Sys2Proof.Machine

variable {s t u : State} {m : SectionMap}

/-! Changes of the rings alone. -/

/-- A change of the reporting unit that reads and changes the rings, what waits for them and the work in hand alone. -/
structure RingEdit (f : Report → Report) : Prop where
  causes : ∀ r, (f r).causePart = r.causePart
  rings : ∀ r q : Report, r.ringPart = q.ringPart → (f r).ringPart = (f q).ringPart

theorem RingEdit.comp {f g : Report → Report} (hg : RingEdit g) (hf : RingEdit f) : RingEdit (fun r => g (f r)) where
  causes r := (hg.causes _).trans (hf.causes r)
  rings r q h := hg.rings _ _ (hf.rings r q h)

theorem RingEdit.setRing (k : RingId) (v : Ring) : RingEdit (fun r => r.setRing k v) where
  causes r := by simp
  rings r q h := by
    simp only [Report.ringPart, Prod.mk.injEq] at h ⊢
    obtain ⟨⟨journal, urgent, routine⟩, queues⟩ := h
    cases k <;> simp only [Report.setRing] <;> simp [*]

theorem RingEdit.setQueue (k : RingId) (q : List Event) : RingEdit (fun r => r.setQueue k q) where
  causes r := by simp
  rings r q h := by
    simp only [Report.ringPart, Prod.mk.injEq] at h ⊢
    obtain ⟨rings, journal, urgent, routine, job⟩ := h
    cases k <;> simp only [Report.setQueue] <;> simp [*]

theorem RingEdit.journalQueue (q : List JournalEntry) : RingEdit (fun r => { r with journalQueue := q }) where
  causes _ := rfl
  rings r q h := by
    simp only [Report.ringPart, Prod.mk.injEq] at h ⊢
    simp [h]

theorem RingEdit.job (p : RingJob × Nat → Bool) : RingEdit (fun r => { r with ringJob := r.ringJob.filter p }) where
  causes _ := rfl
  rings r q h := by
    simp only [Report.ringPart, Prod.mk.injEq] at h ⊢
    simp [h]

/-- A report from its rings and its flags. -/
theorem Report.ext_parts {r q : Report} (rings : r.ringPart = q.ringPart) (causes : r.causePart = q.causePart) : r = q := by
  obtain ⟨journal, urgent, routine, journalQueue, urgentQueue, routineQueue, job, c, e, i⟩ := r
  obtain ⟨journal', urgent', routine', journalQueue', urgentQueue', routineQueue', job', c', e', i'⟩ := q
  simp only [Report.ringPart, Report.causePart, Prod.mk.injEq] at rings causes
  obtain ⟨⟨rfl, rfl, rfl⟩, rfl, rfl, rfl, rfl⟩ := rings
  obtain ⟨rfl, rfl, rfl⟩ := causes
  rfl

/-- A report with the rings of another. -/
def Report.withRings (r q : Report) : Report :=
  { r with journal := q.journal, urgent := q.urgent, routine := q.routine, journalQueue := q.journalQueue
           urgentQueue := q.urgentQueue, routineQueue := q.routineQueue, ringJob := q.ringJob }

theorem State.withWork_rings (s : State) (q : Report) :
    s.withWork s.status q.work = { s with report := s.report.withRings q } := rfl

/-- A change of the rings alone is as if the rings of the result were put in. -/
theorem RingEdit.withRings {f : Report → Report} (hf : RingEdit f) {r q : Report} (h : r.ringPart = q.ringPart) :
    q.withRings (f r) = f q :=
  Report.ext_parts (hf.rings r q h) (hf.causes q).symm

section edit

variable {f : Report → Report} (hf : RingEdit f)

include hf

theorem State.modReport_eq (s : State) : s.modReport f = s.withWork s.status (f s.report).work := by
  rw [State.withWork_rings, hf.withRings rfl]
  rfl

theorem State.ctlWrites_modReport (s : State) (l : Blocks) : (s.modReport f).ctlWrites l = (s.ctlWrites l).modReport f := by
  have only := s.ctlWrites_only l
  rw [s.modReport_eq hf, State.ctlWrites_withWork, ← only.status_eq, State.withWork_rings,
    hf.withRings (OnlyChanges.rings_eq only).symm]
  rfl

theorem State.portTurn_modReport (s : State) : (s.modReport f).portTurn = s.portTurn.modReport f := by
  have only := s.portTurn_only
  rw [s.modReport_eq hf, State.portTurn_withWork, ← only.status_eq, State.withWork_rings,
    hf.withRings (OnlyChanges.rings_eq only).symm]
  rfl

end edit

/-! The blocks of a work, and how far it stands. -/

theorem Report.written_job {r : Report} {j : RingJob} {n : Nat} (h : r.ringJob = some (j, n)) : r.written j = n := by
  unfold Report.written
  rw [h]
  exact if_pos rfl

theorem Report.written_other {r : Report} {j : RingJob} (h : ∀ n, r.ringJob ≠ some (j, n)) : r.written j = 0 := by
  unfold Report.written
  cases hj : r.ringJob with
  | none => rfl
  | some p =>
    refine if_neg (fun e => h p.2 ?_)
    rw [hj, ← e]

theorem Report.written_congr {r q : Report} (h : r.ringPart = q.ringPart) (j : RingJob) : r.written j = q.written j := by
  unfold Report.written
  rw [(Report.ringPart_parts h .journal).2.2.2.2]

theorem State.ringArea_of_map (map : s.map = some m) (k : RingId) : s.ringArea k = sectionOf m (ringSection k) := by
  unfold State.ringArea
  rw [map]

theorem State.ringArea_congr (captured : t.modes.captured = s.modes.captured) (k : RingId) : t.ringArea k = s.ringArea k := by
  unfold State.ringArea
  rw [State.map_congr captured]

theorem State.ringBlocks_clear (map : s.map = some m) (k : RingId) : s.ringBlocks (.clear k) =
    blocksOf ((sectionOf m (ringSection k)).start + 64) (List.replicate ((sectionOf m (ringSection k)).size - 64) 0) := by
  unfold State.ringBlocks
  dsimp only
  rw [State.ringArea_of_map map]

/-- A work done, with the header write that follows (R149, R184). -/
theorem State.doRingJob_eq (s : State) (j : RingJob) : s.doRingJob j =
    (s.portTurn.ctlWrites (s.portTurn.ringLeft j)).modReport
      (fun r => { r with ringJob := r.ringJob.filter (fun k => decide (k.1 ≠ j)) }) := by
  have rings := OnlyChanges.rings_eq (s.portTurn.ctlWrites_only (s.portTurn.ringLeft j))
  unfold State.doRingJob State.andThen State.setRingJob State.modReport
  dsimp only
  rw [(Report.ringPart_parts rings .journal).2.2.2.2]

theorem State.portTurn_ctlWrites_append (s : State) (l : Blocks) (b : Nat × List Byte) :
    s.portTurn.ctlWrites (l ++ [b]) = s.ctlWrites (l ++ [b]) := by
  cases l with
  | nil => exact s.portTurn_ctlWrites b []
  | cons a l => exact s.portTurn_ctlWrites a (l ++ [b])

/-- A work, a change of the rings, and a header write: the writes, then the changes. -/
theorem State.doRingJob_ends {f : Report → Report} (hf : RingEdit f) (s : State) (j : RingJob) (a : Nat) (bs : List Byte) :
    ((s.doRingJob j).modReport f).ctlWrite a bs = (s.ctlWrites (s.portTurn.ringLeft j ++ [(a, bs)])).modReport
      (fun r => f { r with ringJob := r.ringJob.filter (fun k => decide (k.1 ≠ j)) }) := by
  rw [s.doRingJob_eq j, ← s.portTurn_ctlWrites_append, State.ctlWrites_append]
  change ((State.ctlWrites _ _).modReport (fun r => f { r with ringJob := r.ringJob.filter (fun k => decide (k.1 ≠ j)) })).ctlWrites
    [(a, bs)] = _
  exact State.ctlWrites_modReport (hf.comp (RingEdit.job _)) _ _

end Sys2Proof.Machine
end

section
-- Many short proofs follow one another: taken one at a time they need one thread's memory, not one's for each.
set_option Elab.async false
/-! PROOF. O51: the ring writer's header work, its blocks and its grants (R148, R149, R151, R163, R164, R184). -/

namespace Sys2Proof.Machine

variable {s t u : State} {m : SectionMap} {k : RingId}

/-! Header work. -/

theorem State.writeRingHeader_of_map (map : s.map = some m) (k : RingId) : s.writeRingHeader k =
    s.ctlWrite (sectionOf m (ringSection k)).start (ringHeaderBytes (s.report.ring k)) := by
  unfold State.writeRingHeader
  rw [if_pos (by rw [map]; rfl), State.ringArea_of_map map]

theorem State.writeRingHeader_unmapped (map : s.map = none) (k : RingId) : s.writeRingHeader k = s := by
  unfold State.writeRingHeader
  rw [map]
  rfl

theorem Report.setRing_withJob (r : Report) (k : RingId) (v : Ring) (j : Option (RingJob × Nat)) :
    { r with ringJob := j }.setRing k v = { r.setRing k v with ringJob := j } := by
  cases k <;> rfl

/-- The turn of an access that waits leaves the blocks of a clearing as they are. -/
theorem State.portTurn_ringLeft_clear (s : State) (k : RingId) : s.portTurn.ringLeft (.clear k) = s.ringLeft (.clear k) := by
  have only := s.portTurn_only
  have area : s.portTurn.ringArea k = s.ringArea k := State.ringArea_congr (by rw [only.modes_eq]) k
  unfold State.ringLeft State.ringBlocks
  rw [Report.written_congr (OnlyChanges.rings_eq only)]
  dsimp only
  rw [area]

theorem State.map_of_only {l : List Part} (h : OnlyChanges l s t) (hm : Part.modes ∉ l := by decide) : t.map = s.map :=
  State.map_congr (by rw [h.modes_eq hm])

section work

variable (map : s.map = some m)

include map

theorem State.flushRing_clears (init : (s.report.ring k).initPending = true) :
    let c := sectionOf m (ringSection k)
    let r1 := { s.report.ring k with initPending := false, headerPending := false }
    s.flushRing k = (s.ctlWrites (s.ringLeft (.clear k) ++ [(c.start, ringHeaderBytes r1)])).modReport
      (fun r => { r with ringJob := r.ringJob.filter (fun j => decide (j.1 ≠ RingJob.clear k)) }.setRing k r1) := by
  dsimp only
  unfold State.flushRing State.andThen
  dsimp only
  rw [init, if_pos rfl, Bool.true_or, if_pos rfl, ← s.portTurn_ringLeft_clear k,
    ← State.doRingJob_ends (RingEdit.setRing k _)]
  have mapped : (s.doRingJob (.clear k)).map = some m := (State.map_of_only (s.doRingJob_only (.clear k))).trans map
  generalize s.doRingJob (.clear k) = w at mapped
  have header := State.writeRingHeader_of_map (s := w.modReport (fun r => r.setRing k
    { s.report.ring k with initPending := false, headerPending := false })) mapped k
  rw [modReport_report, Report.ring_setRing, if_pos rfl] at header
  exact header

theorem State.flushRing_rewrites (init : (s.report.ring k).initPending = false)
    (header : (s.report.ring k).headerPending = true) :
    let c := sectionOf m (ringSection k)
    let r1 := { s.report.ring k with initPending := false, headerPending := false }
    s.flushRing k = (s.ctlWrites [(c.start, ringHeaderBytes r1)]).modReport (fun r => r.setRing k r1) := by
  dsimp only
  unfold State.flushRing State.andThen
  dsimp only
  rw [init, header, if_neg Bool.false_ne_true, Bool.or_true, if_pos rfl, ← State.ctlWrites_modReport (RingEdit.setRing k _)]
  have written := State.writeRingHeader_of_map (s := s.modReport (fun r => r.setRing k
    { s.report.ring k with initPending := false, headerPending := false })) map k
  rw [modReport_report, Report.ring_setRing, if_pos rfl] at written
  exact written

theorem State.flushRing_mapped (h : (s.report.ring k).initPending = true ∨ (s.report.ring k).headerPending = true) :
    let r := s.report.ring k
    let c := sectionOf m (ringSection k)
    let r1 := { r with initPending := false, headerPending := false }
    let left := if r.initPending then s.ringLeft (.clear k) else []
    let v := s.ctlWrites (left ++ [(c.start, ringHeaderBytes r1)])
    s.flushRing k = { v with report := { v.report.setRing k r1 with
      ringJob := s.report.ringJob.filter (fun j => !r.initPending || decide (j.1 ≠ .clear k)) } } := by
  have job (l : Blocks) : (s.ctlWrites l).report.ringJob = s.report.ringJob :=
    (Report.ringPart_parts (OnlyChanges.rings_eq (s.ctlWrites_only l)) k).2.2.2.2
  dsimp only
  cases init : (s.report.ring k).initPending with
  | true =>
    rw [State.flushRing_clears map init, if_pos rfl]
    unfold State.modReport State.setReport
    dsimp only
    rw [job, Report.setRing_withJob]
    simp only [Bool.not_true, Bool.false_or]
  | false =>
    rw [State.flushRing_rewrites map init (h.resolve_left (by rw [init]; nofun)), if_neg Bool.false_ne_true]
    unfold State.modReport State.setReport
    simp only [Bool.not_false, Bool.true_or, Option.filter_always, List.nil_append]
    rw [← Report.setRing_withJob, ← job]

end work

theorem State.flushRing_unmapped (map : s.map = none) (init : (s.report.ring k).initPending = false)
    (header : (s.report.ring k).headerPending = true) : s.flushRing k =
      { s with report := s.report.setRing k { s.report.ring k with headerPending := false } } := by
  unfold State.flushRing State.andThen
  dsimp only
  rw [init, header, if_neg Bool.false_ne_true, Bool.or_true, if_pos rfl, State.writeRingHeader_unmapped, ← init]
  · rfl
  · exact map

theorem exec_ringHeaderRewrite (h : (s.report.ring k).initPending = true ∨ (s.report.ring k).headerPending = true) :
    exec (.ringHeaderRewrite k) s = .next (s.flushRing k).resume := if_pos (Bool.or_eq_true _ _ ▸ h)

theorem exec_ringHeaderRewrite_idle (init : (s.report.ring k).initPending = false)
    (header : (s.report.ring k).headerPending = false) : exec (.ringHeaderRewrite k) s = .next s :=
  if_neg (by rw [init, header]; nofun)

/-! Work done to its end (R149). -/

/-- Writing the first entry that waits for a ring leaves one less, or none (R149, R155). -/
theorem State.writeEntry_waiting (s : State) (k : RingId) :
    (s.writeEntry k).report.waitingFor k ≤ s.report.waitingFor k - 1 := by
  cases k with
  | journal =>
    change (s.writeJournalEntry).report.journalQueue.length ≤ s.report.journalQueue.length - 1
    rw [s.writeJournalEntry_queue, List.length_tail]
  | urgent => exact (s.writeEvent_work .urgent .urgent).2 (by decide)
  | routine => exact (s.writeEvent_work .routine .routine).2 (by decide)

theorem State.writeEntry_nothing (h : s.report.waitingFor k = 0) : s.writeEntry k = s := by
  cases k with
  | journal => exact State.writeJournalEntry_nil (List.length_eq_zero_iff.1 h)
  | urgent =>
    change s.writeEvent .urgent = s
    have queue : s.report.queue .urgent = [] := List.length_eq_zero_iff.1 h
    unfold State.writeEvent
    rw [queue]
  | routine =>
    change s.writeEvent .routine = s
    have queue : s.report.queue .routine = [] := List.length_eq_zero_iff.1 h
    unfold State.writeEvent
    rw [queue]

theorem State.writeEntries_nothing (n : Nat) (h : s.report.waitingFor k = 0) : s.writeEntries k n = s := by
  induction n with
  | zero => rfl
  | succ n ih => exact (congrArg (fun u => State.writeEntries u k n) (State.writeEntry_nothing h)).trans ih

/-- Once nothing waits, to go on writing changes nothing. -/
theorem State.writeEntries_enough {n w : Nat} (hn : s.report.waitingFor k ≤ n) (hw : s.report.waitingFor k ≤ w) :
    s.writeEntries k n = s.writeEntries k w := by
  induction n generalizing s w with
  | zero => rw [State.writeEntries_nothing _ (Nat.le_zero.1 hn), State.writeEntries_nothing _ (Nat.le_zero.1 hn)]
  | succ n ih =>
    cases w with
    | zero => rw [State.writeEntries_nothing _ (Nat.le_zero.1 hw), State.writeEntries_nothing _ (Nat.le_zero.1 hw)]
    | succ w =>
      have less := s.writeEntry_waiting k
      exact ih (s := s.writeEntry k) (by omega) (by omega)

theorem State.writeEntries_first (h : s.report.waitingFor k ≠ 0) : s.writeEntries k (s.report.waitingFor k) =
    (s.writeEntry k).writeEntries k ((s.writeEntry k).report.waitingFor k) := by
  have less := s.writeEntry_waiting k
  obtain ⟨n, hn⟩ := Nat.exists_eq_succ_of_ne_zero h
  rw [hn]
  exact State.writeEntries_enough (s := s.writeEntry k) (by omega) le_rfl

theorem State.ringDone_nothing (h : s.report.waitingFor k = 0) : s.ringDone k = s.flushRing k := by
  unfold State.ringDone
  rw [State.writeEntries_nothing _ h]

theorem State.ringDone_next (h : s.report.waitingFor k ≠ 0) : s.ringDone k = (s.writeEntry k).ringDone k := by
  unfold State.ringDone
  rw [State.writeEntries_first h]

/-! Blocks (R184). -/

theorem splitBlocks_fit (fuel a : Nat) (bs : List Byte) : ∀ b ∈ splitBlocks fuel a bs, b.2 ≠ [] ∧ b.1 % 64 + b.2.length ≤ 64 := by
  induction fuel generalizing a bs with
  | zero => nofun
  | succ fuel ih =>
    intro b hb
    unfold splitBlocks at hb
    split at hb
    · cases hb
    · next some =>
      rcases List.mem_cons.1 hb with rfl | hb
      · have ne : bs ≠ [] := fun h => some (by rw [h]; rfl)
        have lt : a % 64 < 64 := Nat.mod_lt _ (by decide)
        refine ⟨fun h => ?_, ?_⟩
        · rcases List.take_eq_nil_iff.1 h with h | h
          · omega
          · exact ne h
        · rw [List.length_take]
          omega
      · exact ih _ _ b hb

/-! Grants without a command (R184). -/

theorem Report.written_next {r : Report} {j : RingJob} {n : Nat}
    (h : r.ringJob = some (j, n) ∨ (r.ringJob = none ∧ r.nextRingJob = some j ∧ n = 0)) :
    r.ringWorkNext = some j ∧ r.written j = n := by
  rcases h with h | ⟨h, next, rfl⟩
  · exact ⟨by rw [Report.ringWorkNext, h]; rfl, Report.written_job h⟩
  · exact ⟨by rw [Report.ringWorkNext, h, next]; rfl, Report.written_other (by rw [h]; nofun)⟩

theorem State.ringGrant_writes {j : RingJob} {b : Nat × List Byte} (next : s.report.ringWorkNext = some j)
    (block : (s.ringBlocks j)[s.report.written j]? = some b) : s.grantTo .ringWriter = { s with
      ram := Memory.write s.ram b.1 b.2, lastServed := .controller
      report := { s.report with ringJob := some (j, s.report.written j + 1) } } := by
  change s.ringGrant = _
  unfold State.ringGrant State.ringLeft
  rw [next]
  dsimp only
  obtain ⟨h, rfl⟩ := List.getElem?_eq_some_iff.1 block
  rw [List.drop_eq_getElem_cons h]
  rfl

theorem State.ringGrant_ended {j : RingJob} (next : s.report.ringWorkNext = some j)
    (block : (s.ringBlocks j)[s.report.written j]? = none) : s.grantTo .ringWriter = { s with lastServed := .controller } := by
  change s.ringGrant = _
  unfold State.ringGrant State.ringLeft
  rw [next]
  dsimp only
  rw [List.drop_eq_nil_of_le (List.getElem?_eq_none_iff.1 block)]
  rfl

theorem State.ringGrant_nothing (next : s.report.ringWorkNext = none) :
    s.grantTo .ringWriter = { s with lastServed := .controller } := by
  change s.ringGrant = _
  unfold State.ringGrant
  rw [next]
  rfl

/-! The order of the rings (R149). -/

theorem RingId.forall_iff (p : RingId → Prop) : (∀ o, p o) ↔ p .journal ∧ p .urgent ∧ p .routine :=
  ⟨fun h => ⟨h _, h _, h _⟩, fun ⟨journal, urgent, routine⟩ o => by cases o <;> assumption⟩

/-- The ring the writer serves first: the first in order that has work. -/
theorem Report.firstRing_iff (r : Report) (k : RingId) :
    [RingId.journal, .urgent, .routine].find? (fun i => r.ringWork i) = some k ↔
      r.ringWork k = true ∧ ∀ o, ringSection o < ringSection k → r.ringWork o = false := by
  rw [RingId.forall_iff]
  simp only [List.find?]
  cases k <;>
  · generalize r.ringWork .journal = a
    generalize r.ringWork .urgent = b
    generalize r.ringWork .routine = c
    clear r
    decide +revert

theorem Report.nextRingJob_iff (r : Report) (j : RingJob) : r.nextRingJob = some j ↔ ∃ k, r.ringWork k = true ∧
    (∀ o, ringSection o < ringSection k → r.ringWork o = false) ∧
    if (r.ring k).initPending then j = .clear k else (r.ring k).headerPending = false ∧ j = .entry k := by
  unfold Report.nextRingJob
  rw [Option.bind_eq_some_iff]
  refine exists_congr (fun k => ?_)
  rw [Report.firstRing_iff, and_assoc]
  refine and_congr_right (fun _ => and_congr_right (fun _ => ?_))
  cases (r.ring k).initPending <;> cases (r.ring k).headerPending <;> simp [eq_comm]

/-- Settles O51: the header work, the blocks, the grants and the order of the rings. -/
theorem ringHeaderRewriteWritesHeader : Obligations.RingHeaderRewriteWritesHeader := by
  unfold Obligations.RingHeaderRewriteWritesHeader
  refine ⟨fun s m k map h => ⟨exec_ringHeaderRewrite h, State.flushRing_mapped map h⟩, fun s k map init header => ?_,
    fun s k init header => ⟨exec_ringHeaderRewrite_idle init header, State.flushRing_idle init header⟩,
    fun s m k map => ⟨State.ringBlocks_clear map k, rfl⟩,
    fun s j => ⟨rfl, fun n => Report.written_job, Report.written_other⟩,
    fun s k => ⟨State.ringDone_nothing, State.ringDone_next, rfl⟩,
    fun ram a x bs => ⟨Memory.read_blocksOf ram a bs x, splitBlocks_fit _ a bs⟩, fun s j n b which block => ?_,
    fun s which => ?_, ⟨rfl, rfl, rfl⟩, fun r v q => ⟨⟨rfl, rfl, rfl⟩, ⟨rfl, rfl, rfl⟩, ⟨rfl, rfl, rfl⟩, ⟨rfl, rfl, rfl⟩,
      r.ringWork_iff⟩, fun s j => s.report.nextRingJob_iff j⟩
  · rw [exec_ringHeaderRewrite (.inr header), State.flushRing_unmapped map init header]
  · obtain ⟨next, rfl⟩ := Report.written_next which
    exact State.ringGrant_writes next block
  · rcases which with ⟨job, next⟩ | ⟨j, n, which, block⟩
    · exact State.ringGrant_nothing (by rw [Report.ringWorkNext, job, next]; rfl)
    · obtain ⟨next, rfl⟩ := Report.written_next which
      exact State.ringGrant_ended next block

end Sys2Proof.Machine
end

section
-- Many short proofs follow one another: taken one at a time they need one thread's memory, not one's for each.
set_option Elab.async false
/-! PROOF. What counting one entry does (R149, R150, R152 to R156). -/

namespace Sys2Proof.Machine

variable {s t u : State} {m : SectionMap} {k : RingId}

/-! Flags beside changes of the rings. -/

theorem State.raiseIf_modReport {f : Report → Report} (hf : RingEdit f) (s : State) (b : Bool) (c : Cause) :
    (s.modReport f).raiseIf b c = (s.raiseIf b c).modReport f := by
  have status : (s.raiseIf b c).status = s.status := (s.raiseIf_only b c).status_eq
  rw [s.modReport_eq hf, State.raiseIf_withWork, ← status, State.withWork_rings,
    hf.withRings (OnlyChanges.rings_eq (s.raiseIf_only b c)).symm]
  rfl

theorem fill_reaches (r : Ring) (n : Nat) : (n == r.watermark) = decide (n = r.watermark) := by
  by_cases h : n = r.watermark <;> simp [h]

/-! The entry written and counted. -/

/-- The first entry for a ring without header work is written, and a change of the rings follows: the blocks, the changes and the
header write that counts it, with the watermark cause (R149, R150). -/
theorem State.entry_counts {f : Report → Report} (hf : RingEdit f) (map : s.map = some m)
    (ring : ∀ r : Report, (f r).ring k = r.ring k) : ((s.doRingJob (.entry k)).modReport f).countEntry k =
    ((s.ctlWrites (s.portTurn.ringLeft (.entry k) ++
      [((sectionOf m (ringSection k)).start, ringHeaderBytes ((s.report.ring k).counted k))])).modReport
        (fun r => (f { r with ringJob := r.ringJob.filter (fun j => decide (j.1 ≠ RingJob.entry k)) }).setRing k
          ((s.report.ring k).counted k))).raiseIf
      (decide (((s.report.ring k).counted k).fill = ((s.report.ring k).counted k).watermark)) (ringWatermarkCause k) := by
  have job := (s.doRingJob_rings (.entry k) k).2.1
  have mapped : (s.doRingJob (.entry k)).map = some m := (State.map_of_only (s.doRingJob_only (.entry k))).trans map
  have ends := State.doRingJob_ends ((RingEdit.setRing k ((s.report.ring k).counted k)).comp hf) s (.entry k)
    (sectionOf m (ringSection k)).start (ringHeaderBytes ((s.report.ring k).counted k))
  rw [← ends]
  generalize s.doRingJob (.entry k) = w at job mapped
  have header := State.writeRingHeader_of_map (s := w.modReport (fun r => (f r).setRing k ((s.report.ring k).counted k))) mapped k
  rw [modReport_report, Report.ring_setRing, if_pos rfl] at header
  rw [← header, ← fill_reaches]
  unfold State.countEntry
  rw [modReport_report, ring, job]
  rfl

theorem State.portTurn_ringLeft_entry (s : State) (k : RingId) : s.portTurn.ringLeft (.entry k) =
    [(s.ringPlace k, s.portTurn.entryBytes k)].drop (s.report.written (.entry k)) := by
  have only := s.portTurn_only
  have place : s.portTurn.ringPlace k = s.ringPlace k := by
    unfold State.ringPlace
    rw [State.ringArea_congr (s := s) (by rw [only.modes_eq]), (Report.ringPart_parts (OnlyChanges.rings_eq only) k).1]
  unfold State.ringLeft State.ringBlocks
  rw [Report.written_congr (OnlyChanges.rings_eq only)]
  dsimp only
  rw [place]

theorem State.ringPlace_of_map (map : s.map = some m) (k : RingId) : s.ringPlace k =
    (sectionOf m (ringSection k)).start + 64 + (s.report.ring k).writeIndex * ringEntrySize k := by
  unfold State.ringPlace
  rw [State.ringArea_of_map map]

theorem State.entryBytes_journal {e : JournalEntry} {q : List JournalEntry} (h : s.report.journalQueue = e :: q) :
    s.entryBytes .journal = journalEntryBytes e (e.frame.getD s.timing.frame) (s.summaryCopy e.slot) := by
  unfold State.entryBytes
  rw [h]
  rfl

theorem State.entryBytes_event {e : Event} {q : List Event} (hk : k ≠ .journal) (h : s.report.queue k = e :: q) :
    s.entryBytes k = eventBytes e (s.report.ring k).gap (e.frame.getD s.timing.frame) := by
  unfold State.entryBytes
  cases k with
  | journal => exact absurd rfl hk
  | urgent => dsimp only; rw [h]; rfl
  | routine => dsimp only; rw [h]; rfl

/-! The journal. -/

/-- The first journal entry counted, its header work done before (R149, R152). -/
theorem State.entryCounted_mapped {e : JournalEntry} {q : List JournalEntry} (map : s.map = some m)
    (queue : s.report.journalQueue = e :: q) (init : s.report.journal.initPending = false)
    (header : s.report.journal.headerPending = false) :
    let r := s.report.journal
    let a := (sectionOf m 8).start
    let entry := fun u : State =>
      (a + 64 + r.writeIndex * 32, journalEntryBytes e (e.frame.getD s.timing.frame) (u.summaryCopy e.slot))
    let r1 := { r with writeIndex := (r.writeIndex + 1) % r.capacity, fill := r.fill + 1, reserved := r.reserved - 1 }
    let v := s.ctlWrites ([entry s.portTurn].drop (s.report.written (.entry .journal)) ++ [(a, ringHeaderBytes r1)])
    s.ringBlocks (.entry .journal) = [entry s] ∧ s.entryCounted q = ({ v with report := { v.report with
      journal := r1, journalQueue := q
      ringJob := s.report.ringJob.filter (fun j => decide (j.1 ≠ .entry .journal)) } } : State).raiseIf
        (decide (r.fill + 1 = r.watermark)) .journalWatermark := by
  have only := s.portTurn_only
  have turned : s.portTurn.report.journalQueue = e :: q :=
    ((Report.ringPart_parts (OnlyChanges.rings_eq only) .journal).2.2.2.1).trans queue
  have place := State.ringPlace_of_map map .journal
  have left := s.portTurn_ringLeft_entry .journal
  rw [State.entryBytes_journal turned, place, only.timing_eq] at left
  have flushed : s.flushRing .journal = s := State.flushRing_idle (i := .journal) init header
  have counts := State.entry_counts (k := .journal) (RingEdit.journalQueue q) map (fun _ => rfl)
  have job (l : Blocks) : (s.ctlWrites l).report.ringJob = s.report.ringJob :=
    (Report.ringPart_parts (OnlyChanges.rings_eq (s.ctlWrites_only l)) .journal).2.2.2.2
  refine ⟨?_, ?_⟩
  · change [(s.ringPlace .journal, s.entryBytes .journal)] = _
    rw [place, State.entryBytes_journal queue]
    rfl
  · unfold State.entryCounted
    rw [flushed, counts, left, ← job]
    rfl

end Sys2Proof.Machine
end

section
-- Many short proofs follow one another: taken one at a time they need one thread's memory, not one's for each.
set_option Elab.async false
/-! PROOF. O50: one entry written and counted, the events lost with a full ring, and the takes that end (R149 to R156). -/

namespace Sys2Proof.Machine

variable {s t u : State} {m : SectionMap} {k : RingId}

/-! The takes that end with their entries (R37, R43, R154). -/

section ends

variable {i : Nat} (slots : s.takes.slots.length = Config.slotCount)

include slots

/-- The post in hand is handled, and the take engine goes on (R37). -/
theorem State.endTake_handles (checking : s.takes.checking = some i) (named : ∀ j ∈ s.takes.toHandle, j < Config.slotCount) :
    HandlesPosts s.takes.toHandle s (s.endTake i) ∧ OnlyChanges [.takes, .rings, .interrupt, .causes, .status] s (s.endTake i) := by
  rw [State.endTake_of_checking checking]
  have first := s.modTakes_only (fun te => { te with checking := none })
  have handles := State.handlePosts_handles (s := s.modTakes (fun te => { te with checking := none }))
    (l := s.takes.toHandle) slots named rfl
  have sets := State.handlePosts_sets (s.modTakes (fun te => { te with checking := none })) s.takes.toHandle
  exact ⟨handles.before rfl rfl (fun _ => rfl) rfl rfl rfl rfl rfl ((SetsFlags.of_frame first).next sets).delivery,
    (first.mono (by decide)).next (State.handlePosts_only _ _) (by decide)⟩

/-- Any other take's slot becomes IDLE (R43). -/
theorem State.endTake_idles (checking : s.takes.checking ≠ some i) (below : i < Config.slotCount) :
    (∀ j, (s.endTake i).slot j = if j = i then (s.slot i).ended else s.slot j) ∧
    (s.endTake i).takes = { s.takes with slots := (s.endTake i).takes.slots } ∧ AsksCopies s.status s (s.endTake i) ∧
    OnlyChanges [.takes, .status] s (s.endTake i) := by
  rw [State.endTake_of_ne checking]
  exact ⟨State.setSlot_slot _ (by rw [slots]; exact below), by rw [State.setSlot_takes],
    State.setSlot_asks _ slots below, s.setSlot_only i _⟩

end ends

/-! Events (R155, R156). -/

theorem State.loseEvents_some (s : State) (k : RingId) {n : Nat} (h : n ≠ 0) : s.loseEvents k n =
    (s.modReport (fun r => r.setRing k ((r.ring k).gapRise n))).raiseIf true .eventsLost := if_neg h

theorem Report.queue_setQueue (r : Report) (hk : k ≠ .journal) (q : List Event) : (r.setQueue k q).queue k = q := by
  cases k with
  | journal => exact absurd rfl hk
  | urgent | routine => rfl

theorem Report.queue_setRing (r : Report) (v : Ring) : (r.setRing k v).queue k = r.queue k := by
  cases k <;> rfl

theorem Report.setQueue_self (r : Report) : r.setQueue k (r.queue k) = r := by cases k <;> rfl

theorem Report.setRing_setRing (r : Report) (v w : Ring) : (r.setRing k v).setRing k w = r.setRing k w := by cases k <;> rfl

theorem Report.setQueue_setRing (r : Report) (v : Ring) (q : List Event) :
    (r.setRing k v).setQueue k q = (r.setQueue k q).setRing k v := by cases k <;> rfl

theorem Report.setQueue_setQueue (r : Report) (p q : List Event) : (r.setQueue k p).setQueue k q = r.setQueue k q := by
  cases k <;> rfl

/-- Events that wait for a full ring are lost (R155). -/
theorem State.loseWaiting_eq (s : State) (k : RingId) :
    let r := s.report.ring k
    let q := s.report.queue k
    let full := q ≠ [] ∧ r.capacity ≤ r.fill
    s.loseWaiting k = (s.modReport (fun re => (re.setRing k (if full then r.gapRise q.length else r)).setQueue k
      (if full then [] else q))).raiseIf (decide full) .eventsLost := by
  have same : s.modReport (fun re => (re.setRing k (s.report.ring k)).setQueue k (s.report.queue k)) = s := by
    change { s with report := (s.report.setRing k (s.report.ring k)).setQueue k (s.report.queue k) } = s
    rw [Report.setQueue_setRing, Report.setQueue_self]
    cases k <;> rfl
  dsimp only
  unfold State.loseWaiting
  by_cases room : (s.report.ring k).capacity ≤ (s.report.ring k).fill
  · rw [if_pos room]
    by_cases none : s.report.queue k = []
    · have notFull : ¬ (s.report.queue k ≠ [] ∧ (s.report.ring k).capacity ≤ (s.report.ring k).fill) := fun h => h.1 none
      rw [if_neg notFull, if_neg notFull, decide_eq_false notFull, same, none]
      change s.setReport (s.report.setQueue k []) = s
      rw [← none, Report.setQueue_self]
      rfl
    · have full : s.report.queue k ≠ [] ∧ (s.report.ring k).capacity ≤ (s.report.ring k).fill := ⟨none, room⟩
      rw [if_pos full, if_pos full, decide_eq_true full, State.loseEvents_some _ k (mt List.length_eq_zero_iff.1 none)]
      refine congrArg (fun u => State.raiseIf u true .eventsLost) ?_
      change { s with report := (s.report.setQueue k []).setRing k (((s.report.setQueue k []).ring k).gapRise _) } =
        { s with report := (s.report.setRing k _).setQueue k [] }
      rw [Report.setQueue_setRing, Report.ring_setQueue]
  · have notFull : ¬ (s.report.queue k ≠ [] ∧ (s.report.ring k).capacity ≤ (s.report.ring k).fill) := fun h => room h.2
    rw [if_neg room, if_neg notFull, if_neg notFull, decide_eq_false notFull, same]
    rfl

/-- An event counted, and the events lost with a ring it has filled (R150, R155). -/
theorem State.countedEvent_loses (v : State) (hk : k ≠ .journal) (p : RingJob × Nat → Bool) (r1 : Ring) (gap : r1.gap = 0)
    (q : List Event) (wm : Bool) :
    let full := q ≠ [] ∧ r1.capacity ≤ r1.fill
    let rest := ({ v.report with ringJob := v.report.ringJob.filter p } : Report)
    let rings := (rest.setRing k (if full then { r1 with gap := min 255 q.length, headerPending := true }
      else r1)).setQueue k (if full then [] else q)
    ((v.modReport (fun r => ({ r with ringJob := r.ringJob.filter p }.setQueue k q).setRing k r1)).raiseIf wm
      (ringWatermarkCause k)).loseWaiting k =
    (({ v with report := rings } : State).raiseIf wm (ringWatermarkCause k)).raiseIf (decide full) .eventsLost := by
  have ring (w : State) : (w.raiseIf wm (ringWatermarkCause k)).report.ring k = w.report.ring k :=
    (w.raiseIf_ring wm _ k).1
  have queue (w : State) : (w.raiseIf wm (ringWatermarkCause k)).report.queue k = w.report.queue k :=
    (Report.ringPart_parts (OnlyChanges.rings_eq (w.raiseIf_only wm (ringWatermarkCause k))) k).2.1
  dsimp only
  rw [State.loseWaiting_eq, ring, queue, modReport_report, Report.ring_setRing, if_pos rfl, Report.queue_setRing,
    Report.queue_setQueue _ hk, ← State.raiseIf_modReport ((RingEdit.setQueue k _).comp (RingEdit.setRing k _))]
  refine congrArg (fun u => State.raiseIf (State.raiseIf u _ _) _ _) ?_
  refine congrArg (fun r => ({ v with report := r } : State)) ?_
  rw [modReport_report]
  dsimp only
  have rise : r1.gapRise q.length = { r1 with gap := min 255 q.length, headerPending := true } := by
    unfold Ring.gapRise
    rw [gap, Nat.zero_add]
  rw [rise, Report.setRing_setRing, Report.setQueue_setRing, Report.setQueue_setQueue, ← Report.setQueue_setRing]

theorem State.writeEvent_mapped (map : s.map = some m) (hk : k ≠ .journal) {e : Event} {q : List Event}
    (queue : s.report.queue k = e :: q) (init : (s.report.ring k).initPending = false)
    (header : (s.report.ring k).headerPending = false) :
    let r := s.report.ring k
    let a := (sectionOf m (ringSection k)).start
    let bytes := (a + 64 + r.writeIndex * 16, eventBytes e r.gap (e.frame.getD s.timing.frame))
    let r1 := { r with writeIndex := (r.writeIndex + 1) % r.capacity, fill := r.fill + 1, gap := 0 }
    let v := s.ctlWrites ([bytes].drop (s.report.written (.entry k)) ++ [(a, ringHeaderBytes r1)])
    let full := q ≠ [] ∧ r.capacity ≤ r.fill + 1
    let rest := ({ v.report with ringJob := s.report.ringJob.filter (fun j => decide (j.1 ≠ .entry k)) } : Report)
    let rings := (rest.setRing k (if full then { r1 with gap := min 255 q.length, headerPending := true } else r1)).setQueue k
      (if full then [] else q)
    s.ringBlocks (.entry k) = [bytes] ∧
    s.writeEvent k = (({ v with report := rings } : State).raiseIf (decide (r.fill + 1 = r.watermark))
      (ringWatermarkCause k)).raiseIf (decide full) .eventsLost := by
  have size : ringEntrySize k = 16 := by
    cases k with
    | journal => exact absurd rfl hk
    | urgent | routine => rfl
  have counted : (s.report.ring k).counted k = { s.report.ring k with
      writeIndex := ((s.report.ring k).writeIndex + 1) % (s.report.ring k).capacity, fill := (s.report.ring k).fill + 1
      gap := 0 } := by
    cases k with
    | journal => exact absurd rfl hk
    | urgent | routine => rfl
  have only := s.portTurn_only
  obtain ⟨ring, queues, -⟩ := Report.ringPart_parts (OnlyChanges.rings_eq only) k
  have place := State.ringPlace_of_map map k
  rw [size] at place
  have left := s.portTurn_ringLeft_entry k
  rw [State.entryBytes_event hk (queues.trans queue), place, ring, only.timing_eq] at left
  have counts := State.entry_counts (k := k) (RingEdit.setQueue k q) map (fun _ => by simp)
  rw [counted, left] at counts
  have job (l : Blocks) : (s.ctlWrites l).report.ringJob = s.report.ringJob :=
    (Report.ringPart_parts (OnlyChanges.rings_eq (s.ctlWrites_only l)) k).2.2.2.2
  refine ⟨?_, ?_⟩
  · change [(s.ringPlace k, s.entryBytes k)] = _
    rw [place, State.entryBytes_event hk queue]
  · have written : s.writeEvent k = (((s.doRingJob (.entry k)).modReport (fun r => r.setQueue k q)).countEntry k).loseWaiting k := by
      unfold State.writeEvent
      rw [queue]
      dsimp only
      rw [State.flushRing_idle init header]
      rfl
    rw [written, counts]
    dsimp only
    rw [← job ([((sectionOf m (ringSection k)).start + 64 + (s.report.ring k).writeIndex * 16,
        eventBytes e (s.report.ring k).gap (e.frame.getD s.timing.frame))].drop (s.report.written (.entry k)) ++
      [((sectionOf m (ringSection k)).start, ringHeaderBytes { s.report.ring k with
        writeIndex := ((s.report.ring k).writeIndex + 1) % (s.report.ring k).capacity, fill := (s.report.ring k).fill + 1
        gap := 0 })])]
    exact State.countedEvent_loses _ hk _ _ rfl q _

end Sys2Proof.Machine
end

section
-- Many short proofs follow one another: taken one at a time they need one thread's memory, not one's for each.
set_option Elab.async false
/-! PROOF. O50: RING_ENTRY_WRITE, and what writes every journal entry that waits (R149, R152 to R156). -/

namespace Sys2Proof.Machine

variable {s t u : State} {m : SectionMap} {k : RingId}

theorem exec_ringEntryWrite_idle (h : s.report.waitingFor k = 0) : exec (.ringEntryWrite k) s = .next s := if_pos h

theorem exec_ringEntryWrite (h : s.report.waitingFor k ≠ 0) : exec (.ringEntryWrite k) s = .next (s.writeEntry k).resume :=
  if_neg h

theorem State.writeRingHeader_queues (s : State) (k o : RingId) :
    (s.writeRingHeader k).report.queue o = s.report.queue o ∧ (s.writeRingHeader k).report.journalQueue = s.report.journalQueue :=
  let ⟨_, queue, _, journal, _⟩ := Report.ringPart_parts (OnlyChanges.rings_eq (s.writeRingHeader_only k)) o
  ⟨queue, journal⟩

theorem Report.setRing_queues (r : Report) (k o : RingId) (v : Ring) :
    (r.setRing k v).queue o = r.queue o ∧ (r.setRing k v).journalQueue = r.journalQueue := by
  cases k <;> cases o <;> exact ⟨rfl, rfl⟩

/-- Header work leaves what waits for the rings. -/
theorem State.flushRing_queues (s : State) (k o : RingId) :
    (s.flushRing k).report.queue o = s.report.queue o ∧ (s.flushRing k).report.journalQueue = s.report.journalQueue := by
  have cleared : ∀ u : State, u.report.queue o = s.report.queue o ∧ u.report.journalQueue = s.report.journalQueue → ∀ v : Ring,
      ((u.setReport (u.report.setRing k v)).writeRingHeader k).report.queue o = s.report.queue o ∧
      ((u.setReport (u.report.setRing k v)).writeRingHeader k).report.journalQueue = s.report.journalQueue := by
    intro u same v
    rw [(State.writeRingHeader_queues _ k o).1, (State.writeRingHeader_queues _ k o).2, setReport_report,
      (Report.setRing_queues _ k o v).1, (Report.setRing_queues _ k o v).2]
    exact same
  unfold State.flushRing State.andThen
  dsimp only
  split_ifs
  · obtain ⟨-, -, queue, journal, -⟩ := s.doRingJob_rings (.clear k) o
    exact cleared _ ⟨queue, journal⟩ _
  · exact cleared s ⟨rfl, rfl⟩ _
  · exact ⟨rfl, rfl⟩

/-- Header work comes before the entry (R149, R151). -/
theorem State.writeEvent_flushed (s : State) (k : RingId) (waits : s.report.queue k ≠ []) :
    s.writeEvent k = (s.flushRing k).writeEvent k := by
  have ring := (s.flushRing_work k k).2
  rw [if_pos rfl] at ring
  have clean : (s.flushRing k).flushRing k = s.flushRing k := State.flushRing_idle (by rw [ring]) (by rw [ring])
  obtain ⟨e, q, queue⟩ := List.exists_cons_of_ne_nil waits
  have queue' := (s.flushRing_queues k k).1.trans queue
  unfold State.writeEvent
  rw [queue, queue']
  dsimp only
  rw [clean]

theorem State.writeEntry_flushed (s : State) (k : RingId) : s.writeEntry k = (s.flushRing k).writeEntry k ∨
    s.report.waitingFor k = 0 := by
  refine or_iff_not_imp_right.2 (fun waits => ?_)
  cases k with
  | journal =>
    have ring := (s.flushRing_work .journal .journal).2
    rw [if_pos rfl] at ring
    have clean : (s.flushRing .journal).flushRing .journal = s.flushRing .journal :=
      State.flushRing_idle (by rw [ring]) (by rw [ring])
    obtain ⟨e, q, queue⟩ := List.exists_cons_of_ne_nil (mt List.length_eq_zero_iff.2 waits)
    change s.writeJournalEntry = (s.flushRing .journal).writeJournalEntry
    rw [State.writeJournalEntry_cons queue, State.writeJournalEntry_cons ((s.flushRing_queues .journal .journal).2.trans queue)]
    unfold State.entryCounted
    rw [clean]
  | urgent => exact s.writeEvent_flushed .urgent (mt List.length_eq_zero_iff.2 waits)
  | routine => exact s.writeEvent_flushed .routine (mt List.length_eq_zero_iff.2 waits)

/-! Every journal entry that waits (R43, R149, R154). -/

theorem State.writeEntries_waiting (s : State) (k : RingId) (n : Nat) :
    (s.writeEntries k n).report.waitingFor k ≤ s.report.waitingFor k - n := by
  induction n generalizing s with
  | zero => exact le_rfl
  | succ n ih =>
    have less := s.writeEntry_waiting k
    have rest := ih (s.writeEntry k)
    change ((s.writeEntry k).writeEntries k n).report.waitingFor k ≤ _
    omega

theorem State.journalDone_empty (s : State) : s.journalDone.report.journalQueue = [] := by
  have waiting := s.writeEntries_waiting .journal s.report.journalQueue.length
  rw [show s.report.waitingFor .journal = s.report.journalQueue.length from rfl, Nat.sub_self] at waiting
  exact List.length_eq_zero_iff.1 (Nat.le_zero.1 waiting)

theorem State.journalDone_next (h : s.report.journalQueue ≠ []) : s.journalDone = (s.writeEntry .journal).journalDone :=
  State.writeEntries_first (k := .journal) (mt List.length_eq_zero_iff.1 h)

theorem State.journalDone_nothing (h : s.report.journalQueue = []) : s.journalDone = s := by
  unfold State.journalDone
  rw [h]
  rfl

theorem SlotState.busy_iff (x : SlotState) : x ≠ .idle ↔ x = .posted ∨ x = .building := by
  cases x <;> decide

theorem State.summaryCopy_slotsBusy (s : State) (slot : Nat) : (s.summaryCopy slot).slotsBusy = true ↔
    ∃ i, i ≠ slot ∧ ((s.slot i).state = .posted ∨ (s.slot i).state = .building) := by
  change s.takes.slots.zipIdx.any (fun r => r.2 != slot && decide (r.1.state ≠ .idle)) = true ↔ _
  simp only [List.any_eq_true, Bool.and_eq_true, bne_iff_ne, decide_eq_true_eq, SlotState.busy_iff]
  constructor
  · rintro ⟨⟨r, i⟩, mem, other, busy⟩
    have slots := List.mem_zipIdx_iff_getElem?.1 mem
    refine ⟨i, other, ?_⟩
    rw [State.slot, List.getD_eq_getElem?_getD, slots]
    exact busy
  · rintro ⟨i, other, busy⟩
    have hi : i < s.takes.slots.length := by
      by_contra out
      rw [State.slot, List.getD_eq_getElem?_getD, List.getElem?_eq_none (Nat.le_of_not_lt out)] at busy
      rcases busy with h | h <;> cases h
    refine ⟨(s.slot i, i), List.mem_zipIdx_iff_getElem?.2 ?_, other, busy⟩
    rw [State.slot, List.getD_eq_getElem?_getD, List.getElem?_eq_getElem hi]
    rfl

/-- The take of a journal entry ends once its entry is counted. -/
theorem State.writeEntry_journal {e : JournalEntry} {q : List JournalEntry} (queue : s.report.journalQueue = e :: q) :
    s.writeEntry .journal = (s.entryCounted q).endTake e.slot := State.writeJournalEntry_cons queue

/-- Settles O50: the entry written and counted, the take that ends with it, the events lost, and the entries written one by one.
-/
theorem ringEntryWriteCountsEntry : Obligations.RingEntryWriteCountsEntry := by
  unfold Obligations.RingEntryWriteCountsEntry
  refine ⟨fun s k => ⟨fun h => ⟨exec_ringEntryWrite_idle h, State.writeEntry_nothing h⟩, exec_ringEntryWrite,
      by cases k <;> rfl, fun _ => s.writeEntry_flushed k⟩, fun s m e q map queue slots below named init header => ?_,
    fun s m k e q map hk queue init header => ?_, fun s slot => ⟨rfl, s.summaryCopy_slotsBusy slot⟩,
    fun s i o r entry tile late frame => ⟨rfl, rfl⟩, ⟨rfl, rfl, rfl⟩,
    fun s => (State.writeEntries_sets s .journal s.report.journalQueue.length).delivery,
    fun s => ⟨State.journalDone_nothing, State.journalDone_next, s.journalDone_empty, s.journalDone_only⟩, fun s b c => ?_⟩
  · obtain ⟨blocks, counted⟩ := State.entryCounted_mapped map queue init header
    have takes : (s.entryCounted q).takes = s.takes := (s.entryCounted_only q).takes_eq
    have ends := State.writeEntry_journal queue
    dsimp only
    rw [ends, ← counted]
    refine ⟨blocks, fun checking => ?_, fun checking => ?_⟩
    · rw [← takes]
      exact State.endTake_handles (by rw [takes]; exact slots) (by rw [takes]; exact checking) (by rw [takes]; exact named)
    · obtain ⟨reads, rest, copies, only⟩ := State.endTake_idles (s := s.entryCounted q) (i := e.slot)
        (by rw [takes]; exact slots) (by rw [takes]; exact checking) below
      have slot (i : Nat) : (s.entryCounted q).slot i = s.slot i := State.slot_congr takes i
      refine ⟨fun i => ?_, by rw [← takes]; exact rest, (s.entryCounted_only q).status_eq ▸ copies, only⟩
      rw [reads, slot, slot]
      by_cases here : i = e.slot
      · rw [if_pos here, if_pos here, here]
      · rw [if_neg here, if_neg here]
  · cases k with
    | journal => exact absurd rfl hk
    | urgent => exact State.writeEvent_mapped map hk queue init header
    | routine => exact State.writeEvent_mapped map hk queue init header
  · refine ⟨fun d => ?_, s.raiseIf_enables b c, fun on => ?_, fun off => by rw [off]; rfl, s.raiseIf_only b c⟩
    · rw [State.causeSet_raiseIf, Bool.and_comm]
    · rw [on]
      exact ⟨State.setCauses_delivers _ _, rfl⟩

end Sys2Proof.Machine
end

section
-- Many short proofs follow one another: taken one at a time they need one thread's memory, not one's for each.
set_option Elab.async false
/-! PROOF. O58: SUPERVISION_EXPIRY (R144, R145). -/

namespace Sys2Proof.Machine

variable {s t u w : State} {record : ModeCtl} {r : Trigger} {es : List Event}

theorem State.reach_handed (s : State) (n : Time) : Hands s (s.reach n) [] (fun _ => false) :=
  .of_frame (s.reach_only n) rfl rfl rfl rfl

/-- The entry to FALLBACK as it is from the state before the time moved on and events were handed on (R139). -/
theorem EntersFallback.afterEvents (hw : Hands s w es (fun _ => false)) (fw : OnlyChanges [.now, .rings, .interrupt, .causes] s w)
    (hj : w.report.journalPart = s.report.journalPart) (h : EntersFallback w t record r []) (hr : record = w.modes) :
    EntersFallback s t s.modes r es := by
  obtain ⟨u, modes, composer, entries, hands, changes, now, modes', composer', entries', hands', changes'⟩ := h
  rw [hr, fw.modes_eq] at modes modes'
  rw [fw.composer_eq] at composer composer'
  have slot := State.slot_congr fw.takes_eq
  rw [State.postedSlots_congr fw.takes_eq hj, State.buildSlots_congr (t := w) (s := s) (by rw [fw.composer_eq]),
    Report.handed_map_congr (s := s) hj (fun j => by rw [slot, State.entryOf_congr (slot j)])] at entries
  rw [fw.modes_eq] at hands'
  have given : Hands w u [] (fun _ => false) :=
    ⟨hands, hands.setsFlags (by rw [modes, fw.modes_eq]) changes.link_eq, by rw [modes, fw.modes_eq],
      by rw [composer, fw.composer_eq]⟩
  exact ⟨u, modes, composer, entries, (hw.before given).hands, (fw.mono (by decide)).next changes (by decide), now, modes',
    composer', entries', hands', changes'⟩

/-- Settles O58: the SUPERVISION event stands before all an entry to FALLBACK brings about. -/
theorem supervisionExpiryEntersFallback : Obligations.SupervisionExpiryEntersFallback := by
  refine ⟨fun s start c running captured building => ?_, fun s stopped => ?_⟩
  · let at_ := s.reach (start + c.supervision * 1000000)
    let event := supervisionEvent s.modes.mode c.supervision
    let handed := at_.handEvent event
    have run : exec .supervisionExpiry s = .next (handed.enterFallback .supervision) := by
      change execSupervisionExpiry s = _
      unfold execSupervisionExpiry
      rw [running, captured]
      rfl
    have reached : OnlyChanges [.now] s at_ := s.reach_only _
    have frame : OnlyChanges [.now, .rings, .interrupt, .causes] s handed :=
      (reached.mono (by decide)).next (at_.handEvent_only event) (by decide)
    have slots : handed.buildSlots = s.buildSlots := State.buildSlots_congr (by rw [frame.composer_eq])
    have enters := handed.enterFallback_spec .supervision (fun i hi => by
      rw [frame.slot_eq]
      exact building i (slots ▸ hi))
    refine ⟨_, run, ?_, enters.afterEvents ((s.reach_handed _).trans (at_.handEvent_handed event)) frame ?_ rfl⟩
    · rw [(State.enterFallback_only _ _).now_eq, (at_.handEvent_only event).now_eq]
      rfl
    · rw [State.handEvent_journal]
      rfl
  · change execSupervisionExpiry s = _
    unfold execSupervisionExpiry
    rw [stopped]

end Sys2Proof.Machine
end

section
-- Many short proofs follow one another: taken one at a time they need one thread's memory, not one's for each.
set_option Elab.async false
/-! PROOF. O55: REFERENCE_ARRIVAL (R117 to R119). -/

namespace Sys2Proof.Machine

variable {s : State} {time q : Time} {t : Timing}

/-! Intervals, means and distances (R112, R117, R118). -/

theorem distance_eq (a b : Time) : distance a b = (a - b) + (b - a) := by
  unfold distance
  omega

theorem goodInterval_iff (r : WallRate) (n : Nat) :
    goodInterval r n = true ↔ 200 * r.nominal ≤ 200 * n + r.nominal ∧ 200 * n ≤ 200 * r.nominal + r.nominal := by
  unfold goodInterval
  rw [decide_eq_true_eq]
  omega

theorem meanInterval_rounds {l : List Nat} (h : l ≠ []) : 2 * meanInterval l * l.length ≤ 2 * l.sum + l.length ∧
    2 * l.sum + l.length < 2 * (meanInterval l + 1) * l.length := by
  have positive : 0 < 2 * l.length := Nat.mul_pos (by decide) (List.length_pos_iff.mpr h)
  have regroup (q : Nat) : 2 * q * l.length = 2 * l.length * q := by rw [Nat.mul_right_comm]
  rw [regroup, regroup]
  exact ⟨Nat.mul_div_le _ _, Nat.lt_mul_div_succ _ positive⟩

theorem Timing.period_eq (t : Timing) : t.period = if t.ref = .freerun then t.rate.nominal else t.measured.getD t.rate.nominal := by
  unfold Timing.period
  cases t.ref <;> rfl

/-! The good run (R118). -/

/-- The arrival is noted, and the good run counted. -/
def Timing.arrived (t : Timing) (time : Time) : Timing :=
  { t with prevArrival := some time, goodRun := (t.runAfter time).1, runIntervals := (t.runAfter time).2 }

theorem Timing.countRun_eq (t : Timing) (time : Time) :
    { t with prevArrival := some time }.countRun (t.prevArrival.map (fun q => time - q)) = t.arrived time := by
  unfold Timing.countRun Timing.arrived Timing.runAfter
  cases t.prevArrival with
  | none => rfl
  | some q =>
    dsimp only [Option.map]
    cases goodInterval t.rate (time - q) <;> rfl

/-- The state in which the work of an arrival begins, its timing record being `t` (R117). -/
def State.atArrival (s : State) (time : Time) (t : Timing) : State := (s.reach time).setTiming t

theorem State.atArrival_only (s : State) (time : Time) (t : Timing) : OnlyChanges [.now, .timing] s (s.atArrival time t) :=
  ((s.reach_only time).mono (by decide)).next (State.setTiming_only _ t) (by decide)

theorem exec_arrival_counts (h : s.timing.ref ≠ .locked) : exec (.referenceArrival time) s =
    .next (if 8 ≤ (s.timing.runAfter time).1 then (s.atArrival time (s.timing.arrived time)).lockReference time
      else s.atArrival time (s.timing.arrived time)) := by
  have counted : (s.reach time).setTiming ({ s.timing with prevArrival := some time }.countRun
      (s.timing.prevArrival.map (fun q => time - q))) = s.atArrival time (s.timing.arrived time) :=
    congrArg (State.setTiming (s.reach time)) (s.timing.countRun_eq time)
  change execReferenceArrival time s = _
  unfold execReferenceArrival State.andThen
  dsimp only
  rw [show (s.reach time).timing = s.timing from rfl, counted]
  revert h
  cases s.timing.ref with
  | locked => exact fun h => absurd rfl h
  | freerun | holdover => exact fun _ => (apply_ite _ _ _ _).symm

/-! Arrivals in LOCKED (R119). -/

theorem exec_arrival_locked (h : s.timing.ref = .locked) : exec (.referenceArrival time) s = .next (s.atArrival time
    (if s.timing.prediction.any (fun q => inWindow (s.timing.measured.getD s.timing.rate.nominal) q time)
      then { s.timing with prevArrival := some time }.goodArrival time else { s.timing with prevArrival := some time })) := by
  change execReferenceArrival time s = _
  unfold execReferenceArrival State.andThen
  dsimp only
  rw [show (s.reach time).timing = s.timing from rfl, h]
  cases s.timing.prediction with
  | none => rfl
  | some q =>
    dsimp only [Option.any]
    exact (apply_ite (fun t => Host.Outcome.next (s.atArrival time t)) _ _ _).symm

/-- Whether the interval of a good arrival joins the list (R119). -/
abbrev Timing.joins (t : Timing) (r : Time) : Prop :=
  t.missingRun = 0 ∧ t.prevExpected.any (fun e => goodInterval t.rate (r - e)) = true

/-- The eight latest intervals, that of the arrival among them (R119). -/
abbrev Timing.joined (t : Timing) (r : Time) : List Nat := pushInterval t.intervals (r - t.prevExpected.getD 0)

/-- The measured period after a good arrival (R119). -/
abbrev Timing.periodAfter (t : Timing) (r : Time) : Nat :=
  if t.joins r then meanInterval (t.joined r) else t.measured.getD t.rate.nominal

theorem pushInterval_eq (l : List Nat) (d : Nat) : pushInterval l d = (l ++ [d]).drop ((l ++ [d]).length - 8) := by
  unfold pushInterval
  rw [List.length_append]
  rfl

theorem Timing.correct_eq (t : Timing) (r : Time) (p : Nat) : t.correct r p =
    let before := distance r t.lastBoundary ≤ distance r t.nextBoundary
    { t with
      prediction := some (r + p), nextBoundary := if before then r + p else t.nextBoundary
      nextPlan := if before ∧ t.planDone = false then r + p - t.lead * 10 else t.nextPlan
      afterNext := if before then t.afterNext else some (r + p) } := by
  unfold Timing.correct Timing.moveNext Timing.schedule
  dsimp only
  by_cases before : distance r t.lastBoundary ≤ distance r t.nextBoundary
  · rw [if_pos before, if_pos before, if_pos before]
    cases done : t.planDone
    · rw [if_neg Bool.false_ne_true, if_pos ⟨before, rfl⟩]
    · rw [if_pos rfl, if_neg (fun h => absurd h.2 (by decide))]
  · rw [if_neg before, if_neg before, if_neg before, if_neg (fun h => before h.1)]

/-- The intervals and the measured period after a good arrival, the arrival being an expected one (R119). -/
def Timing.measuredAt (t : Timing) (r : Time) : Timing :=
  { t with
    missingRun := 0, prevExpected := some r, intervals := if t.joins r then t.joined r else t.intervals
    measured := if t.joins r then some (t.periodAfter r) else t.measured }

theorem Timing.goodArrival_eq (t : Timing) (r : Time) : t.goodArrival r = (t.measuredAt r).correct r (t.periodAfter r) := by
  unfold Timing.goodArrival Timing.measuredAt Timing.periodAfter Timing.joins Timing.joined
  cases t.prevExpected with
  | none =>
    have out : ¬ (t.missingRun = 0 ∧ Option.any (fun e => goodInterval t.rate (r - e)) none = true) := nofun
    dsimp only
    rw [if_neg out, if_neg out, if_neg out]
  | some q =>
    dsimp only [Option.any, Option.getD_some]
    by_cases joins : t.missingRun = 0 ∧ goodInterval t.rate (r - q) = true
    · rw [if_pos joins, if_pos joins, if_pos joins, if_pos joins]
      rfl
    · rw [if_neg joins, if_neg joins, if_neg joins, if_neg joins]

theorem inWindow_iff (p : Nat) (q r : Time) : inWindow p q r = true ↔ 200 * distance r q ≤ p := decide_eq_true_iff

/-- Settles O55. -/
theorem referenceArrivalTracks : Obligations.ReferenceArrivalTracks := by
  refine ⟨⟨rfl, rfl, rfl⟩, fun n => ⟨?_, ?_, ?_⟩, fun l => meanInterval_rounds, fun t => ⟨?_, ?_, ?_⟩, distance_eq,
    fun s time free short => ?_, fun s time locked => ?_⟩
  · rw [goodInterval_iff, show WallRate.r50000.nominal = 200000 from rfl]
    omega
  · rw [goodInterval_iff, show WallRate.r59940.nominal = 166833 from rfl]
    omega
  · rw [goodInterval_iff, show WallRate.r60000.nominal = 166667 from rfl]
    omega
  · exact fun free => by rw [Timing.period_eq, if_pos free]
  · intro tied p measured
    rw [Timing.period_eq, if_neg (by rcases tied with h | h <;> rw [h] <;> decide), measured]
    rfl
  · intro none
    rw [Timing.period_eq, none]
    exact ite_self _
  · refine ⟨_, exec_arrival_counts free, ?_⟩
    rw [if_neg (Nat.not_le.mpr short)]
    exact ⟨rfl, rfl, s.atArrival_only _ _⟩
  · refine ⟨fun outside => ⟨_, exec_arrival_locked locked, rfl, ?_, s.atArrival_only _ _⟩, fun q predicted inside =>
      ⟨_, exec_arrival_locked locked, rfl, s.atArrival_only _ _, ?_⟩⟩
    · have unexpected : ¬ s.timing.prediction.any
          (fun q => inWindow (s.timing.measured.getD s.timing.rate.nominal) q time) = true := by
        rw [Option.any_eq_true]
        rintro ⟨q, predicted, within⟩
        exact absurd ((inWindow_iff _ _ _).mp within) (Nat.not_le.mpr (outside q predicted))
      rw [if_neg unexpected]
      rfl
    · have expected : s.timing.prediction.any
          (fun q => inWindow (s.timing.measured.getD s.timing.rate.nominal) q time) = true := by
        rw [predicted]
        exact (inWindow_iff _ _ _).mpr inside
      rw [if_pos expected]
      change ({ s.timing with prevArrival := some time }.goodArrival time : Timing) = _
      rw [Timing.goodArrival_eq, Timing.correct_eq]
      unfold Timing.measuredAt Timing.periodAfter Timing.joined
      rw [pushInterval_eq]

end Sys2Proof.Machine
end

section
-- Many short proofs follow one another: taken one at a time they need one thread's memory, not one's for each.
set_option Elab.async false
/-! PROOF. O56 and O57: changes of the reference state (R118, R120 to R124). -/

namespace Sys2Proof.Machine

variable {s t u : State} {time : Time}

/-! What a change of the reference state brings about. -/

theorem State.timingChange_changes (s : State) (old new : RefState) (amount : Nat) (realigned shortened : Bool) :
    ChangesReference old new amount realigned shortened s (s.timingChange old new amount realigned shortened false) :=
  ⟨(s.timingChange_handed _ _ _ _ _ _).hands, s.timingChange_journal _ _ _ _ _ _⟩

theorem State.atArrival_handed (s : State) (n : Time) (v : Timing) : Hands s (s.atArrival n v) [] (fun _ => false) :=
  .of_frame (s.atArrival_only n v) rfl rfl rfl rfl

/-- A change of the reference state once the clock has reached `n`, the timing record being `v` after it. -/
theorem State.atArrival_changes (s : State) (n : Time) (v : Timing) (old new : RefState) (amount : Nat)
    (realigned shortened : Bool) : let t := (s.atArrival n v).timingChange old new amount realigned shortened false
    t.now = max s.now n ∧ t.timing = v ∧ ChangesReference old new amount realigned shortened s t ∧
    OnlyChanges [.now, .timing, .rings, .interrupt, .causes] s t := by
  have reached := s.atArrival_only n v
  have changed := (s.atArrival n v).timingChange_only old new amount realigned shortened false
  exact ⟨changed.now_eq, changed.timing_eq,
    ⟨((s.atArrival_handed n v).trans (State.timingChange_handed _ _ _ _ _ _ _)).hands.congr (fun c => Bool.false_or _),
      State.timingChange_journal _ _ _ _ _ _ _⟩,
    (reached.mono (by decide)).next changed (by decide)⟩

/-! Missing pulses and holdover (R120, R121). -/

theorem exec_missingPulse {q : Time} (locked : s.timing.ref = .locked) (predicted : s.timing.prediction = some q) :
    let p := s.timing.measured.getD s.timing.rate.nominal
    exec .missingPulse s = .next (if 2 ≤ s.timing.missingRun + 1 then (s.atArrival (q + p / 200) { s.timing with
        missingRun := 2, ref := .holdover, prediction := none, goodRun := 0, runIntervals := []
        holdoverStart := some (max s.now (q + p / 200)) }).timingChange .locked .holdover 0 false false false
      else s.atArrival (q + p / 200) { s.timing with missingRun := s.timing.missingRun + 1, prediction := some (q + p) }) := by
  change execMissingPulse s = _
  unfold execMissingPulse
  rw [locked, predicted]
  exact (apply_ite Host.Outcome.next _ _ _).symm

theorem exec_holdoverExpiry {start : Time} (holdover : s.timing.ref = .holdover) (running : s.timing.holdoverStart = some start) :
    exec .holdoverExpiry s = .next ((s.atArrival (start + 100000000) { s.timing with
      ref := .freerun, goodRun := 0, missingRun := 0, measured := none, intervals := [], runIntervals := []
      prediction := none, prevExpected := none, holdoverStart := none }).timingChange .holdover .freerun 0 false false false) := by
  change execHoldoverExpiry s = _
  unfold execHoldoverExpiry
  rw [holdover, running]
  rfl

/-- Settles O57. -/
theorem referenceLossAndHoldover : Obligations.ReferenceLossAndHoldover := by
  refine ⟨fun s q locked predicted => ?_, fun s idle => ?_, fun s start holdover running => ?_, fun s idle => ?_⟩
  · dsimp only
    rw [exec_missingPulse locked predicted]
    by_cases missing : 1 ≤ s.timing.missingRun
    · rw [if_pos (Nat.succ_le_succ missing)]
      obtain ⟨now, timing, changes, only⟩ := s.atArrival_changes _ _ .locked .holdover 0 false false
      exact ⟨_, rfl, now, fun first => absurd missing (by rw [first]; decide), fun _ => ⟨timing, changes, only⟩⟩
    · have first : s.timing.missingRun = 0 := by omega
      rw [if_neg (by omega)]
      exact ⟨_, rfl, rfl, fun _ => ⟨by rw [first]; rfl, s.atArrival_only _ _⟩, fun more => absurd more missing⟩
  · change execMissingPulse s = _
    unfold execMissingPulse
    split
    · next locked predicted => exact absurd idle (by rw [locked, predicted]; simp)
    · rfl
  · rw [exec_holdoverExpiry holdover running]
    exact ⟨_, rfl, s.atArrival_changes _ _ _ _ _ _ _⟩
  · change execHoldoverExpiry s = _
    unfold execHoldoverExpiry
    split
    · next holdover running => exact absurd idle (by rw [holdover, running]; simp)
    · rfl

/-! The move to LOCKED (R118, R121, R122). -/

/-- The schedule's correction is enough: the pulse is within 0.5 % of a boundary, after HOLDOVER (R121). -/
abbrev Timing.near (t : Timing) (r : Time) (p : Nat) : Prop :=
  t.ref = .holdover ∧ 200 * min (distance r t.lastBoundary) (distance r t.nextBoundary) ≤ p

theorem exec_arrival_locks (free : s.timing.ref ≠ .locked) (eight : 8 ≤ (s.timing.runAfter time).1) :
    let locked := (s.timing.arrived time).lock time
    let p := meanInterval (s.timing.runAfter time).2
    exec (.referenceArrival time) s = .next (if s.timing.near time p
      then (s.atArrival time (locked.correct time p)).timingChange s.timing.ref .locked 0 false false false
      else (s.atArrival time locked).realign s.timing.ref time p) := by
  rw [exec_arrival_counts free, if_pos eight]
  rfl

theorem Timing.moveNext_eq (t : Timing) (n : Time) : t.moveNext n =
    { t with nextBoundary := n, nextPlan := if t.planDone then t.nextPlan else n - t.lead * 10 } := by
  unfold Timing.moveNext Timing.schedule
  split <;> rfl

/-- The boundary next scheduled moves to a period after the arrival that locks (R119, R122). -/
abbrev Timing.lockedToNext (t : Timing) (r : Time) : Timing :=
  let t1 := t.lockedAt r
  let n := r + meanInterval (t.runAfter r).2
  { t1 with nextBoundary := n, nextPlan := if t1.planDone then t1.nextPlan else n - t1.lead * 10 }

theorem Timing.moveNext_lock (t : Timing) (r : Time) :
    { ((t.arrived r).lock r).moveNext (r + meanInterval (t.runAfter r).2) with
      prediction := some (r + meanInterval (t.runAfter r).2) } = t.lockedToNext r := by
  rw [Timing.moveNext_eq]
  rfl

theorem Timing.correct_lock (t : Timing) (r : Time) : ((t.arrived r).lock r).correct r (meanInterval (t.runAfter r).2) =
    if distance r t.lastBoundary ≤ distance r t.nextBoundary then t.lockedToNext r
    else { t.lockedAt r with afterNext := some (r + meanInterval (t.runAfter r).2) } := by
  unfold Timing.correct
  rw [t.moveNext_lock r]
  rfl

/-! A boundary keeps the wall timing, outside the one that ends an activation (R114, R125). -/

theorem State.composerBoundary_timing (unpassed : ∀ c plan, s.modes.progress ≠ .passed c plan) (n : Word) :
    (s.composerBoundary n).timing = s.timing :=
  s.composerBoundary_cases (P := fun t => t.timing = s.timing) n (fun _ => (s.fallbackCommit_only n).timing_eq)
    (fun c plan _ _ passed => absurd passed (unpassed c plan)) (fun b _ _ _ => (s.commitBuild_only b n).timing_eq)
    (fun b _ _ _ => (s.overrunBuild_only b n).timing_eq) (fun _ _ => rfl)

theorem State.boundary_timing (unpassed : ∀ c plan, s.modes.progress ≠ .passed c plan) :
    s.boundary.timing = s.timing.afterBoundary := by
  let taken : State := s.setTiming s.timing.atBoundary
  have kept : (taken.composerBoundary (s.timing.frame + 1)).timing = s.timing.atBoundary :=
    State.composerBoundary_timing (s := taken) unpassed _
  have ends : s.boundary = (taken.composerBoundary (s.timing.frame + 1)).boundaryRest := rfl
  rw [ends]
  unfold State.boundaryRest
  rw [State.framesBegun_timing]
  split
  · rw [(State.quiesceDone_only _).timing_eq, kept, Timing.next_atBoundary]
  · rw [kept, Timing.next_atBoundary]

theorem State.planPoint_timing (s : State) : s.planPoint.timing = { s.timing with planDone := true } := by
  unfold State.planPoint State.andThen
  dsimp only
  split
  · rw [(State.gatherAndBuild_only _ _).timing_eq]
    rfl
  · rfl

/-- A boundary taken at once, after its plan point where that has not occurred (R122). -/
def State.takenAtOnce (s : State) : State := (if s.timing.planDone then s else s.planPoint).boundary

theorem State.takenAtOnce_timing (unpassed : ∀ c plan, s.modes.progress ≠ .passed c plan) :
    s.takenAtOnce.timing = s.timing.afterBoundary := by
  unfold State.takenAtOnce
  split
  · exact State.boundary_timing unpassed
  · rw [State.boundary_timing (by rw [s.planPoint_only.modes_eq]; exact unpassed), State.planPoint_timing]
    rfl

/-- Settles O56. -/
theorem referenceLocks : Obligations.ReferenceLocks := by
  refine ⟨fun s => ⟨rfl, fun due => if_neg (by rw [due]; decide)⟩, fun s time free eight => ?_⟩
  have run := exec_arrival_locks free eight
  dsimp only at run ⊢
  refine ⟨fun near => ?_, fun far early => ?_, fun far late unpassed => ?_⟩
  · rw [if_pos near, Timing.correct_lock] at run
    exact ⟨_, run, s.atArrival_changes _ _ _ _ _ _ _⟩
  · have realigned : (s.atArrival time ((s.timing.arrived time).lock time)).realign s.timing.ref time
        (meanInterval (s.timing.runAfter time).2) = (s.atArrival time (s.timing.lockedToNext time)).timingChange
          s.timing.ref .locked ((time - s.timing.lastBoundary + 5) / 10) true false false := by
      rw [← Timing.moveNext_lock]
      exact if_pos early
    rw [if_neg far, realigned] at run
    exact ⟨_, run, s.atArrival_changes _ _ _ _ _ _ _⟩
  · let moved := s.atArrival time { s.timing.lockedAt time with nextBoundary := time }
    have realigned : (s.atArrival time ((s.timing.arrived time).lock time)).realign s.timing.ref time
        (meanInterval (s.timing.runAfter time).2) = moved.takenAtOnce.timingChange
          s.timing.ref .locked ((s.timing.nextBoundary - time + 5) / 10) true true false :=
      if_neg (Nat.not_lt.mpr late)
    rw [if_neg far, realigned] at run
    exact ⟨_, run, (State.timingChange_only _ _ _ _ _ _ _).timing_eq.trans (State.takenAtOnce_timing (s := moved) unpassed),
      State.timingChange_changes _ _ _ _ _ _, (State.timingChange_only _ _ _ _ _ _ _).mono (by decide)⟩

end Sys2Proof.Machine
end

section
-- Many short proofs follow one another: taken one at a time they need one thread's memory, not one's for each.
set_option Elab.async false
/-! PROOF. O60: records as packed little-endian fields (R190). -/

namespace Sys2Proof.Machine

/-! Fields one behind the other. -/

/-- The `n` low bytes of a number, little-endian. -/
def leBytes : (n : Nat) → Nat → List Byte
  | 0, _ => []
  | n + 1, v => BitVec.ofNat 8 v :: leBytes n (v / 256)

/-- The bytes of fields one behind the other, each given by its width and its value; one without a value is unused. -/
def packed : List (Nat × Option Nat) → List Byte
  | [] => []
  | (w, v) :: l => leBytes w (v.getD 0) ++ packed l

/-- The fields of `packed`, the first one at offset `off`. -/
def fieldsAt : (off : Nat) → List (Nat × Option Nat) → List (Nat × Nat × Nat)
  | _, [] => []
  | off, (w, none) :: l => fieldsAt (off + w) l
  | off, (w, some v) :: l => (off, w, v) :: fieldsAt (off + w) l

/-- The offset behind the fields of `packed`, the first one at offset `off`. -/
def endOf : (off : Nat) → List (Nat × Option Nat) → Nat
  | off, [] => off
  | off, p :: l => endOf (off + p.1) l

theorem leBytes_length (n v : Nat) : (leBytes n v).length = n := by
  induction n generalizing v with
  | zero => rfl
  | succ n ih => exact congrArg (· + 1) (ih _)

theorem leBytes_zero (n i : Nat) : (leBytes n 0).getD i 0 = 0 := by
  induction n generalizing i with
  | zero => rfl
  | succ n ih => cases i with
    | zero => rfl
    | succ i => exact ih i

theorem leBytes_eq_replicate (n : Nat) : leBytes n 0 = List.replicate n 0 := by
  induction n with
  | zero => rfl
  | succ n ih => exact congrArg (0#8 :: ·) ih

/-- A field is read back from its bytes. -/
theorem leValue_leBytes (n : Nat) {f : Nat → Byte} {off v : Nat} (h : ∀ i, i < n → f (off + i) = (leBytes n v).getD i 0) :
    leValue f off n = v % 256 ^ n := by
  induction n generalizing off v with
  | zero => exact (Nat.mod_one v).symm
  | succ n ih =>
    have first : f off = BitVec.ofNat 8 v := h 0 (Nat.succ_pos n)
    have rest : leValue f (off + 1) n = v / 256 % 256 ^ n :=
      ih (fun i hi => by rw [Nat.add_assoc, Nat.add_comm 1]; exact h (i + 1) (Nat.succ_lt_succ hi))
    change (f off).toNat + 256 * leValue f (off + 1) n = _
    rw [first, rest, BitVec.toNat_ofNat]
    exact ((congrArg (v % ·) Nat.pow_succ').trans Nat.mod_mul).symm

theorem packed_length (l : List (Nat × Option Nat)) (n : Nat) : n + (packed l).length = endOf n l := by
  induction l generalizing n with
  | nil => rfl
  | cons p l ih =>
    change n + (leBytes p.1 _ ++ packed l).length = endOf (n + p.1) l
    rw [List.length_append, leBytes_length, ← ih, Nat.add_assoc]

theorem getD_append_right (a b : List Byte) (i : Nat) : (a ++ b).getD (a.length + i) 0 = b.getD i 0 := by
  rw [List.getD_append_right _ _ _ _ (Nat.le_add_right _ _), Nat.add_sub_cancel_left]

/-- The fields hold their values, whatever stands before and behind them. -/
theorem packed_holds (l : List (Nat × Option Nat)) (pre : List Byte) {off w v : Nat} (h : (off, w, v) ∈ fieldsAt pre.length l) :
    leValue (fun i => (pre ++ packed l).getD i 0) off w = v % 256 ^ w := by
  induction l generalizing pre with
  | nil => cases h
  | cons p l ih =>
    obtain ⟨w', x⟩ := p
    have behind (h : (off, w, v) ∈ fieldsAt (pre.length + w') l) :
        leValue (fun i => (pre ++ packed ((w', x) :: l)).getD i 0) off w = v % 256 ^ w := by
      have split : pre ++ packed ((w', x) :: l) = (pre ++ leBytes w' (x.getD 0)) ++ packed l :=
        (List.append_assoc _ _ _).symm
      rw [split]
      exact ih _ (by rw [List.length_append, leBytes_length]; exact h)
    cases x with
    | none => exact behind h
    | some v' =>
      rcases List.mem_cons.1 h with same | later
      · cases same
        refine leValue_leBytes w (fun i hi => ?_)
        rw [getD_append_right]
        exact List.getD_append _ _ _ _ (by rw [leBytes_length]; exact hi)
      · exact behind later

/-- Bytes behind `pre` in no field are 0. -/
theorem packed_unused (l : List (Nat × Option Nat)) (pre : List Byte) {i : Nat} (hi : pre.length ≤ i)
    (h : ∀ f ∈ fieldsAt pre.length l, i < f.1 ∨ f.1 + f.2.1 ≤ i) : (pre ++ packed l).getD i 0 = 0 := by
  induction l generalizing pre with
  | nil => exact List.getD_eq_default _ _ (by rw [packed, List.append_nil]; exact hi)
  | cons p l ih =>
    obtain ⟨w, x⟩ := p
    have split : pre ++ packed ((w, x) :: l) = (pre ++ leBytes w (x.getD 0)) ++ packed l := (List.append_assoc _ _ _).symm
    have size : (pre ++ leBytes w (x.getD 0)).length = pre.length + w := by rw [List.length_append, leBytes_length]
    by_cases here : i < pre.length + w
    · cases x with
      | none =>
        rw [split, List.getD_append _ _ _ _ (by rw [size]; exact here), ← Nat.add_sub_cancel' hi, getD_append_right]
        exact leBytes_zero w _
      | some v =>
        have outside : i < pre.length ∨ pre.length + w ≤ i := h (pre.length, w, v) List.mem_cons_self
        omega
    · rw [split]
      refine ih _ (by rw [size]; omega) (fun f hf => h f ?_)
      rw [size] at hf
      cases x with
      | none => exact hf
      | some v => exact List.mem_cons_of_mem _ hf

/-- A record whose bytes are packed fields has those fields. -/
theorem RecordHas.of_packed {bs : List Byte} {size : Nat} {fields : List (Nat × Nat × Nat)} (l : List (Nat × Option Nat))
    (bytes : bs = packed l) (sizes : endOf 0 l = size) (same : fields.Perm (fieldsAt 0 l)) :
    RecordHas bs size fields where
  size := by rw [bytes, ← sizes, ← packed_length, Nat.zero_add]
  field f hf := by rw [bytes]; exact packed_holds l [] (same.mem_iff.1 hf)
  unused i hi := by rw [bytes]; exact packed_unused l [] (Nat.zero_le i) (fun f hf => hi f (same.mem_iff.2 hf))

/-! The model's fields as packed ones. -/

theorem bytes1_eq (n : Nat) : bytes1 n = leBytes 1 n := rfl

theorem extractLsb'_byte {n : Nat} (v : BitVec n) (k : Nat) : v.extractLsb' k 8 = BitVec.ofNat 8 (v.toNat / 2 ^ k) :=
  congrArg (BitVec.ofNat 8) (Nat.shiftRight_eq_div_pow _ _)

theorem bytesHalf_eq (v : Half) : bytesHalf v = leBytes 2 v.toNat := by
  unfold bytesHalf leBytes leBytes leBytes
  rw [extractLsb'_byte, extractLsb'_byte, Nat.pow_zero, Nat.div_one]
  rfl

theorem bytesWord_eq (v : Word) : bytesWord v = leBytes 4 v.toNat := by
  unfold bytesWord leBytes leBytes leBytes leBytes leBytes
  rw [extractLsb'_byte, extractLsb'_byte, extractLsb'_byte, extractLsb'_byte, Nat.pow_zero, Nat.div_one,
    Nat.div_div_eq_div_mul, Nat.div_div_eq_div_mul]
  rfl

theorem leBytes_mod (n v : Nat) : leBytes n (v % 256 ^ n) = leBytes n v := by
  induction n generalizing v with
  | zero => rfl
  | succ n ih =>
    unfold leBytes
    refine congrArg₂ _ (BitVec.eq_of_toNat_eq ?_) ?_
    · rw [BitVec.toNat_ofNat, BitVec.toNat_ofNat]
      exact Nat.mod_mod_of_dvd v (Dvd.intro_left (256 ^ n) rfl)
    · rw [← ih (v / 256), Nat.pow_succ', Nat.mod_mul_right_div_self]

theorem bytes2_eq (n : Nat) : bytes2 n = leBytes 2 n := by
  unfold bytes2
  rw [bytesHalf_eq, BitVec.toNat_ofNat]
  exact leBytes_mod 2 n

theorem bytesBool_eq (b : Bool) : bytesBool b = leBytes 1 b.toNat := by cases b <;> rfl

theorem bytesIndex_eq (i : Option Nat) : bytesIndex i = leBytes 1 (i.getD 255) := by cases i <;> rfl

theorem unused_eq (n : Nat) : unused n = leBytes n 0 := (leBytes_eq_replicate n).symm

theorem bytesByte_eq (b : Byte) : [b] = leBytes 1 b.toNat := by
  unfold leBytes
  rw [BitVec.ofNat_toNat, BitVec.setWidth_eq]
  rfl

/-- A rectangle's fields (R193). -/
abbrev rectItems (r : Rect) : List (Nat × Option Nat) := [(2, some r.x), (2, some r.y), (2, some r.w), (2, some r.h)]

theorem packed_append (l k : List (Nat × Option Nat)) : packed (l ++ k) = packed l ++ packed k := by
  induction l with
  | nil => rfl
  | cons p l ih =>
    change leBytes p.1 _ ++ packed (l ++ k) = (leBytes p.1 _ ++ packed l) ++ packed k
    rw [ih, List.append_assoc]

theorem bytesRect_eq (r : Rect) : bytesRect r = packed (rectItems r) := by
  unfold bytesRect
  simp only [bytes2_eq, packed, List.append_assoc, List.append_nil, Option.getD_some]

end Sys2Proof.Machine
end

section
-- Many short proofs follow one another: taken one at a time they need one thread's memory, not one's for each.
set_option Elab.async false
/-! PROOF. O60: the records the part writes (R190, R193). -/

namespace Sys2Proof.Machine

/-! The encodings (R190). -/

theorem SourceState.code_eq (x : SourceState) : x.code = sourceStatesInOrder.idxOf x := by cases x <;> rfl

theorem SlotState.code_eq (x : SlotState) : x.code = slotStatesInOrder.idxOf x := by cases x <;> rfl

theorem RefusalReason.code_eq (x : RefusalReason) : x.code = refusalsInOrder.idxOf x := by cases x <;> rfl

theorem TakeOutcome.code_eq (x : TakeOutcome) : x.code = outcomesInOrder.idxOf x + 1 := by cases x <;> rfl

theorem Reason.code_eq (x : Reason) : x.code = reasonsInOrder.idxOf x := by cases x <;> rfl

theorem EventKind.code_eq (x : EventKind) : x.code = eventKindsInOrder.idxOf x + 1 := by cases x <;> rfl

theorem FilterAction.code_eq (x : FilterAction) : x.code = filterActionsInOrder.idxOf x := by cases x <;> rfl

theorem LossAction.code_eq (x : LossAction) : x.code = if x = .follow then 1 else 0 := by cases x <;> rfl

theorem RestoreMode.code_eq (x : RestoreMode) : x.code = if x = .manual then 1 else 0 := by cases x <;> rfl

theorem scanCode_eq (x : Scan) : scanCode x = if x = .interlaced then 1 else 0 := by cases x <;> rfl

theorem toNat_append_eq {m n : Nat} (x : BitVec m) (y : BitVec n) : (x ++ y).toNat = 2 ^ n * x.toNat + y.toNat := by
  rw [BitVec.toNat_append, ← Nat.shiftLeft_add_eq_or_of_lt y.isLt, Nat.shiftLeft_eq, Nat.mul_comm]

/-- The summary bits of a journal entry (R169, R193). -/
theorem Summary.bits_toNat (b : Summary) : (b.bits.setWidth 16).toNat = b.journalPending.toNat + 2 * b.urgentPending.toNat +
    4 * b.routinePending.toNat + 8 * b.slotsBusy.toNat + 16 * b.sourceTrouble.toNat + 32 * b.substituting.toNat +
    64 * b.timingUnlocked.toNat + 128 * b.notRun.toNat + 256 * b.causePending.toNat := by
  unfold Summary.bits
  rw [BitVec.toNat_setWidth_of_le (by decide)]
  simp only [toNat_append_eq, BitVec.toNat_ofBool]
  omega

/-- The part of a loss hold time that remains (R86). -/
def SourceRec.holdLeft (r : SourceRec) (now : Time) : Nat :=
  match r.holdEnd with
  | none => 0
  | some t => (t - now + 99999) / 100000

/-! Record by record (R193). -/

theorem ringHeaderBytes_has (r : Ring) : RecordHas (ringHeaderBytes r) 64 [(0, 2, r.capacity), (2, 2, r.fill),
    (4, 2, r.writeIndex), (6, 2, r.releaseIndex), (8, 2, r.watermark), (10, 1, r.gap), (11, 1, r.reserved)] := by
  refine .of_packed [(2, some r.capacity), (2, some r.fill), (2, some r.writeIndex), (2, some r.releaseIndex),
    (2, some r.watermark), (1, some r.gap), (1, some r.reserved), (52, none)] ?_ rfl (.of_eq rfl)
  simp only [ringHeaderBytes, bytes1_eq, bytes2_eq, unused_eq, packed, List.append_assoc, List.append_nil, Option.getD_some,
    Option.getD_none]

theorem journalEntryBytes_has (e : JournalEntry) (frame : Word) (b : Summary) : RecordHas (journalEntryBytes e frame b) 32
    [(0, 1, e.slot), (1, 1, outcomesInOrder.idxOf e.outcome + 1), (2, 1, reasonsInOrder.idxOf e.reason),
      (3, 1, e.failedEntry.getD 255), (4, 1, e.failedTile.getD 255), (5, 1, e.cancelLate.toNat), (6, 2, e.seq.toNat),
      (8, 4, e.driverTag.toNat), (12, 4, frame.toNat), (16, 2, b.journalPending.toNat + 2 * b.urgentPending.toNat +
        4 * b.routinePending.toNat + 8 * b.slotsBusy.toNat + 16 * b.sourceTrouble.toNat + 32 * b.substituting.toNat +
        64 * b.timingUnlocked.toNat + 128 * b.notRun.toNat + 256 * b.causePending.toNat)] := by
  rw [← b.bits_toNat, ← e.outcome.code_eq, ← e.reason.code_eq]
  refine .of_packed [(1, some e.slot), (1, some e.outcome.code), (1, some e.reason.code), (1, some (e.failedEntry.getD 255)),
    (1, some (e.failedTile.getD 255)), (1, some e.cancelLate.toNat), (2, some e.seq.toNat), (4, some e.driverTag.toNat),
    (4, some frame.toNat), (2, some (b.bits.setWidth 16).toNat), (14, none)] ?_ rfl (.of_eq rfl)
  simp only [journalEntryBytes, bytes1_eq, bytesIndex_eq, bytesBool_eq, bytesHalf_eq, bytesWord_eq, unused_eq, packed,
    List.append_assoc, List.append_nil, Option.getD_some, Option.getD_none]

theorem eventBytes_has (e : Event) (gap : Nat) (frame : Word) : RecordHas (eventBytes e gap frame) 16
    [(0, 1, eventKindsInOrder.idxOf e.kind + 1), (1, 1, e.index), (2, 1, e.oldState.toNat), (3, 1, e.newState.toNat), (4, 1, gap),
      (8, 4, e.detail.toNat), (12, 4, frame.toNat)] := by
  rw [← e.kind.code_eq]
  refine .of_packed [(1, some e.kind.code), (1, some e.index), (1, some e.oldState.toNat), (1, some e.newState.toNat),
    (1, some gap), (3, none), (4, some e.detail.toNat), (4, some frame.toNat)] ?_ rfl (.of_eq rfl)
  unfold eventBytes
  rw [bytesByte_eq e.oldState, bytesByte_eq e.newState]
  simp only [bytes1_eq, bytesWord_eq, unused_eq, packed, List.append_assoc, List.append_nil, Option.getD_some, Option.getD_none]

theorem slotHeaderBytes_has (frame : Word) (seq : Half) : RecordHas (slotHeaderBytes frame seq) 64
    [(0, 4, frame.toNat), (4, 2, seq.toNat)] := by
  refine .of_packed [(4, some frame.toNat), (2, some seq.toNat), (58, none)] ?_ rfl (.of_eq rfl)
  simp only [slotHeaderBytes, bytesHalf_eq, bytesWord_eq, unused_eq, packed, List.append_assoc, List.append_nil,
    Option.getD_some, Option.getD_none]

theorem slotRecordBytes_has (r : SlotRec) : RecordHas (slotRecordBytes r) 16 [(0, 1, slotStatesInOrder.idxOf r.state),
    (1, 1, refusalsInOrder.idxOf r.lastRefusal), (2, 1, r.cancelRequested.toNat), (4, 2, r.seq.toNat), (8, 4, r.due.toNat)] := by
  rw [← r.state.code_eq, ← r.lastRefusal.code_eq]
  refine .of_packed [(1, some r.state.code), (1, some r.lastRefusal.code), (1, some r.cancelRequested.toNat), (1, none),
    (2, some r.seq.toNat), (2, none), (4, some r.due.toNat), (4, none)] ?_ rfl (.of_eq rfl)
  simp only [slotRecordBytes, bytes1_eq, bytesBool_eq, bytesHalf_eq, bytesWord_eq, unused_eq, packed, List.append_assoc,
    List.append_nil, Option.getD_some, Option.getD_none]

/-- The fields of a window record before its rectangles (R193). -/
abbrev WindowRec.itemsBefore (w : WindowRec) : List (Nat × Option Nat) :=
  [(1, some w.visible.toNat), (1, some w.routed), (1, some w.shown), (1, some w.sub.code), (1, some w.rank),
    (1, some w.native.toNat), (1, some w.prot.toNat), (1, some (w.ctx.getD 255)), (1, some w.loss.code),
    (1, some w.restore.code), (1, some w.crop.isSome.toNat), (1, some w.expectedTag.isSome.toNat)]

/-- The fields of a window record behind its rectangles (R193). -/
abbrev WindowRec.itemsBehind (w : WindowRec) : List (Nat × Option Nat) :=
  [(4, some (w.expectedTag.getD 0).toNat), (4, some w.lastCommitFrame.toNat), (4, some w.lastTakeTag.toNat), (24, none)]

theorem windowRecordBytes_has (w : WindowRec) : RecordHas (windowRecordBytes w) 64 ([(0, 1, w.visible.toNat), (1, 1, w.routed),
    (2, 1, w.shown), (3, 1, subStatesInOrder.idxOf w.sub), (4, 1, w.rank), (5, 1, w.native.toNat), (6, 1, w.prot.toNat),
    (7, 1, w.ctx.getD 255), (8, 1, if w.loss = .follow then 1 else 0), (9, 1, if w.restore = .manual then 1 else 0),
    (10, 1, w.crop.isSome.toNat), (11, 1, w.expectedTag.isSome.toNat), (28, 4, (w.expectedTag.getD 0).toNat),
    (32, 4, w.lastCommitFrame.toNat), (36, 4, w.lastTakeTag.toNat)] ++ rectFields 12 w.rect ++
    rectFields 20 (w.crop.getD ⟨0, 0, 0, 0⟩)) := by
  rw [← w.sub.code_eq, ← w.loss.code_eq, ← w.restore.code_eq]
  refine .of_packed (w.itemsBefore ++ (rectItems w.rect ++ rectItems (w.crop.getD ⟨0, 0, 0, 0⟩) ++ w.itemsBehind)) ?_ rfl ?_
  · unfold windowRecordBytes
    simp only [bytes1_eq, bytesBool_eq, bytesIndex_eq, bytesWord_eq, bytesRect_eq, unused_eq, packed_append,
      packed, List.append_assoc, List.append_nil, Option.getD_some, Option.getD_none]
  · rw [List.append_assoc]
    exact List.Perm.append_left (fieldsAt 0 w.itemsBefore) (List.perm_append_comm (l₁ := fieldsAt 28 w.itemsBehind)
      (l₂ := rectFields 12 w.rect ++ rectFields 20 (w.crop.getD ⟨0, 0, 0, 0⟩)))

theorem fragmentBytes_has (f : Fragment) : RecordHas (fragmentBytes f) 32 ([(0, 1, f.window), (1, 1, f.shown), (2, 1, f.charge),
    (3, 1, f.ctx.getD 255)] ++ rectFields 4 f.clip ++ rectFields 12 f.src) := by
  refine .of_packed ([(1, some f.window), (1, some f.shown), (1, some f.charge), (1, some (f.ctx.getD 255))] ++
    (rectItems f.clip ++ (rectItems f.src ++ [(12, none)]))) ?_ rfl (.of_eq rfl)
  simp only [fragmentBytes, bytes1_eq, bytesIndex_eq, bytesRect_eq, unused_eq, packed_append, packed, List.append_assoc,
    List.append_nil, Option.getD_some, Option.getD_none]

theorem filterEntryBytes_has (f : FilterEntry) : RecordHas (filterEntryBytes f) 16 [(0, 1, f.enabled.toNat),
    (1, 1, filterActionsInOrder.idxOf f.action), (2, 1, f.low), (3, 1, f.high), (4, 2, f.kinds.toNat)] := by
  rw [← f.action.code_eq]
  refine .of_packed [(1, some f.enabled.toNat), (1, some f.action.code), (1, some f.low), (1, some f.high),
    (2, some f.kinds.toNat), (10, none)] ?_ rfl (.of_eq rfl)
  simp only [filterEntryBytes, bytes1_eq, bytes2_eq, bytesBool_eq, unused_eq, packed, List.append_assoc, List.append_nil,
    Option.getD_some, Option.getD_none]

theorem mirrorHeaderBytes_has (epoch : Word) (writing : Bool) : RecordHas (mirrorHeaderBytes epoch writing) 64
    [(0, 4, epoch.toNat), (4, 1, writing.toNat)] := by
  refine .of_packed [(4, some epoch.toNat), (1, some writing.toNat), (59, none)] ?_ rfl (.of_eq rfl)
  simp only [mirrorHeaderBytes, bytesBool_eq, bytesWord_eq, unused_eq, packed, List.append_assoc, List.append_nil,
    Option.getD_some, Option.getD_none]

theorem sourceHeaderBytes_has (change : Word) : RecordHas (sourceHeaderBytes change) 64 [(0, 4, change.toNat)] := by
  refine .of_packed [(4, some change.toNat), (60, none)] ?_ rfl (.of_eq rfl)
  simp only [sourceHeaderBytes, bytesWord_eq, unused_eq, packed, List.append_nil, Option.getD_some, Option.getD_none]

theorem bytesWord_ofNat (n : Nat) : bytesWord (BitVec.ofNat 32 n) = leBytes 4 n := by
  rw [bytesWord_eq, BitVec.toNat_ofNat]
  exact leBytes_mod 4 n

theorem sourceRecordBytes_has (writing : Bool) (r : SourceRec) (update : Half) (now : Time) :
    let f := r.qualified.getD ⟨0, 0, .progressive, none, 0⟩
    RecordHas (sourceRecordBytes writing r update now) 32 [(0, 1, writing.toNat), (1, 1, sourceStatesInOrder.idxOf r.state),
      (2, 2, update.toNat), (4, 1, r.settings.enabled.toNat), (5, 1, r.settings.declaredClass),
      (6, 1, r.settings.backup.getD 255), (7, 1, r.stable), (8, 2, r.settings.lossHold), (10, 2, r.holdLeft now),
      (12, 1, r.qualified.isSome.toNat), (13, 1, if f.scan = .interlaced then 1 else 0), (14, 1, r.measuredClass.getD 0),
      (15, 1, f.tag.isSome.toNat), (16, 2, f.width), (18, 2, f.height), (20, 4, f.rate), (24, 4, (f.tag.getD 0).toNat),
      (28, 2, r.lockCount), (30, 2, r.lossCount)] := by
  intro f
  rw [← r.state.code_eq, ← scanCode_eq f.scan]
  refine .of_packed [(1, some writing.toNat), (1, some r.state.code), (2, some update.toNat),
    (1, some r.settings.enabled.toNat), (1, some r.settings.declaredClass), (1, some (r.settings.backup.getD 255)),
    (1, some r.stable), (2, some r.settings.lossHold), (2, some (r.holdSteps now)), (1, some r.qualified.isSome.toNat),
    (1, some (scanCode f.scan)), (1, some (r.measuredClass.getD 0)), (1, some f.tag.isSome.toNat), (2, some f.width),
    (2, some f.height), (4, some f.rate), (4, some (f.tag.getD 0).toNat), (2, some r.lockCount), (2, some r.lossCount)]
    ?_ rfl (.of_eq rfl)
  unfold sourceRecordBytes
  dsimp only
  rw [bytesWord_ofNat]
  simp only [bytes1_eq, bytes2_eq, bytesBool_eq, bytesIndex_eq, bytesHalf_eq, bytesWord_eq, packed,
    List.append_assoc, List.append_nil, Option.getD_some, f]

theorem bytesWord_has (v : Word) : RecordHas (bytesWord v) 4 [(0, 4, v.toNat)] :=
  .of_packed [(4, some v.toNat)] (by rw [bytesWord_eq]; exact (List.append_nil _).symm) rfl (.of_eq rfl)

theorem bytesHalf_has (v : Half) : RecordHas (bytesHalf v) 2 [(0, 2, v.toNat)] :=
  .of_packed [(2, some v.toNat)] (by rw [bytesHalf_eq]; exact (List.append_nil _).symm) rfl (.of_eq rfl)

end Sys2Proof.Machine
end

section
-- Many short proofs follow one another: taken one at a time they need one thread's memory, not one's for each.
set_option Elab.async false
/-! PROOF. O60: tile blocks, the records the part reads, the check code and the events (R20, R40, R157, R190 to R193). -/

namespace Sys2Proof.Machine

/-! Tile blocks (R20, R193). -/

theorem fragmentBytes_length (f : Fragment) : (fragmentBytes f).length = 32 := (fragmentBytes_has f).size

theorem flatMap_fragmentBytes_length (p : List Fragment) : (p.flatMap fragmentBytes).length = 32 * p.length := by
  rw [List.length_flatMap, List.map_congr_left (fun f _ => fragmentBytes_length f), List.map_const', List.sum_replicate,
    smul_eq_mul, Nat.mul_comm]

theorem flatMap_fragmentBytes_at {p : List Fragment} {k : Nat} {f : Fragment} (h : p[k]? = some f) :
    ((p.flatMap fragmentBytes).drop (32 * k)).take 32 = fragmentBytes f := by
  induction p generalizing k with
  | nil => cases h
  | cons g p ih =>
    rw [List.flatMap_cons]
    cases k with
    | zero =>
      cases h
      exact List.take_left' (fragmentBytes_length f)
    | succ k =>
      rw [Nat.mul_succ, Nat.add_comm, ← List.drop_drop, List.drop_left' (fragmentBytes_length g)]
      exact ih h

/-- The first 16 bytes of a tile block (R193). -/
abbrev tileBlockHead (p : List Fragment) : List (Nat × Option Nat) := [(1, some p.length), (1, some (planCharge p)), (14, none)]

theorem tileBlockBytes_eq (p : List Fragment) :
    tileBlockBytes p = packed (tileBlockHead p) ++ (p.flatMap fragmentBytes ++ unused (32 * (8 - p.length))) := by
  simp only [tileBlockBytes, bytes1_eq, unused_eq, packed, List.append_assoc, List.nil_append, Option.getD_some,
    Option.getD_none]

theorem tileBlockBytes_has (p : List Fragment) (h : p.length ≤ 8) :
    (tileBlockBytes p).length = 272 ∧
    RecordHas ((tileBlockBytes p).take 16) 16 [(0, 1, p.length), (1, 1, (p.map (·.charge)).sum)] ∧
    (∀ k f, p[k]? = some f → ((tileBlockBytes p).drop (16 + 32 * k)).take 32 = fragmentBytes f) ∧
    ∀ i, 16 + 32 * p.length ≤ i → (tileBlockBytes p).getD i 0 = 0 := by
  have head : (packed (tileBlockHead p)).length = 16 := (Nat.zero_add _).symm.trans (packed_length _ 0)
  rw [tileBlockBytes_eq]
  refine ⟨?_, ?_, fun k f hf => ?_, fun i hi => ?_⟩
  · rw [List.length_append, List.length_append, flatMap_fragmentBytes_length, head, unused, List.length_replicate]
    omega
  · rw [List.take_left' head]
    exact .of_packed (tileBlockHead p) rfl rfl (.of_eq rfl)
  · have inside : k < p.length := (List.getElem?_eq_some_iff.1 hf).1
    rw [← List.drop_drop, List.drop_left' head, List.drop_append_of_le_length (by rw [flatMap_fragmentBytes_length]; omega),
      List.take_append_of_le_length (by rw [List.length_drop, flatMap_fragmentBytes_length]; omega)]
    exact flatMap_fragmentBytes_at hf
  · have size : (packed (tileBlockHead p) ++ p.flatMap fragmentBytes).length = 16 + 32 * p.length := by
      rw [List.length_append, flatMap_fragmentBytes_length, head]
    obtain ⟨j, rfl⟩ := Nat.exists_eq_add_of_le hi
    rw [← List.append_assoc, ← size, getD_append_right, unused_eq]
    exact leBytes_zero _ _

/-! Fields read (R190). -/

section reads

variable (m : Memory) (a off : Nat)

theorem leValue_one (f : Nat → Byte) (off : Nat) : leValue f off 1 = (f off).toNat := rfl

theorem Memory.half_toNat : (m.half (a + off)).toNat = leValue (fun i => m.read (a + i)) off 2 := by
  unfold Memory.half
  rw [toNat_append_eq, Nat.add_comm]
  rfl

theorem Memory.word_toNat : (m.word (a + off)).toNat = leValue (fun i => m.read (a + i)) off 4 := by
  unfold Memory.word
  rw [toNat_append_eq, Nat.add_assoc a off 2, m.half_toNat, m.half_toNat]
  simp only [leValue, Nat.add_assoc, Nat.reduceAdd]
  omega

theorem Memory.word_eq : m.word (a + off) = BitVec.ofNat 32 (leValue (fun i => m.read (a + i)) off 4) := by
  rw [← Memory.word_toNat, BitVec.ofNat_toNat, BitVec.setWidth_eq]

theorem Memory.half_eq : m.half (a + off) = BitVec.ofNat 16 (leValue (fun i => m.read (a + i)) off 2) := by
  rw [← Memory.half_toNat, BitVec.ofNat_toNat, BitVec.setWidth_eq]

theorem Memory.rect_eq : m.rect (a + off) =
    let v := fun off n => leValue (fun i => m.read (a + i)) off n
    ⟨v off 2, v (off + 2) 2, v (off + 4) 2, v (off + 6) 2⟩ := by
  unfold Memory.rect Memory.num2
  rw [Nat.add_assoc a off 2, Nat.add_assoc a off 4, Nat.add_assoc a off 6, m.half_toNat, m.half_toNat, m.half_toNat,
    m.half_toNat]

theorem Memory.rawFilter_eq : m.rawFilter a =
    let v := fun off n => leValue (fun i => m.read (a + i)) off n
    { enabled := (m.read (a + 0)).getLsbD 0, action := v 1 1, low := v 2 1, high := v 3 1, kinds := BitVec.ofNat 16 (v 4 2) } := by
  unfold Memory.rawFilter
  rw [m.half_eq a 4]
  rfl

theorem Memory.takeHeader_eq : m.takeHeader a =
    let v := fun off n => leValue (fun i => m.read (a + i)) off n
    let bit := fun off k => (m.read (a + off)).getLsbD k
    { driverTag := BitVec.ofNat 32 (v 0 4), urgent := decide (v 4 1 = 1), checked := bit 5 0, overrides := bit 5 1
      dueAt := bit 5 2, requireLocked := bit 5 3, deadline := v 6 1, count := v 7 1, dueFrame := BitVec.ofNat 32 (v 8 4)
      checkCode := BitVec.ofNat 16 (v 12 2) } := by
  unfold Memory.takeHeader
  rw [← Nat.add_zero a, m.word_eq a 0, Nat.add_zero, m.word_eq a 8, m.half_eq a 12]
  rfl

theorem Memory.entry_eq : m.entry a =
    let v := fun off n => leValue (fun i => m.read (a + i)) off n
    let bit := fun off k => (m.read (a + off)).getLsbD k
    let rect := fun off => (⟨v off 2, v (off + 2) 2, v (off + 4) 2, v (off + 6) 2⟩ : Rect)
    { kind := v 0 1, window := v 1 1, source := v 2 1, rank := v 3 1, native := bit 4 0, prot := bit 4 1, cropPresent := bit 4 2
      tagPresent := bit 4 3, follow := bit 4 4, manual := bit 4 5, rect := rect 8, crop := rect 16
      tag := BitVec.ofNat 32 (v 24 4), filter := Memory.rawFilter m (a + 8) } := by
  unfold Memory.entry
  rw [m.rect_eq a 8, m.rect_eq a 16, m.word_eq a 24]
  rfl

theorem Memory.checkCode_eq (n : Nat) : m.checkCode a n = crc ((List.range (32 + 32 * n)).map
    (fun i => if i = 12 ∨ i = 13 then 0 else m.read (a + i))) := by
  have cut : 32 + 32 * n = 12 + (2 + (18 + 32 * n)) := by omega
  unfold Memory.checkCode Memory.bytes
  rw [cut, List.range_add (n := 12), List.range_add (n := 2), List.map_append, List.map_append, List.map_append, List.map_map,
    List.map_map, List.map_map, List.append_assoc]
  refine congrArg crc (congrArg₂ _ (List.map_congr_left fun i hi => ?_) (congrArg₂ _ rfl (List.map_congr_left fun i _ => ?_)))
  · have small := List.mem_range.1 hi
    rw [if_neg (by omega)]
  · have large : ¬ (12 + (2 + i) = 12 ∨ 12 + (2 + i) = 13) := by omega
    simp only [Function.comp_apply]
    rw [if_neg large, ← Nat.add_assoc, ← Nat.add_assoc, Nat.add_assoc a 12 2, Nat.add_assoc a 14 i]

end reads

/-! The configuration image (R191). -/

section image

variable (m : Memory) (off : Nat)

theorem Memory.num2_eq : m.num2 off = leValue m.read off 2 := by
  rw [Memory.num2, ← Nat.zero_add off, m.half_toNat]
  simp only [Nat.zero_add]

theorem Memory.num4_eq : m.num4 off = leValue m.read off 4 := by
  rw [Memory.num4, ← Nat.zero_add off, m.word_toNat]
  simp only [Nat.zero_add]

theorem Memory.sectionMap_eq : m.sectionMap =
    (List.range 10).map (fun n => (⟨leValue m.read (0x040 + 8 * n) 4, leValue m.read (0x044 + 8 * n) 4⟩ : Section)) := by
  unfold Memory.sectionMap
  simp only [Memory.num4_eq]

theorem Memory.configImage_eq : m.configImage =
    let v := fun off n => leValue m.read off n
    let bit := fun off k => (m.read off).getLsbD k
    let ring := fun off => (⟨v off 2, v (off + 2) 2⟩ : RingParams)
    let map := (List.range 10).map (fun n => (⟨v (0x040 + 8 * n) 4, v (0x044 + 8 * n) 4⟩ : Section))
    let record := (sectionOf map 1).start
    let count := v record 2
    { cols := v 0x000 1, rows := v 0x001 1, lead := v 0x002 2, rate := v 0x004 4, journal := ring 0x008, urgent := ring 0x00C
      routine := ring 0x010, supervision := v 0x014 2, requireChecked := bit 0x016 0, startSelector := v 0x017 1
      defaultAction := v 0x018 1, map := map
      filters := (List.range 16).map (fun i => Memory.rawFilter m (0x100 + 16 * i))
      settings := (List.range 40).map (fun i => let a := 0x200 + 16 * i
        ⟨bit a 0, v (a + 1) 1, v (a + 2) 1, v (a + 4) 2⟩)
      fallbackCount := count
      fallbackEntries := if 1 ≤ count ∧ count ≤ 64 then Memory.entries m record count else [] } := by
  unfold Memory.configImage Memory.ringParams Memory.rawSettings Memory.bit Memory.num1
  simp only [Memory.num2_eq, Memory.num4_eq, Memory.sectionMap_eq, leValue_one]

end image

theorem entryKind_eq (n : Nat) : entryKind n = if 1 ≤ n then entryKindsInOrder[n - 1]? else none := by
  by_cases listed : n < 10
  · decide +revert
  · have beyond : entryKindsInOrder[n - 1]? = none := List.getElem?_eq_none (by change 9 ≤ n - 1; omega)
    rw [beyond, ite_self]
    obtain ⟨k, rfl⟩ := Nat.exists_eq_add_of_le' (Nat.not_lt.1 listed)
    rfl

theorem entryKind_iff (n : Nat) (k : EntryKind) : entryKind n = some k ↔ 1 ≤ n ∧ entryKindsInOrder[n - 1]? = some k := by
  rw [entryKind_eq]
  by_cases h : 1 ≤ n
  · rw [if_pos h, and_iff_right h]
  · rw [if_neg h]
    exact ⟨nofun, fun k => absurd k.1 h⟩

/-! The check code (R40). -/

theorem crcStep_eq (r : Half) : crcStep r = if r.getLsbD 15 then (r <<< 1) ^^^ 0x1021#16 else r <<< 1 := rfl

theorem crc_append (bs : List Byte) (b : Byte) :
    crc (bs ++ [b]) = (List.range 8).foldl (fun r _ => crcStep r) (crc bs ^^^ (b.setWidth 16 <<< 8)) := by
  have upper : (b ++ 0#8 : Half) = b.setWidth 16 <<< 8 := by
    refine BitVec.eq_of_toNat_eq ?_
    rw [toNat_append_eq, BitVec.toNat_shiftLeft, BitVec.toNat_setWidth, Nat.shiftLeft_eq]
    have small := b.isLt
    simp only [BitVec.toNat_ofNat]
    omega
  rw [← upper]
  unfold crc
  rw [List.foldl_append]
  rfl

/-! Events (R157, R193). -/

theorem Mode.code_eq (x : Mode) : x.code = modesInOrder.idxOf x := by cases x <;> rfl

theorem Trigger.code_eq (x : Trigger) : x.code = triggersInOrder.idxOf x + 1 := by cases x <;> rfl

theorem RefState.code_eq (x : RefState) : x.code = refStatesInOrder.idxOf x := by cases x <;> rfl

theorem modeEvent_eq (old new : Mode) (t : Trigger) : modeEvent old new t = {
    kind := .mode, index := 0, oldState := BitVec.ofNat 8 (modesInOrder.idxOf old)
    newState := BitVec.ofNat 8 (modesInOrder.idxOf new), detail := BitVec.ofNat 32 (triggersInOrder.idxOf t + 1)
    frame := none } := by
  rw [← old.code_eq, ← new.code_eq, ← t.code_eq]
  rfl

theorem supervisionEvent_eq (old : Mode) (interval : Nat) : supervisionEvent old interval = {
    kind := .supervision, index := 0, oldState := BitVec.ofNat 8 (modesInOrder.idxOf old)
    newState := BitVec.ofNat 8 (modesInOrder.idxOf .fallback), detail := BitVec.ofNat 32 interval, frame := none } := by
  rw [← old.code_eq, ← Mode.code_eq]
  rfl

theorem timingEvent_eq (old new : RefState) (amount : Nat) (realigned shortened activation : Bool) :
    timingEvent old new amount realigned shortened activation = {
      kind := .timing, index := 0, oldState := BitVec.ofNat 8 (refStatesInOrder.idxOf old)
      newState := BitVec.ofNat 8 (refStatesInOrder.idxOf new)
      detail := BitVec.ofNat 32
        (amount % 2 ^ 16 + 2 ^ 16 * realigned.toNat + 2 ^ 17 * shortened.toNat + 2 ^ 18 * activation.toNat)
      frame := none } := by
  have detail : 0#13 ++ BitVec.ofBool activation ++ BitVec.ofBool shortened ++ BitVec.ofBool realigned ++
      BitVec.ofNat 16 amount = BitVec.ofNat 32
        (amount % 2 ^ 16 + 2 ^ 16 * realigned.toNat + 2 ^ 17 * shortened.toNat + 2 ^ 18 * activation.toNat) := by
    refine BitVec.eq_of_toNat_eq ?_
    simp only [toNat_append_eq, BitVec.toNat_ofBool, BitVec.toNat_ofNat]
    have := realigned.toNat_le
    have := shortened.toNat_le
    have := activation.toNat_le
    omega
  rw [← old.code_eq, ← new.code_eq, ← detail]
  rfl

theorem sourceEvent_eq (i : Nat) (old new : SourceState) (cls : Option Nat) (glitch activation : Bool) :
    sourceEvent i old new cls glitch activation = {
      kind := .source, index := i, oldState := BitVec.ofNat 8 (sourceStatesInOrder.idxOf old)
      newState := BitVec.ofNat 8 (sourceStatesInOrder.idxOf new)
      detail := BitVec.ofNat 32 (cls.getD 0 % 2 ^ 4 + 2 ^ 8 * glitch.toNat + 2 ^ 9 * activation.toNat), frame := none } := by
  have detail : 0#22 ++ BitVec.ofBool activation ++ BitVec.ofBool glitch ++ 0#4 ++ BitVec.ofNat 4 (cls.getD 0) =
      BitVec.ofNat 32 (cls.getD 0 % 2 ^ 4 + 2 ^ 8 * glitch.toNat + 2 ^ 9 * activation.toNat) := by
    refine BitVec.eq_of_toNat_eq ?_
    simp only [toNat_append_eq, BitVec.toNat_ofBool, BitVec.toNat_ofNat]
    have := glitch.toNat_le
    have := activation.toNat_le
    omega
  rw [← old.code_eq, ← new.code_eq, ← detail]
  rfl

theorem formatEvent_eq (i : Nat) (size rate scan tag : Bool) : formatEvent i size rate scan tag = {
    kind := .format, index := i, oldState := BitVec.ofNat 8 (sourceStatesInOrder.idxOf .locked)
    newState := BitVec.ofNat 8 (sourceStatesInOrder.idxOf .acquiring)
    detail := BitVec.ofNat 32 (size.toNat + 2 * rate.toNat + 4 * scan.toNat + 8 * tag.toNat), frame := none } := by
  have detail : 0#28 ++ BitVec.ofBool tag ++ BitVec.ofBool scan ++ BitVec.ofBool rate ++ BitVec.ofBool size =
      BitVec.ofNat 32 (size.toNat + 2 * rate.toNat + 4 * scan.toNat + 8 * tag.toNat) := by
    decide +revert
  rw [← SourceState.code_eq, ← SourceState.code_eq, ← detail]
  rfl

/-- Settles O60: each record is a list of packed fields, each read one a list of little-endian values. -/
theorem recordsFollowTheirLayouts : Obligations.RecordsFollowTheirLayouts := by
  refine ⟨⟨bytesWord_has, bytesHalf_has⟩, ringHeaderBytes_has, journalEntryBytes_has, eventBytes_has, slotHeaderBytes_has,
    slotRecordBytes_has, windowRecordBytes_has, fragmentBytes_has, tileBlockBytes_has, filterEntryBytes_has,
    mirrorHeaderBytes_has, sourceHeaderBytes_has, sourceRecordBytes_has, fun l tiles => ⟨rfl, rfl, rfl⟩,
    fun m a => ⟨m.takeHeader_eq a, m.rawFilter_eq a, m.entry_eq a, fun n => ⟨rfl, m.checkCode_eq a n⟩⟩,
    Memory.configImage_eq, entryKind_iff, ⟨rfl, crc_append⟩, ⟨by decide +kernel, by decide +kernel⟩, modeEvent_eq,
    supervisionEvent_eq, fun _ _ => rfl, timingEvent_eq, sourceEvent_eq, formatEvent_eq⟩

end Sys2Proof.Machine
end

section
-- Many short proofs follow one another: taken one at a time they need one thread's memory, not one's for each.
set_option Elab.async false
/-! PROOF. O12: what completing a POST leaves of the exchange port and of the event rings, with the link down (R46, R149, R188). -/

namespace Sys2Proof.Machine

variable {s t u : State}

/-- From `s` the exchange port has changed only its legacy line, and the event rings are as they were. -/
structure LinkDown (s t : State) : Prop where
  waiting : t.port.waiting = []
  link : t.port.linkUp = false
  port : t.port = { s.port with line := t.port.line }
  events : t.report.eventPart = s.report.eventPart

/-- The parts a frame names are none of the exchange port's. -/
def portlessFrame (l : List Part) : Bool :=
  l.all (fun p => match p with
    | .link | .holdArea | .waiting | .blocks | .completion | .interrupt => false
    | _ => true)

theorem OnlyChanges.port_same {l : List Part} (h : OnlyChanges l s t) (hl : portlessFrame l = true) : t.port = s.port := by
  have outside {p : Part} (hp : portlessFrame [p] = false) : p ∉ l := fun m => by
    unfold portlessFrame at hl hp
    rw [List.all_eq_true] at hl
    rw [List.all_cons, hl p m] at hp
    cases hp
  have parts := h.port_eq (outside rfl) (outside rfl) (outside rfl) (outside rfl)
  rw [h.holdArea_eq (outside rfl), h.completion_eq (outside rfl)] at parts
  exact parts

namespace LinkDown

theorem refl (waiting : s.port.waiting = []) (link : s.port.linkUp = false) : LinkDown s s := ⟨waiting, link, rfl, rfl⟩

/-- Outside the port and the event rings. -/
theorem frame {l : List Part} (h : LinkDown s t) (k : OnlyChanges l t u) (events : u.report.eventPart = t.report.eventPart)
    (hl : portlessFrame l = true := by rfl) : LinkDown s u := by
  have port := k.port_same hl
  exact ⟨by rw [port]; exact h.waiting, by rw [port]; exact h.link, by rw [port]; exact h.port, events.trans h.events⟩

theorem raise (h : LinkDown s t) (c : Cause) : LinkDown s (t.raise c) := by
  have port : (t.raise c).port = { t.port with line := (t.raise c).port.line } := by
    unfold State.raise State.setCauses State.evaluate
    simp [h.link]
  refine ⟨by rw [port]; exact h.waiting, by rw [port]; exact h.link, ?_, (t.raise_only c).eventPart_eq.trans h.events⟩
  rw [port, h.port]

theorem raiseIf (h : LinkDown s t) (b : Bool) (c : Cause) : LinkDown s (t.raiseIf b c) := by
  cases b
  · exact h
  · exact h.raise c

/-! A controller master's grants: no access takes a turn (R184). -/

theorem portTurn (h : LinkDown s t) : LinkDown s t.portTurn := by
  have asks : t.portAsks = false := by
    unfold State.portAsks
    rw [h.waiting]
    rfl
  rw [State.portTurn_quiet asks]
  exact h

theorem ctlRead (h : LinkDown s t) : LinkDown s t.ctlRead := h.portTurn.frame (State.setLastServed_only _ _) rfl

theorem ctlWrite (h : LinkDown s t) (a : Nat) (bs : List Byte) : LinkDown s (t.ctlWrite a bs) :=
  h.portTurn.frame (State.putBlock_only _ a bs) rfl

theorem ctlWrites (h : LinkDown s t) (l : Blocks) : LinkDown s (t.ctlWrites l) := by
  induction l generalizing t with
  | nil => exact h
  | cons b l ih => exact ih (h.ctlWrite b.1 b.2)

/-! The take engine (R37 to R43). -/

theorem setSlot (h : LinkDown s t) (i : Nat) (r : SlotRec) : LinkDown s (t.setSlot i r) :=
  h.frame (t.setSlot_only i r) (t.setSlot_only i r).eventPart_eq

theorem modTakes (h : LinkDown s t) (f : TakeEngine → TakeEngine) : LinkDown s (t.modTakes f) :=
  h.frame (t.modTakes_only f) rfl

theorem handEntry (h : LinkDown s t) (e : JournalEntry) : LinkDown s (t.handEntry e) := h.frame (t.handEntry_only e) rfl

theorem acceptPost (h : LinkDown s t) (i : Nat) : LinkDown s (t.acceptPost i) :=
  ((h.setSlot i { t.slot i with lastRefusal := .none }).frame (State.reserve_only _) rfl).modTakes (fun te => { te with
    checking := some i, behindBuild := (t.recordRefusal i .none).reserve.buildReading })

theorem handlePosts (h : LinkDown s t) (l : List Nat) : LinkDown s (t.handlePosts l) := by
  induction l generalizing t with
  | nil => exact h.modTakes _
  | cons i l ih =>
    unfold State.handlePosts
    split
    · exact ih ((h.setSlot i _).raise _)
    · exact (h.acceptPost i).modTakes _

theorem recordPost (h : LinkDown s t) (i : Nat) (header : TakeHeader) : LinkDown s (t.recordPost i header) :=
  h.frame (t.recordPost_only i header) (t.recordPost_only i header).eventPart_eq

theorem finishChecks (h : LinkDown s t) (i : Nat) : LinkDown s (t.finishChecks i) := by
  unfold State.finishChecks State.andThen
  dsimp only
  split
  · exact h.ctlRead.handEntry _
  · split
    · exact h.ctlRead.recordPost _ _
    · exact (h.ctlRead.recordPost _ _).handEntry _

theorem continuePosts (h : LinkDown s t) : LinkDown s t.continuePosts := by
  unfold State.continuePosts State.andThen
  split
  · exact h
  · dsimp only
    split
    · exact h.finishChecks _
    · exact ((h.finishChecks _).modTakes _).handlePosts _

/-! The ring writer's work for the journal (R149, R151 to R154). -/

theorem setJournal (h : LinkDown s t) (r : Ring) : LinkDown s (t.setReport (t.report.setRing .journal r)) :=
  h.frame (t.setReport_ring .journal r) rfl

theorem doRingJob (h : LinkDown s t) (j : RingJob) : LinkDown s (t.doRingJob j) :=
  (h.portTurn.ctlWrites _).frame (State.setRingJob_only _ _) rfl

theorem writeRingHeader (h : LinkDown s t) : LinkDown s (t.writeRingHeader .journal) := by
  unfold State.writeRingHeader
  split
  · exact h.ctlWrite _ _
  · exact h

theorem flushRing (h : LinkDown s t) : LinkDown s (t.flushRing .journal) := by
  unfold State.flushRing State.andThen
  dsimp only
  split_ifs
  · exact ((h.doRingJob _).setJournal _).writeRingHeader
  · exact (h.setJournal _).writeRingHeader
  · exact h

theorem entryCounted (h : LinkDown s t) (q : List JournalEntry) : LinkDown s (t.entryCounted q) := by
  have queued := (h.flushRing.doRingJob (.entry .journal)).frame
    (State.modReport_rings _ (fun re => { re with journalQueue := q }) rfl) rfl
  exact ((queued.setJournal _).writeRingHeader).raiseIf _ _

theorem endTake (h : LinkDown s t) (i : Nat) : LinkDown s (t.endTake i) := by
  unfold State.endTake
  split
  · exact (h.modTakes _).handlePosts _
  · exact h.setSlot _ _

theorem writeJournalEntry (h : LinkDown s t) : LinkDown s t.writeJournalEntry := by
  cases queue : t.report.journalQueue with
  | nil => rw [State.writeJournalEntry_nil queue]; exact h
  | cons e q => rw [State.writeJournalEntry_cons queue]; exact (h.entryCounted q).endTake _

theorem journalDone (h : LinkDown s t) : LinkDown s t.journalDone := by
  unfold State.journalDone
  generalize t.report.journalQueue.length = n
  induction n generalizing t with
  | zero => exact h
  | succ n ih => exact ih h.writeJournalEntry

theorem completePosts (h : LinkDown s t) (n : Nat) : LinkDown s (t.completePosts n) := by
  induction n generalizing t with
  | zero => exact h
  | succ n ih =>
    unfold State.completePosts
    split
    · exact h
    · split
      · exact ih h.journalDone
      · exact ih h.continuePosts

end LinkDown

/-! A POST is completed within twice as many steps as it has slots (R37). -/

/-- How many slots of a POST are left: the one in hand and those still named. -/
def State.slotsLeft (s : State) : Nat := (if s.takes.checking = none then 0 else 1) + s.takes.toHandle.length

/-- Slots are named only while one is in hand. -/
abbrev State.postInHand (s : State) : Prop := s.takes.checking = none → s.takes.toHandle = []

theorem State.slotsLeft_of_some {i : Nat} (h : s.takes.checking = some i) : s.slotsLeft = 1 + s.takes.toHandle.length := by
  unfold State.slotsLeft
  rw [h]
  rfl

theorem State.slotsLeft_congr (checking : t.takes.checking = s.takes.checking) (toHandle : t.takes.toHandle = s.takes.toHandle) :
    t.slotsLeft = s.slotsLeft := by
  unfold State.slotsLeft
  rw [checking, toHandle]

theorem State.slotsLeft_zero (h : s.slotsLeft = 0) : s.takes.checking = none ∧ s.takes.toHandle = [] := by
  unfold State.slotsLeft at h
  cases hc : s.takes.checking with
  | none =>
    rw [hc, if_pos rfl, Nat.zero_add] at h
    exact ⟨rfl, List.length_eq_zero_iff.1 h⟩
  | some i =>
    rw [hc, if_neg nofun] at h
    omega

theorem State.handlePosts_left (s : State) (l : List Nat) (none : s.takes.checking = none) :
    (s.handlePosts l).postInHand ∧ (s.handlePosts l).slotsLeft ≤ l.length := by
  induction l generalizing s with
  | nil =>
    refine ⟨fun _ => rfl, ?_⟩
    unfold State.slotsLeft
    rw [if_pos (show (s.handlePosts []).takes.checking = Option.none from none)]
    exact Nat.le_refl _
  | cons i l ih =>
    unfold State.handlePosts
    split
    · next r _ =>
      obtain ⟨inHand, left⟩ := ih (s.refuse i r)
        ((congrArg TakeEngine.checking (State.raise_only _ _).takes_eq).trans ((State.setSlot_checking ..).trans none))
      exact ⟨inHand, Nat.le_succ_of_le left⟩
    · refine ⟨nofun, ?_⟩
      rw [State.slotsLeft_of_some (i := i) rfl]
      exact (Nat.add_comm 1 l.length).le

theorem State.finishChecks_engine (s : State) (i : Nat) :
    (s.finishChecks i).takes.checking = s.takes.checking ∧ (s.finishChecks i).takes.toHandle = s.takes.toHandle := by
  have read := s.ctlRead_only.takes_eq
  have recorded (h : TakeHeader) : (s.ctlRead.recordPost i h).takes.checking = s.takes.checking ∧
      (s.ctlRead.recordPost i h).takes.toHandle = s.takes.toHandle := by
    rw [(s.ctlRead.recordPost_engine i h).1, (s.ctlRead.recordPost_engine i h).2, read]
    exact ⟨rfl, rfl⟩
  unfold State.finishChecks State.andThen
  dsimp only
  split
  · rw [(State.rejectPost_only _ _ _ _).takes_eq, read]
    exact ⟨rfl, rfl⟩
  · split
    · exact recorded _
    · rw [(State.finishTake_only _ _ _ _ _).takes_eq]
      exact recorded _

/-- The take engine goes on, the slot in hand being handled or its take finished (R37, R152). -/
theorem State.continuePosts_left {i : Nat} (hand : s.takes.checking = some i) : s.continuePosts.postInHand ∧
    ((s.continuePosts.takes.checking = some i ∧ s.continuePosts.finished i = true ∧ s.continuePosts.slotsLeft = s.slotsLeft) ∨
      s.continuePosts.slotsLeft < s.slotsLeft) := by
  obtain ⟨checking, toHandle⟩ := s.finishChecks_engine i
  rw [State.continuePosts_eq hand]
  split
  · next finished =>
    refine ⟨fun none => ?_, .inl ⟨checking.trans hand, finished, State.slotsLeft_congr checking toHandle⟩⟩
    rw [checking, hand] at none
    cases none
  · obtain ⟨inHand, left⟩ := State.handlePosts_left ((s.finishChecks i).modTakes (fun te => { te with checking := none }))
      s.takes.toHandle rfl
    refine ⟨inHand, .inr ?_⟩
    rw [State.slotsLeft_of_some hand]
    omega

/-- The entry that is written first ends the slot in hand, or leaves the POST as it is (R43, R152). -/
theorem State.writeJournalEntry_left {e : JournalEntry} {q : List JournalEntry} (queue : s.report.journalQueue = e :: q) :
    if s.takes.checking = some e.slot then s.writeJournalEntry.postInHand ∧ s.writeJournalEntry.slotsLeft < s.slotsLeft
    else s.writeJournalEntry.takes.checking = s.takes.checking ∧ s.writeJournalEntry.takes.toHandle = s.takes.toHandle := by
  have takes : (s.entryCounted q).takes = s.takes := (s.entryCounted_only q).takes_eq
  rw [State.writeJournalEntry_cons queue]
  split
  · next hand =>
    rw [State.endTake_of_checking (by rw [takes]; exact hand), takes, State.slotsLeft_of_some hand]
    obtain ⟨inHand, left⟩ := State.handlePosts_left ((s.entryCounted q).modTakes (fun te => { te with checking := none }))
      s.takes.toHandle rfl
    exact ⟨inHand, by omega⟩
  · next other =>
    rw [State.endTake_of_ne (by rw [takes]; exact other), State.setSlot_checking, takes]
    refine ⟨rfl, ?_⟩
    rw [State.setSlot_takes, takes]

theorem State.writeJournalEntry_keepsPost (inHand : s.postInHand) :
    s.writeJournalEntry.postInHand ∧ s.writeJournalEntry.slotsLeft ≤ s.slotsLeft := by
  cases queue : s.report.journalQueue with
  | nil => rw [State.writeJournalEntry_nil queue]; exact ⟨inHand, Nat.le_refl _⟩
  | cons e q =>
    have left := State.writeJournalEntry_left queue
    split at left
    · exact ⟨left.1, left.2.le⟩
    · obtain ⟨checking, toHandle⟩ := left
      refine ⟨?_, (State.slotsLeft_congr checking toHandle).le⟩
      unfold State.postInHand
      rw [checking, toHandle]
      exact inHand

theorem State.writeEntries_keepsPost (inHand : s.postInHand) (n : Nat) :
    (s.writeEntries .journal n).postInHand ∧ (s.writeEntries .journal n).slotsLeft ≤ s.slotsLeft := by
  induction n generalizing s with
  | zero => exact ⟨inHand, Nat.le_refl _⟩
  | succ n ih =>
    obtain ⟨kept, less⟩ := State.writeJournalEntry_keepsPost inHand
    obtain ⟨keeps, left⟩ := ih (s := s.writeJournalEntry) kept
    exact ⟨keeps, left.trans less⟩

/-- Where the take in hand has finished, it ends with the entries that wait (R152). -/
theorem State.journalDone_left {i : Nat} (hand : s.takes.checking = some i) (finished : s.finished i = true) :
    s.journalDone.postInHand ∧ s.journalDone.slotsLeft < s.slotsLeft := by
  unfold State.journalDone
  generalize queue : s.report.journalQueue = l
  induction l generalizing s with
  | nil =>
    unfold State.finished at finished
    rw [queue] at finished
    cases finished
  | cons e q ih =>
    change (s.writeJournalEntry.writeEntries .journal q.length).postInHand ∧ _ < _
    have left := State.writeJournalEntry_left queue
    by_cases ends : e.slot = i
    · rw [ends, if_pos hand] at left
      obtain ⟨keeps, rest⟩ := State.writeEntries_keepsPost left.1 q.length
      exact ⟨keeps, rest.trans_lt left.2⟩
    · rw [if_neg (by rw [hand]; exact fun h => ends (Option.some.inj h).symm)] at left
      obtain ⟨checking, toHandle⟩ := left
      have next : s.writeJournalEntry.report.journalQueue = q := by rw [s.writeJournalEntry_queue, queue, List.tail_cons]
      rw [← State.slotsLeft_congr checking toHandle]
      refine ih (checking.trans hand) ?_ next
      unfold State.finished at finished ⊢
      rw [queue, List.any_cons, beq_eq_false_iff_ne.2 ends, Bool.false_or] at finished
      rw [next]
      exact finished

theorem State.completePosts_next {i : Nat} (hand : s.takes.checking = some i) (n : Nat) :
    s.completePosts (n + 1) = (if s.finished i then s.journalDone else s.continuePosts).completePosts n := by
  rw [State.completePosts, hand]

/-- A POST is completed: each slot takes one step for its checks and one for its entry (R37, R152). -/
theorem State.completePosts_done (n : Nat) (inHand : s.postInHand)
    (enough : 2 * s.slotsLeft ≤ n + if s.takes.checking.any s.finished then 1 else 0) : (s.completePosts n).slotsLeft = 0 := by
  induction n generalizing s with
  | zero =>
    change s.slotsLeft = 0
    split at enough <;> omega
  | succ n ih =>
    cases hand : s.takes.checking with
    | none =>
      rw [State.completePosts_idle _ s hand]
      unfold State.slotsLeft
      rw [hand, inHand hand]
      rfl
    | some i =>
      rw [State.completePosts_next hand]
      rw [hand, Option.any_some] at enough
      cases finished : s.finished i with
      | true =>
        rw [finished, if_pos rfl] at enough
        rw [if_pos rfl]
        obtain ⟨kept, less⟩ := State.journalDone_left hand finished
        exact ih kept (by omega)
      | false =>
        rw [finished, if_neg Bool.false_ne_true] at enough
        rw [if_neg Bool.false_ne_true]
        obtain ⟨kept, ⟨checking, ends, left⟩ | less⟩ := State.continuePosts_left hand
        · refine ih kept ?_
          rw [checking, Option.any_some, ends, if_pos rfl, left]
          exact enough
        · exact ih kept (by omega)

end Sys2Proof.Machine
end

section
-- Many short proofs follow one another: taken one at a time they need one thread's memory, not one's for each.
set_option Elab.async false
/-! PROOF. O12: LINK_RESET (R46, R73, R147, R165, R175, R188). -/

namespace Sys2Proof.Machine

variable {s t u : State}

/-! A build that starts anew (R52, R53, R73). -/

theorem State.newBuild_congr (sources : t.sources = s.sources) (captured : t.modes.captured = s.modes.captured)
    (live : t.composer.live = s.composer.live) (target : Word) (attempt : Nat) (edits : List Edit) (takes : List Nat) :
    t.newBuild target attempt edits takes = s.newBuild target attempt edits takes := by
  unfold State.newBuild
  rw [live, State.resolveEdits_congr sources captured]

theorem State.restartBuild_eq (s : State) : s.restartBuild.composer = { s.composer with
    build := s.composer.build.map (fun b => s.newBuild b.target (b.attempt + 1) (b.edits.map (·.1)) []) } := by
  unfold State.restartBuild
  cases build : s.composer.build with
  | none =>
    dsimp only [Option.map]
    rw [← build]
  | some b => rfl

/-! The parts of a link reset. -/

/-- The port has acted (R188). -/
def State.linkDropped (s : State) : State := s.setPort s.port.linkReset

/-- The POST in hand is completed (R37, R46). -/
def State.postsCompleted (s : State) : State := s.linkDropped.completePosts (2 * (s.takes.toHandle.length + 1))

/-- The flags, the enables and the two stored fields are cleared (R147, R175). -/
def State.flagsDropped (m : State) : State := (m.modModes (fun mo => { mo with permit := false, intEnable := false })).clearInterrupt

/-- Every busy take finishes ABANDONED (R46). -/
def State.busyAbandoned (v : State) : State := v.abandonTakes v.busySlots

theorem State.linkReset_parts (s : State) : s.linkReset = s.postsCompleted.flagsDropped.busyAbandoned.restartBuild :=
  s.linkReset_eq

theorem State.postsCompleted_down (s : State) : LinkDown s.linkDropped s.postsCompleted :=
  (LinkDown.refl rfl rfl).completePosts _

theorem State.postsCompleted_only (s : State) : OnlyChanges [.ram, .lastServed, .waiting, .blocks, .completion, .interrupt, .takes,
    .rings, .causes, .status] s.linkDropped s.postsCompleted := State.completePosts_only _ _

theorem State.flagsDropped_only (m : State) : OnlyChanges [.modes, .interrupt, .causes] m m.flagsDropped :=
  ((m.modModes_only _).mono (by decide)).next (State.clearInterrupt_only _) (by decide)

/-- The entries of the busy takes, in ascending slot order (R46). -/
theorem State.busyAbandoned_eq (v : State) : v.busyAbandoned = v.handAll
    (((List.range v.takes.slots.length).filter (fun i => decide ((v.slot i).state ≠ .idle) && !v.finished i)).map
      (fun i => v.entryOf i (plainOutcome .abandoned) (v.slot i).cancelRequested none)) := by
  unfold State.busyAbandoned
  rw [v.abandonTakes_eq, State.busySlots, State.slotsOf_eq]

/-- Clearing the flags leaves the busy takes as they are. -/
theorem State.flagsDropped_entries (m : State) (l : List Nat) :
    (l.filter (fun i => decide ((m.flagsDropped.slot i).state ≠ .idle) && !m.flagsDropped.finished i)).map
      (fun i => m.flagsDropped.entryOf i (plainOutcome .abandoned) (m.flagsDropped.slot i).cancelRequested none) =
    (l.filter (fun i => decide ((m.slot i).state ≠ .idle) && !m.finished i)).map
      (fun i => m.entryOf i (plainOutcome .abandoned) (m.slot i).cancelRequested none) := rfl

theorem State.busyAbandoned_finished (v : State) {i : Nat} (inside : i < v.takes.slots.length)
    (busy : (v.slot i).state ≠ .idle) : v.busyAbandoned.finished i = true := by
  rw [State.busyAbandoned_eq, State.finished_entries v _ (fun _ => rfl)]
  cases finished : v.finished i with
  | true => rfl
  | false =>
    rw [Bool.false_or, decide_eq_true_iff, List.mem_filter, finished]
    exact ⟨List.mem_range.2 inside, by simp [busy]⟩

theorem State.flagsDropped_abandons {m : State} {i : Nat} (inside : i < m.takes.slots.length) (busy : (m.slot i).state ≠ .idle) :
    m.flagsDropped.busyAbandoned.finished i = true := State.busyAbandoned_finished m.flagsDropped inside busy

theorem State.flagsDropped_events (m : State) : m.flagsDropped.busyAbandoned.report.eventPart = m.report.eventPart := by
  rw [State.busyAbandoned_eq]
  rfl

/-- No flag, no enable and no condition is left (R175). -/
theorem State.flagsDropped_causes (m : State) : m.flagsDropped.busyAbandoned.report.causePart = (0, 0, false) := by
  rw [State.busyAbandoned_eq]
  rfl

/-- A frame that names the completion, where the completion stays. -/
theorem OnlyChanges.keepsCompletion {l : List Part} (h : OnlyChanges (.completion :: l) s t)
    (same : t.port.completion = s.port.completion) : OnlyChanges l s t := by
  have other {p : Part} (hp : p ≠ .completion) (m : p ∈ Part.completion :: l) : p ∈ l := List.mem_of_ne_of_mem hp m
  exact ⟨h.pending.imp_left (other nofun), h.now.imp_left (other nofun), h.freeIdx.imp_left (other nofun),
    h.ram.imp_left (other nofun), h.lastServed.imp_left (other nofun), h.link.imp_left (other nofun),
    h.holdArea.imp_left (other nofun), h.waiting.imp_left (other nofun), h.blocks.imp_left (other nofun), .inr same,
    h.interrupt.imp_left (other nofun), h.takes.imp_left (other nofun), h.composer.imp_left (other nofun),
    h.ports.imp_left (other nofun), h.sources.imp_left (other nofun), h.timing.imp_left (other nofun),
    h.modes.imp_left (other nofun), h.rings.imp_left (other nofun), h.causes.imp_left (other nofun),
    h.status.imp_left (other nofun)⟩

section parts

variable (s)

/-- What the two last parts of a link reset leave is left from `postsCompleted` on. -/
theorem State.linkReset_takes : s.linkReset.takes = s.postsCompleted.takes := by
  rw [s.linkReset_parts, (State.restartBuild_only _).takes_eq, State.busyAbandoned, (State.abandonTakes_only _ _).takes_eq,
    (State.flagsDropped_only _).takes_eq]

theorem State.linkReset_ram : s.linkReset.ram = s.postsCompleted.ram := by
  rw [s.linkReset_parts, (State.restartBuild_only _).ram_eq, State.busyAbandoned, (State.abandonTakes_only _ _).ram_eq,
    (State.flagsDropped_only _).ram_eq]

theorem State.linkReset_status : s.linkReset.status = s.postsCompleted.status := by
  rw [s.linkReset_parts, (State.restartBuild_only _).status_eq, State.busyAbandoned, (State.abandonTakes_only _ _).status_eq,
    (State.flagsDropped_only _).status_eq]

theorem State.linkReset_report : s.linkReset.report = s.postsCompleted.flagsDropped.busyAbandoned.report := by
  rw [s.linkReset_parts]
  unfold State.restartBuild
  split <;> rfl

theorem State.linkReset_port : s.linkReset.port = { s.port.linkReset with line := false } := by
  have down := s.postsCompleted_down.port
  have abandoned : OnlyChanges [.rings, .composer] s.postsCompleted.flagsDropped
      s.postsCompleted.flagsDropped.busyAbandoned.restartBuild :=
    ((State.abandonTakes_only _ _).mono (by decide)).next (State.restartBuild_only _) (by decide)
  rw [s.linkReset_parts, abandoned.port_same rfl]
  change { s.postsCompleted.port with line := false } = _
  rw [down]
  rfl

theorem State.linkReset_composer_eq : s.linkReset.composer = { s.composer with
    build := s.composer.build.map (fun b => s.newBuild b.target (b.attempt + 1) (b.edits.map (·.1)) []) } := by
  have abandoned := State.abandonTakes_only s.postsCompleted.flagsDropped s.postsCompleted.flagsDropped.busySlots
  have dropped := s.postsCompleted.flagsDropped_only
  have posts := s.postsCompleted_only
  have composer : s.postsCompleted.flagsDropped.busyAbandoned.composer = s.composer := by
    rw [State.busyAbandoned, abandoned.composer_eq, dropped.composer_eq, posts.composer_eq]
    rfl
  have sources : s.postsCompleted.flagsDropped.busyAbandoned.sources = s.sources := by
    rw [State.busyAbandoned, abandoned.sources_eq, dropped.sources_eq, posts.sources_eq]
    rfl
  have captured : s.postsCompleted.flagsDropped.busyAbandoned.modes.captured = s.modes.captured := by
    rw [State.busyAbandoned, abandoned.modes_eq]
    change s.postsCompleted.modes.captured = s.modes.captured
    rw [posts.modes_eq]
    rfl
  rw [s.linkReset_parts, State.restartBuild_eq, composer]
  simp only [State.newBuild_congr sources captured (congrArg Composer.live composer)]

theorem State.linkReset_frame : OnlyChanges [.ram, .lastServed, .link, .waiting, .blocks, .interrupt, .takes, .composer, .modes,
    .rings, .causes, .status] s s.linkReset :=
  (s.linkReset_only.mono (by decide)).keepsCompletion (by rw [s.linkReset_port]; rfl)

/-- The journal after a link reset: the entries of the abandoned takes stand behind those that end a POST in hand (R46). -/
theorem State.linkReset_journal (slots : s.takes.slots.length = Config.slotCount) : let m := s.postsCompleted
    s.linkReset.report.journalPart = (m.report.handed (((List.range Config.slotCount).filter
      (fun i => decide ((m.slot i).state ≠ .idle) && !m.finished i)).map
        (fun i => m.entryOf i (plainOutcome .abandoned) (m.slot i).cancelRequested none))).journalPart := by
  have length : s.postsCompleted.flagsDropped.takes.slots.length = Config.slotCount :=
    (State.completePosts_slotTotal _ _).trans slots
  rw [s.linkReset_report, State.busyAbandoned_eq, length, State.flagsDropped_entries]
  rfl

end parts

/-- Settles O12: the port acts first, so that nothing done after it sends a message or serves an access. -/
theorem linkResetAbandonsTakes : Obligations.LinkResetAbandonsTakes := by
  refine ⟨fun s cause slots => ⟨s.linkReset, rfl, ?_⟩, fun s n => ⟨State.completePosts_idle n s, fun i hand => ⟨fun finished => ?_,
    fun unfinished => ?_⟩⟩, fun s target attempt edits takes => rfl⟩
  · have port := s.linkReset_port
    have composer := s.linkReset_composer_eq
    have report := s.linkReset_report
    have cleared : s.linkReset.report.causePart = (0, 0, false) := by rw [report, State.flagsDropped_causes]
    obtain ⟨causes, enables, condition⟩ : s.linkReset.report.causes = 0 ∧ s.linkReset.report.enables = 0 ∧
        s.linkReset.report.condition = false := by simpa [Report.causePart] using cleared
    have total : s.postsCompleted.takes.slots.length = Config.slotCount := (State.completePosts_slotTotal _ _).trans slots
    dsimp only
    refine ⟨by rw [port]; rfl, by rw [port]; rfl, by rw [port]; rfl, by rw [port]; rfl, by rw [port]; rfl, by rw [port],
      by rw [port]; rfl, causes, enables, condition, s.linkReset_modes, by rw [composer], by rw [composer], by rw [composer], by rw [composer],
      by rw [composer], by rw [composer], by rw [composer], fun i inside busy => ?_, fun inHand => ?_, ?_, s.linkReset_takes,
      s.linkReset_ram, s.linkReset_status, s.linkReset_journal slots, fun none => State.completePosts_idle _ _ none,
      s.linkReset_frame⟩
    · rw [State.slot_congr s.linkReset_takes] at busy
      rw [State.finished_congr (congrArg Report.journalQueue report)]
      rw [← total] at inside
      exact State.flagsDropped_abandons inside busy
    · rw [s.linkReset_takes]
      refine State.slotsLeft_zero (State.completePosts_done _ inHand ?_)
      have few : s.linkDropped.slotsLeft ≤ s.takes.toHandle.length + 1 := by
        unfold State.slotsLeft
        rw [Nat.add_comm]
        exact Nat.add_le_add_left (by split <;> decide) _
      omega
    · rw [report, State.flagsDropped_events, s.postsCompleted_down.events]
      rfl
  · rw [State.completePosts_next hand, finished, if_pos rfl]
  · rw [State.completePosts_next hand, unfinished, if_neg Bool.false_ne_true]

end Sys2Proof.Machine
end
